-- ==== Sys2Proof/Word.lean ====
section
/-! DEFINITION. The word types of the GM-720 model, in the widths the spec gives them. -/

namespace Sys2Proof

/-- One byte of memory. -/
abbrev Byte := BitVec 8

/-- One lane's value of a vector register (R39: width 32). -/
abbrev Word32 := BitVec 32

/-- A scalar register's value (R39: width 64). -/
abbrev Word64 := BitVec 64

/-- A native instruction word (R193). -/
abbrev Word96 := BitVec 96

/-- One bit for each of the up to 1,024 lanes of a weave (R9); bit `k` stands for lane `k`.
The summary word and the 32 mask words of R10 are views of it. -/
abbrev LaneMask := BitVec 1024

/-- A 72-bit virtual address (R67), as the program counter holds it (R13). -/
abbrev VAddr := BitVec 72

end Sys2Proof
end

