-- ==== Sys2Proof/Syntax.lean ====
section
/-! DEFINITION. Syntax: the fields of an instruction word and the one inductive `Instr`, a constructor for
every row of the table of operations and events. -/

namespace Sys2Proof

/-- How the word was encoded: one native 96-bit word (R193), or a Farno instruction of `size` bytes (R348),
with the two defects that only Farno has (R349). -/
inductive Encoding where
  | native
  | farno (size : Nat) (badHint badExtension : Bool)
deriving DecidableEq, Repr

/-- The fields of an instruction, as R193 lays them out (after lowering, for Farno: R349). -/
structure Fields where
  /-- N: the guard is negated. -/
  neg : Bool
  /-- G: the guard predicate; 15 is pT. -/
  g : BitVec 4
  /-- X, Y and Z: operand codes (R195) or number fields. -/
  x : BitVec 10
  y : BitVec 10
  z : BitVec 10
  imm : BitVec 24
  mod : BitVec 11
  hint : BitVec 16
  /-- The trailing literal word, when HINT.LIT is 1 (R199). -/
  lit : Option Word96
  enc : Encoding
deriving DecidableEq, Repr

/-- A read, or a write of bytes, made by the host (R427, R436). -/
inductive HostAccess where
  | read (size : Nat)
  | write (bytes : List Byte)
  /-- The driver's accesses to an entry of the frame table (R394), whose place the spec does not give (log 70): of an HBM or
  CXL frame by PA[51:16], of flash slot s at 2^36 + s. -/
  | readFrame (frame : Nat)
  | writeFrame (frame : Nat) (entry : BitVec 16)
deriving DecidableEq, Repr

/-- What a remote request asks of the owning module (R441, R442); the spec does not give the shape of every message
(log 66). -/
inductive RemoteOp where
  | load (size : Nat)
  | store (bytes : List Byte)
  /-- A fabric atomic: operation code AOP (R287), width in bytes, operand and compare value. -/
  | atomic (aop size operand compare : Nat)
  /-- A remote signal: a JOIN decrement (R32), a hoop update (R24: 0 join, 1 leave, 2 arrive), a wake word
  (R336) or a push of a queue entry (R334). -/
  | decrement
  | hoop (update : Nat)
  | wake (value : Nat)
  | push (queue : Nat)
  /-- Bytes of one 32-byte sector, those of a mask, some of them poisoned (R81, R110, R177). -/
  | sector (mask poison : BitVec 32) (bytes : List Byte)
  /-- Queue operations made whole at the descriptor's home slice (R307). -/
  | queuePush (nb : Bool) (entries : List (List Byte))
  | queuePop (nb : Bool) (count : Nat)
  /-- A KVAPP made whole at its page's home slice where the trailer is still as it was read (R183). -/
  | append (fill groups old new : Nat) (keys values : List Byte)
  /-- A PARK's watch armed on a word that equals EXPECT, and the notice of its wake write (R187, R189). -/
  | watch (expect token : Nat)
  | woken (token value : Nat)
deriving DecidableEq, Repr

/-- A request that another module sends to this one (R441, R442). -/
structure FabricRequest where
  id : Nat
  source : Nat
  dest : Nat
  hops : Nat
  ctx : Nat
  domain : Nat
  va : Nat
  op : RemoteOp
deriving DecidableEq, Repr

/-- What comes back for a remote request (R442): data, or the index of a group 19 failure. -/
inductive FabricReply where
  | data (bytes : List Byte)
  | failed (index cause : Nat)
deriving DecidableEq, Repr

/-- A response on its way to the module that asked (R441, R442). -/
structure FabricResponse where
  id : Nat
  dest : Nat
  hops : Nat
  reply : FabricReply
deriving DecidableEq, Repr

/-- A message that this module puts on the fabric (R438, R443, R446). -/
inductive Message where
  | request (r : FabricRequest)
  | response (r : FabricResponse)
  | time (t : Nat)
  | gangReady (member dest hops : Nat)
  | gangGo (dest hops : Nat)
  | gangAbort (dest hops : Nat)
  /-- Credits of a virtual channel returned in the header of a flit (R437). -/
  | credit (vc n : Nat)
deriving DecidableEq, Repr

/-- A translation of a Farno text section that a hinge core offers for the image cache (R364). -/
structure Translation where
  ctx : Nat
  /-- The section's first byte and its length. -/
  base : Nat
  size : Nat
  /-- Errata bits consulted, each with the value it had. -/
  errata : List (Nat × Bool)
  /-- The present mask and the bytes' hash the translation was built under. -/
  present : BitVec 512
  key : BitVec 512
  /-- When its build began, in ticks (R356). -/
  begun : Nat
deriving DecidableEq, Repr

/-- The measured quantities of a telemetry record (R466), which the module's sensors supply: those of the ECC events and of
the CXL tier's errors count what has come since the last reading. -/
structure Telemetry where
  die : Nat
  eccCorrected : Nat
  eccUncorrected : Nat
  throttle : Nat
  power : Nat
  hbmPower : Nat
  junction : Nat
  hbmTemperature : Nat
  modulePower : Nat
  inputVoltage : Nat
  inlet : Nat
  flashWear : Nat
  cxlUncorrected : Nat
deriving DecidableEq, Repr, Inhabited

/-- What the host has set in the configuration space of a link that has trained: CXL (R436), and MSI-X (R435). -/
structure HostConfig where
  cxl : Bool
  msix : Bool
deriving DecidableEq, Repr

/-- A flit as its port's decoder delivers it (R437): its bytes, the symbols corrected in its codewords, and the codewords that
could not be corrected. -/
structure ReceivedFlit where
  bytes : List Byte
  corrected : Nat
  bad : Nat
deriving DecidableEq, Repr

/-- One step of the part: an instruction of the opcode map (R208), or an event. -/
inductive Instr where
  /-- IADD (R222). Adds two integer sources, fitted to the destination width, with the interval bounds (jamb) of R47. -/
  | iadd (f : Fields)
  /-- ISUB (R222). Subtracts two integer sources. -/
  | isub (f : Fields)
  /-- IMUL (R222). Multiplies two integer sources, keeping the low w bits or saturating. -/
  | imul (f : Fields)
  /-- IMULH (R222). Writes the high half of the 2w-bit product. -/
  | imulh (f : Fields)
  /-- IMAD (R222). Computes a·b + c on integers. -/
  | imad (f : Fields)
  /-- IMIN (R222). Integer minimum. -/
  | imin (f : Fields)
  /-- IMAX (R222). Integer maximum. -/
  | imax (f : Fields)
  /-- IABS (R222). Integer absolute value. -/
  | iabs (f : Fields)
  /-- INEG (R222). Integer negation. -/
  | ineg (f : Fields)
  /-- ICMP (R225). Compares integers and writes a predicate per acting lane. -/
  | icmp (f : Fields)
  /-- ISEL (R225). Selects a or b per lane by a predicate. -/
  | isel (f : Fields)
  /-- AND (R226). Bitwise AND. -/
  | andB (f : Fields)
  /-- OR (R226). Bitwise OR. -/
  | orB (f : Fields)
  /-- XOR (R226). Bitwise XOR. -/
  | xorB (f : Fields)
  /-- ANDN (R226). Computes a AND NOT b. -/
  | andn (f : Fields)
  /-- NOT (R226). Bitwise complement. -/
  | notB (f : Fields)
  /-- SHL (R226). Shift left by the reduced count. -/
  | shl (f : Fields)
  /-- SHR (R226). Logical shift right. -/
  | shr (f : Fields)
  /-- SAR (R226). Arithmetic shift right. -/
  | sar (f : Fields)
  /-- ROT (R226). Rotate left. -/
  | rot (f : Fields)
  /-- BFE (R227). Extracts a bit field, signed or unsigned. -/
  | bfe (f : Fields)
  /-- BFI (R227). Inserts a bit field into the destination. -/
  | bfi (f : Fields)
  /-- POPC (R227). Counts the one bits. -/
  | popc (f : Fields)
  /-- CLZ (R227). Counts the leading zero bits. -/
  | clz (f : Fields)
  /-- BREV (R227). Reverses the bit order. -/
  | brev (f : Fields)
  /-- LEA (R228). Computes base + index shifted left. -/
  | lea (f : Fields)
  /-- PLOP (R229). Evaluates a three-input predicate function per lane. -/
  | plop (f : Fields)
  /-- WIDEN (R50). Checks a register against bounds, applies the check mode to failing lanes, and narrows the jamb. -/
  | widen (f : Fields)
  /-- BNDGET (R231). Reads a jamb endpoint, or whether the jamb is TOP, into a scalar register. -/
  | bndget (f : Fields)
  /-- BNDTOP (R232). Sets a register's jamb to TOP and drops its refinements. -/
  | bndtop (f : Fields)
  /-- ARSET (R233). Writes a whole array register after the checks of R53. -/
  | arset (f : Fields)
  /-- ARGET (R234). Reads half of an array register. -/
  | arget (f : Fields)
  /-- ARCHK (R235). Tests indexed elements for range without accessing them. -/
  | archk (f : Fields)
  /-- NOP (R247). Does nothing except wait on counters and apply its SET. -/
  | nop (f : Fields)
  /-- BRA (R237). Direct branch, which may split or defer the path under R15. -/
  | bra (f : Fields)
  /-- BRX (R238). Indirect branch to a scalar target. -/
  | brx (f : Fields)
  /-- BCMP (R239). Compares, branches and refines the jamb of the compared register. -/
  | bcmp (f : Fields)
  /-- CALL (R240). Branches and writes a 32-bit link in the lanes taken. -/
  | call (f : Fields)
  /-- RET (R241). Returns to the lanes' common link value. -/
  | ret (f : Fields)
  /-- RECONV (R242). Acts on the top entry of the reconvergence stack: switches deferred lanes, pops, or arrives for a merge. -/
  | reconv (f : Fields)
  /-- EXIT (R243). Removes lanes from the path, which unwinds or ends. -/
  | exit (f : Fields)
  /-- END (R244). Ends the whole weave. -/
  | endWeave (f : Fields)
  /-- TRAP (R245). Parks the acting lanes with a software trap of group 31. -/
  | trapSw (f : Fields)
  /-- BKPT (R246). Halts the path with BREAKPOINT when debug is enabled. -/
  | bkpt (f : Fields)
  /-- FADD (R253). Floating-point addition, rounded once. -/
  | fadd (f : Fields)
  /-- FSUB (R253). Floating-point subtraction. -/
  | fsub (f : Fields)
  /-- FMUL (R253). Floating-point multiplication. -/
  | fmul (f : Fields)
  /-- FFMA (R253). Fused multiply-add, rounded once. -/
  | ffma (f : Fields)
  /-- FMIN (R254). Floating-point minimum. -/
  | fmin (f : Fields)
  /-- FMAX (R254). Floating-point maximum. -/
  | fmax (f : Fields)
  /-- FABS (R254). Clears the sign bit. -/
  | fabs (f : Fields)
  /-- FNEG (R254). Inverts the sign bit. -/
  | fneg (f : Fields)
  /-- FCMP (R255). Floating-point compare into a predicate. -/
  | fcmp (f : Fields)
  /-- FDOT2 (R253). Two-element dot product plus c, rounded once to FP32. -/
  | fdot2 (f : Fields)
  /-- FRCP (R257). Reciprocal, correctly rounded with .RN. -/
  | frcp (f : Fields)
  /-- FRSQ (R256). Reciprocal square root. -/
  | frsq (f : Fields)
  /-- FSQRT (R256). Square root, correctly rounded. -/
  | fsqrt (f : Fields)
  /-- FEXP2 (R256). Base-2 exponential. -/
  | fexp2 (f : Fields)
  /-- FLOG2 (R256). Base-2 logarithm. -/
  | flog2 (f : Fields)
  /-- FSIN (R256). Sine. -/
  | fsin (f : Fields)
  /-- FCOS (R256). Cosine. -/
  | fcos (f : Fields)
  /-- FTANH (R256). Hyperbolic tangent. -/
  | ftanh (f : Fields)
  /-- CVT (R258). Converts elements between formats, without saturation or unsignedness. -/
  | cvt (f : Fields)
  /-- CVT_SAT (R258). Converts elements with saturation. -/
  | cvtSat (f : Fields)
  /-- CVT_UNS (R258). Converts elements with unsigned integers. -/
  | cvtUns (f : Fields)
  /-- CVT_SAT_UNS (R258). Converts elements with saturation and unsigned integers. -/
  | cvtSatUns (f : Fields)
  /-- QUANT (R262). Quantises each 32-lane group into an MX or Q4X block with its scale. -/
  | quant (f : Fields)
  /-- DEQUANT (R264). Decodes MX or Q4X blocks to FP32. -/
  | dequant (f : Fields)
  /-- QPERM (R266). Permutes lanes through a permutation slot. -/
  | qperm (f : Fields)
  /-- PACK (R265). Packs per-lane codes into memory layout. -/
  | pack (f : Fields)
  /-- UNPACK (R265). Unpacks packed codes into per-lane layout. -/
  | unpack (f : Fields)
  /-- FMTSET (R267). Writes a vector register's format tag. -/
  | fmtset (f : Fields)
  /-- FMTGET (R267). Reads a vector register's format tag. -/
  | fmtget (f : Fields)
  /-- MOV (R268). Copies bits between registers, special registers and immediates. -/
  | mov (f : Fields)
  /-- MOVS (R269). Writes a scalar with 32 bits sign-extended. -/
  | movs (f : Fields)
  /-- S2V (R270). Writes a scalar into one lane of a vector register. -/
  | s2v (f : Fields)
  /-- V2S (R270). Reads one lane of a vector register into a scalar. -/
  | v2s (f : Fields)
  /-- SHFL (R272). Reads a value from another lane of the sub-group. -/
  | shfl (f : Fields)
  /-- VOTE (R273). Combines a predicate over the acting lanes. -/
  | vote (f : Fields)
  /-- BALLOT (R274). Forms ballot words of a predicate. -/
  | ballot (f : Fields)
  /-- WRED (R275). Reduces a value over the path's acting lanes. -/
  | wred (f : Fields)
  /-- LD (R283). Global load, indexed or raw, with range, alignment, translation and fault handling per lane. -/
  | ld (f : Fields)
  /-- ST (R284). Global store, indexed or raw. -/
  | st (f : Fields)
  /-- LDR (R283). Raw-pointer global load. -/
  | ldr (f : Fields)
  /-- STR (R284). Raw-pointer global store. -/
  | str (f : Fields)
  /-- LDS (R283). Scratchpad load. -/
  | lds (f : Fields)
  /-- STS (R284). Scratchpad store. -/
  | sts (f : Fields)
  /-- ATOM (R288). Global atomic that returns the old value. -/
  | atom (f : Fields)
  /-- RED (R288). Global atomic without a return. -/
  | red (f : Fields)
  /-- ATOMS (R288). Scratchpad atomic at core scope. -/
  | atoms (f : Fields)
  /-- SPILL (R62). Writes a register and its jamb trailer to a spill block. -/
  | spill (f : Fields)
  /-- FILL (R63). Validates a spill block and restores a register and its jamb. -/
  | fill (f : Fields)
  /-- PREF (R291). Prefetches lines without faulting. -/
  | pref (f : Fields)
  /-- STASH (R292). Maps a stash window after the checks of R77. -/
  | stash (f : Fields)
  /-- UNSTASH (R293). Writes back and unmaps a stash window. -/
  | unstash (f : Fields)
  /-- STWB (R294). Writes back the dirty sectors of one or all windows. -/
  | stwb (f : Fields)
  /-- PHASE (R295). Phase boundary: a release, then an acquire, at a scope. -/
  | phase (f : Fields)
  /-- FENCE (R105). Orders the path's class L accesses at the L1. -/
  | fence (f : Fields)
  /-- FENCEX (R106). Orders operations across the named access classes. -/
  | fencex (f : Fields)
  /-- BAR (R297). Weave barrier across its live paths. -/
  | bar (f : Fields)
  /-- ABINIT (R299). Initialises an arrival barrier word. -/
  | abinit (f : Fields)
  /-- ABEXP (R299). Adds to an arrival barrier's expected count. -/
  | abexp (f : Fields)
  /-- ABARR (R299). Adds arrivals to an arrival barrier after earlier accesses perform. -/
  | abarr (f : Fields)
  /-- ABWAIT (R300). Waits on, or tests with .NB, a barrier generation. -/
  | abwait (f : Fields)
  /-- JOIN (R24). Joins a hoop, updating its descriptor atomically. -/
  | joinHoop (f : Fields)
  /-- LEAVE (R24). Leaves a hoop, possibly completing its barrier. -/
  | leaveHoop (f : Fields)
  /-- HBAR (R24). Hoop barrier: releases, arrives, waits for GEN to change and acquires. -/
  | hbar (f : Fields)
  /-- WAITC (R303). Blocks the path until a dependence counter is at or below n. -/
  | waitc (f : Fields)
  /-- YIELD (R304). Lets the other ready paths issue first. -/
  | yieldTurn (f : Fields)
  /-- SLEEP (R305). Blocks the path until an sr_tick deadline. -/
  | sleep (f : Fields)
  /-- QPUSH (R307). Reserves entries in a queue and writes them, blocking or not. -/
  | qpush (f : Fields)
  /-- QPOP (R307). Reserves entries of a queue and reads them, blocking or not. -/
  | qpop (f : Fields)
  /-- TSRLD (R318). Loads a tensor shape record into a shape register. -/
  | tsrld (f : Fields)
  /-- CPY (R320). Queues a copy on a channel of the copy and gather engine. -/
  | cpy (f : Fields)
  /-- GATHER (R321). Queues a gather of indexed global rows into the scratchpad. -/
  | gather (f : Fields)
  /-- SCATTER (R321). Queues a scatter of scratchpad rows to indexed global rows. -/
  | scatter (f : Fields)
  /-- MCLAIM (R140). Atomically claims matrix resources, zeroing those from another owner. -/
  | mclaim (f : Fields)
  /-- MREL (R141). Releases matrix resources once earlier operations on them complete. -/
  | mrel (f : Fields)
  /-- MLOAD (R323). Fills an operand or permutation slot from a shape register's tile. -/
  | mload (f : Fields)
  /-- MMA (R324). Enqueues an unscaled tile task. -/
  | mma (f : Fields)
  /-- MMAS (R324). Enqueues a block-scaled tile task. -/
  | mmas (f : Fields)
  /-- ACCLD (R328). Loads an accumulator tile. -/
  | accld (f : Fields)
  /-- ACCST (R328). Stores an accumulator tile. -/
  | accst (f : Fields)
  /-- ACCZ (R328). Zeroes an accumulator tile and sets its tag. -/
  | accz (f : Fields)
  /-- MTASK (R327). Reads a tile-task record and enqueues its task. -/
  | mtask (f : Fields)
  /-- SHWIN (R168). Claims the shutter array or sets its tick window. -/
  | shwin (f : Fields)
  /-- SHLOAD (R166). Loads the 4,096 shutter delay words from the scratchpad. -/
  | shload (f : Fields)
  /-- SHINJ (R166). Sets the shutter injections from the scratchpad. -/
  | shinj (f : Fields)
  /-- SHINJ_V (R166). Sets the shutter injections from a vector register. -/
  | shinjV (f : Fields)
  /-- SHLAUNCH (R166). Starts a race, optionally in chain mode. -/
  | shlaunch (f : Fields)
  /-- SHCAP (R167). Captures times or ranks of the race into a vector register. -/
  | shcap (f : Fields)
  /-- SHRESET (R166). Lowers every wire, and releases the array with .REL. -/
  | shreset (f : Fields)
  /-- KVAPP (R331). Appends one VQ-coded position to a code page. -/
  | kvapp (f : Fields)
  /-- KVLD (R330). Reads KV code bytes and status per lane, optionally waiting for residency. -/
  | kvld (f : Fields)
  /-- VQLUT (R332). Builds a query score table in the scratchpad. -/
  | vqlut (f : Fields)
  /-- VQSCORE (R333). Scores positions against a table. -/
  | vqscore (f : Fields)
  /-- SPAWN (R334). Writes a child continuation record and queues it. -/
  | spawn (f : Fields)
  /-- PARK (R335). Arms a wake watch and saves the weave into the park table. -/
  | park (f : Fields)
  /-- WAKE (R336). Releases, then writes a wake word at its home slice. -/
  | wake (f : Fields)
  /-- ROLE (R337). Changes the weave's role. -/
  | role (f : Fields)
  /-- CSRR (R339). Reads a hinge-core control and status register. -/
  | csrr (f : Fields)
  /-- CSRW (R339). Writes, sets or clears bits of a hinge-core control and status register. -/
  | csrw (f : Fields)
  /-- ERET_REPLAY (R340). Ends the stop and makes the path READY to re-execute, or continues after a TRAP or BKPT. -/
  | eretReplay (f : Fields)
  /-- ERET_SKIP (R340). Ends the stop and resumes the path after the stopping instruction. -/
  | eretSkip (f : Fields)
  /-- ERET_KILL (R340). Ends the stop, removing the lanes as by a guarded EXIT. -/
  | eretKill (f : Fields)
  /-- ERET_END (R340). Ends the stop and ends the weave. -/
  | eretEnd (f : Fields)
  /-- TLBINV_VA (R341). Invalidates translations of a VA range in every TLB of the module. -/
  | tlbinvVa (f : Fields)
  /-- TLBINV_CTX (R341). Invalidates the translations of one context. -/
  | tlbinvCtx (f : Fields)
  /-- TLBINV_ALL (R341). Invalidates every translation. -/
  | tlbinvAll (f : Fields)
  /-- ICINV_VA (R341). Invalidates the instruction lines and translations of a byte range. -/
  | icinvVa (f : Fields)
  /-- ICINV_CTX (R341). Invalidates the instruction lines of one context. -/
  | icinvCtx (f : Fields)
  /-- ICINV_ALL (R341). Invalidates every instruction line. -/
  | icinvAll (f : Fields)
  /-- DBGRD (R343). Reads the state of a stopped path through the debug window. -/
  | dbgrd (f : Fields)
  /-- DBGWR (R343). Writes the state of a stopped path, and its jamb with .J. -/
  | dbgwr (f : Fields)
  /-- HALT (R344). Stops the hinge core until an event is pending. -/
  | halt (f : Fields)
  /-- DISPATCH_INSTANCE (R430). The dispatcher picks a record by priority and deficit and dispatches one instance, placing it by affinity. -/
  | dispatchInstance
  /-- DISPATCH_SPILL_EXPIRY (R33). A die's dispatch spill time passes, so the quads of every die are tried. -/
  | dispatchSpillExpiry (die : Nat)
  /-- STARVE_EXPIRY (R430). A lower priority level has waited STARVE µs and is served once first. -/
  | starveExpiry (level : Nat)
  /-- ISSUE_STARVATION_PROMOTE (R34). A ready path unissued for 128 cycles is taken before every class. -/
  | issueStarvationPromote (core slot path : Nat)
  /-- OPERATION_COMPLETE (R203). An outstanding operation completes: results are written, the counter falls, and waiters may wake. -/
  | operationComplete (core slot op : Nat)
  /-- PATH_MERGE (R17). The paths of a SPLIT entry merge once no live path bears it except the arrivals. -/
  | pathMerge (core slot serial : Nat)
  /-- WEAVE_END (R19). Once every issued operation completes, the weave leaves its hoops, releases its resources, counts DONE and frees its slot. -/
  | weaveEnd (core slot : Nat)
  /-- PARENT_DECREMENT (R32). The parent join counter is decremented with release, possibly after waiting or fault service. -/
  | parentDecrement (ctx record : Nat)
  /-- SLICE_EXPIRED (R412). The weave's time slice expires and is raised in group 17, or deferred while a path is HALTED. -/
  | sliceExpired (core slot : Nat)
  /-- MATRIX_FAULT_DELIVERY (R155). The issuing path of a failed tile task stops at its next instruction boundary. -/
  | matrixFaultDelivery (core slot : Nat)
  /-- TILE_TASK_START (R149). The tile scheduler starts the head task once its inputs are ready, with fill, or chains it. -/
  | tileTaskStart (core : Nat)
  /-- TILE_TASK_COMPLETE (R150). A task completes after its last step and its counter falls. -/
  | tileTaskComplete (core : Nat)
  /-- SHUTTER_RACE_END (R166). The race ends after TW + 8 cycles, and the waiting shutter forms take effect. -/
  | shutterRaceEnd (core : Nat)
  /-- COPY_SECTOR_PERFORMED (R175). A copy sector is performed at its destination and its bytes are credited to the barrier. -/
  | copySectorPerformed (core ch : Nat)
  /-- GATHER_BATCH_TRANSLATE (R174). The engine translates a batch of 8 lanes' row pages and parks the faulting lanes. -/
  | gatherBatchTranslate (core ch : Nat)
  /-- STASH_WRITEBACK_AUTO (R81). The hardware writes back a dirty stash sector at its own choice. -/
  | stashWritebackAuto (core slot window sector : Nat)
  /-- HEAT_EPOCH (R393). At each heat epoch, counters halve and hot pages move between stacks or are promoted from CXL. -/
  | heatEpoch (die : Nat)
  /-- REMOTE_REPLY_HELD (R303). A remote load reply for an evicted weave is held in its save record. -/
  | remoteReplyHeld (request : Nat) (reply : FabricReply)
  /-- SLEEP_DEADLINE (R305). A SLEEP deadline passes and the path becomes READY. -/
  | sleepDeadline (core slot path : Nat)
  /-- QUEUE_PORT_UNBIND (R308). A path blocked on a port whose binding is removed traps with PORT_UNBOUND. -/
  | queuePortUnbind (ctx port : Nat)
  /-- PARK_T1_EXPIRY (R188). T1 after the park, listed resident pages move to CXL. -/
  | parkT1Expiry (saved : Nat)
  /-- PARK_T2_EXPIRY (R188). T2 after T1, listed CXL pages move to flash. -/
  | parkT2Expiry (saved : Nat)
  /-- AGE_T1_EXPIRY (R393). An idle HBM page of an aging class moves to CXL. -/
  | ageT1Expiry (ctx va : Nat)
  /-- AGE_T2_EXPIRY (R393). An idle CXL page of an aging class moves to flash. -/
  | ageT2Expiry (ctx va : Nat)
  /-- TRANSOM_PAGE_MOVE (R391). The Transom sets MIGR, invalidates, writes back and copies a page to its destination. -/
  | transomPageMove (ctx va frame : Nat)
  /-- PAGE_MOVE_COMPLETE (R391). A move ends: CRC is checked, the leaf is rewritten, STATE is updated and waiting lanes replay. -/
  | pageMoveComplete (ctx va : Nat)
  /-- TABLE_WALK_BUSY_TIMEOUT (R382). A walk waiting on MIGR for 64 µs faults with TABLE_NODE_BUSY. -/
  | tableWalkBusyTimeout (core slot path : Nat)
  /-- FAULT_RECORD_DEFERRED_WRITE (R396). A fault record waiting for ring room is written once room appears. -/
  | faultRecordDeferredWrite (ctx : Nat)
  /-- REPLY_RING_TAIL_WRITE (R395). A driver write of RQTAIL makes the device read the new replies. -/
  | replyRingTailWrite (ctx tail : Nat)
  /-- REPLY_RETRY (R397). A RETRY reply makes the token's path READY to re-execute. -/
  | replyRetry (ctx : Nat)
  /-- REPLY_SKIP (R397). A SKIP reply acts as ERET.SKIP. -/
  | replySkip (ctx : Nat)
  /-- REPLY_KILL (R397). A KILL reply acts as ERET.KILL. -/
  | replyKill (ctx : Nat)
  /-- REPLY_END (R397). An END reply acts as ERET.END. -/
  | replyEnd (ctx : Nat)
  /-- REPLY_RAISE (R397). A RAISE reply sends the stop to the hinge core. -/
  | replyRaise (ctx : Nat)
  /-- REPLY_RESERVED (R397). A reply with a reserved disposition is dropped and RQERR is set. -/
  | replyReserved (ctx : Nat)
  /-- STOP_ENQUEUE_DEFERRED (R404). A stop waiting for a full stop queue enters it when room appears. -/
  | stopEnqueueDeferred (core : Nat)
  /-- TAKE_STOP (R407). The hinge core takes the oldest stop and enters TVEC. -/
  | takeStop (core : Nat)
  /-- TAKE_INTERRUPT (R407). The hinge core takes a pending interrupt and enters IVEC. -/
  | takeInterrupt (core : Nat)
  /-- HFWD (R408). A write of HFWD forwards the stop in service to the fault ring. -/
  | hfwd (core : Nat)
  /-- EVICT_REQUEST (R414). A write of EVICT with bit 63 requests soft eviction of a weave. -/
  | evictRequest (core slot : Nat)
  /-- EVICT_RETURN (R413). A write of EVICT with bit 62 returns the saved weave at TSAVE to its queue. -/
  | evictReturn (core : Nat)
  /-- EVICTION_COMPLETE (R414). After the drain, the eviction retests wakes, writes back, saves and frees the weave. -/
  | evictionComplete (core slot : Nat)
  /-- WEAVE_WAKE_RETURN (R415). A wake condition of an evicted weave is met, and the weave returns to its queue. -/
  | weaveWakeReturn (saved : Nat)
  /-- WEAVE_RETURN (R416). A returned weave is placed, restored, given its held replies and acquires. -/
  | weaveReturn (saved : Nat)
  /-- RETALL (R433). Returns every evicted weave of the context blocked at ABWAIT or BAR. -/
  | retall (ctx : Nat)
  /-- HALTREQ (R464). Requests a halt of one path before its next issue. -/
  | haltreq (core slot path : Nat)
  /-- LATCH_FREEZE (R420). FREEZE stops the core's clocks and scans it out to the image. -/
  | latchFreeze (die : Nat)
  /-- SCAN_OUT_END (R420). Scan-out ends and catching of replies continues. -/
  | scanOutEnd (die : Nat)
  /-- LATCH_REPLY_CATCH (R421). A reply for a frozen core is written into the next reply slot. -/
  | latchReplyCatch (die request : Nat) (reply : FabricReply)
  /-- CATCH_SLOW (R420). GRACE passes with replies outstanding, and CATCH_SLOW is reported. -/
  | catchSlow (die : Nat)
  /-- IMAGE_SEAL (R420). With no reply outstanding, the image is sealed and the core zeroed and returned. -/
  | imageSeal (die : Nat)
  /-- LATCH_RESTORE (R424). RESTORE verifies and loads an image onto a core and starts it. -/
  | latchRestore (die : Nat)
  /-- CONT_QUEUE_TAIL_WRITE (R429). A host write of a continuation queue's TAIL pushes entries, or sets OVF. -/
  | contQueueTailWrite (queue tail : Nat)
  /-- HOST_BAR2_ACCESS (R427). A host read or write through BAR2 reaches device physical memory. -/
  | hostBar2Access (offset : Nat) (access : HostAccess)
  /-- REGISTER_WRITE (R5). A write to a BAR0 register or field with no row of its own follows its Access code. -/
  | registerWrite (offset size value : Nat)
  /-- HOST_LINK_TRAINED (R436). The host port trains at a rate and width, with or without CXL, and its configuration space has
  MSI-X enabled or not (R435). -/
  | hostLinkTrained (rate width : Nat) (config : HostConfig)
  /-- WASIS_LINK_UP (R439). A Wasis port trains and becomes UP, raising its vector. -/
  | wasisLinkUp (port lanes peer : Nat)
  /-- WASIS_LINK_DOWN (R437). A port goes down after eight failed retrains, raising its vector. -/
  | wasisLinkDown (port : Nat)
  /-- FLIT_RECEIVE (R437). A flit is received, checked by CRC and replayed on failure. -/
  | flitReceive (port : Nat) (flit : ReceivedFlit)
  /-- FABRIC_REQUEST_RECEIVE (R442). A remote request is admitted, forwarded, or denied, and performed at the home slice. -/
  | fabricRequestReceive (port : Nat) (request : FabricRequest)
  /-- FABRIC_RESPONSE_RECEIVE (R442). A response to a remote request completes it, or is dropped after timeout. -/
  | fabricResponseReceive (port : Nat) (response : FabricResponse)
  /-- REMOTE_TIMEOUT_EXPIRY (R442). A remote request unanswered within RTIMEOUT ends with REMOTE_TIMEOUT. -/
  | remoteTimeoutExpiry (request : Nat)
  /-- FABRIC_TIME_FLIT (R443). Every 10 µs, ports exchange time flits to align FTIME. -/
  | fabricTimeFlit (port time : Nat)
  /-- GANG_ARM (R445). The ARM command of the gang controller. -/
  | gangArm
  /-- GANG_DISARM (R445). The DISARM command of the gang controller. -/
  | gangDisarm
  /-- GANG_START (R444). At the start time, the member enables the gang context's queues. -/
  | gangStart
  /-- GANG_MEMBER_READY (R444). A member finishes pre-emption and sends READY to the leader. -/
  | gangMemberReady
  /-- GANG_READY_RECEIVE (R446). The leader receives READY, and sends GO once all members are ready. -/
  | gangReadyReceive (member : Nat)
  /-- GANG_GO_RECEIVE (R446). A member receives GO. -/
  | gangGoReceive
  /-- GANG_ABORT_RECEIVE (R446). A member receives ABORT, re-pre-empts and records GANG_LATE. -/
  | gangAbortReceive
  /-- GANG_GRACE_EXPIRY (R446). At START + GRACE without every READY, the leader sends ABORT. -/
  | gangGraceExpiry
  /-- GANG_MEMBER_TIMEOUT (R446). At START + 2 × GRACE with neither GO nor ABORT, a member aborts. -/
  | gangMemberTimeout
  /-- DRAIN_COMPLETE (R455). The drained core shows no resident weave, and DRAIN completes. -/
  | drainComplete (core : Nat)
  /-- HINGE_FAULT (R458). A faulting hinge core is reloaded and its stop requeued. -/
  | hingeFault (core : Nat)
  /-- TRANSLATION_INSTALL (R355). A background Farno translation is installed in the translated image cache. -/
  | translationInstall (entry : Translation)
  /-- PATH_SAMPLE (R463). Every 2^SLOG2 cycles, a scheduler writes a SAMPLE record for one path. -/
  | pathSample (core scheduler : Nat)
  /-- TELEMETRY_UPDATE (R466). Firmware rewrites the telemetry records every 1 ms. -/
  | telemetryUpdate (reading : Telemetry)
  /-- GATING_CHANGE (R469). A thermal or power limit starts or stops issue gating. -/
  | gatingChange (die : Nat) (on : Bool)
  /-- HARDWARE_ERROR (R400). A hardware cause of group 21 is recorded in the bitmaps and black box. -/
  | hardwareError (index unit core syndrome : Nat)
  /-- FATAL_ERROR (R470). A fatal error stops dispatch, dumps the cores where it can, and warm-resets the module. -/
  | fatalError (index unit core : Nat)
  /-- CORE_AUTO_RETIRE (R471). Firmware drains and retires a hung or repeatedly failing core. -/
  | coreAutoRetire (core : Nat)
  /-- CACHE_LINE_WRITE_BACK (R98). The hardware writes a dirty cache line back of its own accord, so the write performs at a point earlier than any release requires. -/
  | cacheLineWriteBack (core line : Nat)
  /-- CXL_MEM_ACCESS (R436). A host CXL.mem read or write through the HDM decoder reaches device memory in [0, 768 GiB), ordered as BAR2 writes are, and may be a wake write. -/
  | cxlMemAccess (address : Nat) (access : HostAccess)
  /-- ATTEST (R454). Writes a signed quote over the supplied nonce. -/
  | attest
  /-- STAGE (R454). Copies an image into the staging store and verifies it. -/
  | stage
  /-- APPLY (R456). Applies a staged component to a die and measures it into MR6. -/
  | applyUpdate
  /-- FLOOR (R454). Raises a component's fused SVN floor. -/
  | floor
  /-- DRAIN (R455). Drains a core by eviction and by freeze and restore elsewhere. -/
  | drain
  /-- RETURN (R454). Returns a drained core to service. -/
  | returnCore
  /-- RETIRE (R454). Takes a drained core out of service for good. -/
  | retire
  /-- COLD_RESET (R450). Cold reset runs the verified boot chain and measures each stage. -/
  | coldReset
  /-- WARM_RESET (R450). Warm reset reruns the boot chain and keeps the fields marked as kept. -/
  | warmReset
  /-- FIRMWARE_REHASH (R458). Once per second, resident firmware is re-hashed against its measurements. -/
  | firmwareRehash
deriving DecidableEq, Repr

end Sys2Proof
end

