-- ==== Sys2Proof/Machine/State.lean ====
section
/-! DEFINITION. The state of the module, as plain data: every piece of state that INVENTORY.md lists under
'## State', with the rule that names it. Sparse tables are lists of (key, value) pairs in rising key order; an
absent key stands for the reset value. -/

namespace Sys2Proof.Machine

/-- A list of (key, value) pairs whose keys rise strictly. -/
abbrev Table (α : Type) := List (Nat × α)

/-- Memory: the bytes that differ from what an unlisted address reads as (0; log 2), keys rising strictly. -/
abbrev Memory := List Host.Cell

/-- The format tags of R131. -/
inductive Tag where
  | untyped | i32 | f32 | f16x2 | bf16x2 | e4m3x4 | e5m2x4 | i8x4 | i4x8 | e2m3x4 | e3m2x4 | e2m1x8
  | q4x | e8m0x4 | ue8m8x2 | vq8x4
deriving DecidableEq, Repr

/-- The jamb of an integer register (R39): an interval of signed integers, or TOP. -/
inductive Jamb where
  | top
  | iv (lo hi : Int)
deriving DecidableEq, Repr

/-- A refinement of a vector register in a path (R42). `age` orders insertions over the whole weave. -/
structure Refine where
  reg : Nat
  jamb : Jamb
  age : Nat
deriving DecidableEq, Repr

/-- An entry of a reconvergence stack (R15, R16). A DEFER entry also records the address of the RECONV of its
first arrival with the address after it, and the age after which refinements are dropped (R18). -/
inductive StackEntry where
  | split (rid serial : Nat)
  | defer (rid : Nat) (deferred : LaneMask) (resume : VAddr) (merged : LaneMask) (arrived : Bool)
      (reconv after : VAddr) (age : Nat)
deriving DecidableEq, Repr

/-- A cause code (R399). -/
structure Cause where
  group : Nat
  index : Nat
deriving DecidableEq, Repr

/-- What identifies a weave to the engines (R140): context, record, instance and dispatch generation. -/
structure WeaveId where
  ctx : Nat
  record : Nat
  inst : Nat
  gen : Nat
deriving DecidableEq, Repr

/-- What a BLOCKED path waits for (R35, R309). `stall` is every wait that is no blocking point and that ends by
issuing the instruction again; the others are the waits the spec names, with the address after the instruction
where the path goes on there. -/
inductive Wait where
  | stall (reason : Nat)
  | bar (next : VAddr)
  | abwait (offset gen : Nat) (next : VAddr)
  | hbar (desc gen scope : Nat) (next : VAddr)
  | qpop (port count : Nat)
  | waitc (counter n : Nat)
  | sleep (deadline : Nat) (next : VAddr)
  | kvld (entries : List Nat)
  | park (record : Nat) (next : VAddr)
  | hold (op : Nat)
  | batches (op : Nat) (next : VAddr)
deriving DecidableEq, Repr

/-- A PARKED path (R21): the cause it parked with, its detail register (R402), its token (0: none), whether its
PC already lies after the stopping instruction (R245), and the address after that instruction (R340). -/
structure Parked where
  cause : Cause
  detail : BitVec 96
  token : Nat
  resumesNext : Bool
  next : VAddr
  /-- WHOLE of its fault record (R396): the whole path stopped, and not lanes of it. -/
  whole : Bool := false
  /-- The stop has been raised at the hinge core (R397), not only written to the fault ring. -/
  raised : Bool := false
deriving DecidableEq, Repr

/-- A HALTED path (R246, R412, R464). `parked` is the parked state it returns to, when it had one. -/
structure Halted where
  cause : Cause
  next : VAddr
  atNext : Bool
  parked : Option Parked
  /-- The token of a forwarded halt (R408); 0: none. -/
  token : Nat
  detail : BitVec 96
  /-- The halt came at the acceptance of this GATHER or SCATTER, whose batches are not all translated (R174, R345). -/
  batches : Option Nat := none
deriving DecidableEq, Repr

/-- The condition of a path (R13). An ARRIVED path waits at RECONV `rid` for the SPLIT `serial`; `next` is the
address after that RECONV. -/
inductive Cond where
  | ready
  | blocked (w : Wait)
  | arrived (rid serial : Nat) (next : VAddr)
  | parked (p : Parked)
  | halted (h : Halted)
deriving DecidableEq, Repr

/-- The operands a fault record captured for the replay (R21, R130). -/
structure Captured where
  sregs : List Word64
  aregs : List (BitVec 128)
  rng : Word64
  /-- The jambs of the scalar registers, which R55 reads with them. -/
  sjambs : List Jamb := []
deriving DecidableEq, Repr

/-- The open lookahead window of a long-latency operation: instructions still inside the promise (R205). -/
structure Window where
  op : Nat
  left : Nat
  la : Nat
  pc : VAddr
  /-- Codes of its destinations. -/
  dests : List Nat
deriving DecidableEq, Repr

/-- The key of remote bytes that an instruction waits for, and that of one of its steps at another module. -/
def loadKey (va n : Nat) : Nat := va + n * 2 ^ 72
def stepKey (k : Nat) : Nat := 2 ^ 100 + k

/-- A live entry of the path table (R13). A counter is the list of the operations it counts (R14). -/
structure Path where
  pc : VAddr
  /-- The path has run past the last word of the address space: the PC stands at 2^72, which its 72 bits show as 0 (R212). -/
  pastEnd : Bool
  mask : LaneMask
  counters : List (List Nat)
  /-- Operations issued by the path or inherited (R106) that have not completed. -/
  issued : List Nat
  /-- MODEL's own: serials of the scratchpad stores and engine operations of its history that R109 may concern. -/
  history : List Nat
  /-- Replies that the instruction at `pc` has waited for: remote bytes by `loadKey`, steps made by `stepKey`. -/
  fetched : List (Nat × List Byte)
  /-- Oldest first; at most 8. -/
  refinements : List Refine
  /-- Top first; at most 16. -/
  stack : List StackEntry
  cond : Cond
  windows : List Window
  captured : Option Captured
  /-- When a replay must act in marked lanes only (R21). -/
  replayMask : Option LaneMask
  /-- Serial of the last issue, the tick since which the path has waited ready, and R34's promotion. -/
  lastIssue : Nat
  /-- Serial of the issue of the instruction at `pc` that waits (R162), and that instruction, which is not fetched again
  (R363). -/
  waitSince : Nat := 0
  held : Option Instr := none
  readySince : Nat
  promoted : Bool
  yielded : Bool
  /-- A halt asked for by the debugger (R464), and an armed step: 0 none, 1 step, 2 step to completion (R345), 3 to halt
  before the next issue, 4 to completion once the batches are translated. -/
  haltRequest : Bool
  stepping : Nat
  /-- The entry of the translated image cache that the path runs in; none: direct decode (R355). -/
  code : Option Nat := none
deriving DecidableEq, Repr

/-- The access classes of R92. -/
inductive AccessClass where
  | L | C | M | S | F
deriving DecidableEq, Repr

/-- A register write that a long-latency operation still owes (R204). -/
inductive PendingWrite where
  | vreg (n : Nat) (mask : LaneMask) (vals : List Word32)
  | sreg (n : Nat) (v : Word64)
  /-- A scalar register of which a later write inside the window keeps some 32-bit half (R205). -/
  | halves (n : Nat) (low high : Bool) (v : Word64)
  | pred (n : Nat) (mask bits : LaneMask)
  | shape (n : Nat) (v : BitVec 512)
deriving DecidableEq, Repr

/-- What an outstanding operation is, so that its completion can be carried out (R203, R285, R315). -/
inductive OpKind where
  | result
  | store
  | copy (channel : Nat)
  | matrix
  | shutter
  | writeBack
  | remote
  /-- A PARK, until its weave resumes (R315). -/
  | park
  /-- An invalidation, with the requests and the engines' operations that its acknowledgement waits for (R342). -/
  | invalidate (requests works : List Nat)
deriving DecidableEq, Repr

/-- An operation issued and not completed (R203). A result that reads no memory has no class. -/
structure Operation where
  id : Nat
  /-- The path that issued it, or that its path merged into; 8 once that has ended (R155). -/
  owner : Nat
  cls : Option AccessClass
  kind : OpKind
  writes : List PendingWrite
deriving DecidableEq, Repr

/-- A sector of a stash window that is not INVALID (R78): CLEAN when the mask of written bytes is 0. -/
structure Sector where
  window : Nat
  index : Nat
  written : BitVec 32
deriving DecidableEq, Repr

/-- A lane's store to the scratchpad that no fence has yet ordered before the classes listed (R109). -/
structure SpadStore where
  offset : Nat
  old : List Byte
  new : List Byte
  serial : Nat
  lane : Nat
  unfenced : List AccessClass
deriving DecidableEq, Repr

/-- An engine write of a scratchpad sector that no fence has yet ordered before lane loads (R109): `old` is the sector
before it. `status`: a copy status word, which needs no fence after the ABWAIT that observes the copy (R176). `seen` is the
instruction that first read the sector new (0: none). -/
structure EngineWrite where
  sector : Nat
  old : List Byte
  cls : AccessClass
  serial : Nat
  status : Bool
  seen : Nat
deriving DecidableEq, Repr

/-- A stop (R402, R404) on its way to, or at, the hinge core. -/
structure Stop where
  slot : Nat
  path : Nat
  weave : WeaveId
  cause : Cause
  detail : BitVec 96
  token : Nat
  lgrp : Nat
  lanes : BitVec 32
  whole : Bool
  pf : Bool
  pc : VAddr
deriving DecidableEq, Repr

/-- An engine's fault that waits for its path's instruction boundary (R155, R442); path 8: the issuing path has ended. -/
structure MatrixFault where
  path : Nat
  cause : Cause
  detail : BitVec 96
deriving DecidableEq, Repr

/-- A weave (R9 to R13), resident in a slot, saved, or in an image. -/
structure Weave where
  id : WeaveId
  instm1 : Nat
  /-- Lane groups n (R9); 32 n lanes. -/
  groups : Nat
  vcount : Nat
  scount : Nat
  acount : Nat
  spadBytes : Nat
  stashCount : Nat
  prio : Nat
  role : Nat
  mode : Word64
  rng : Word64
  vregs : List (List Word32)
  tags : List Tag
  vjambs : List Jamb
  sregs : List Word64
  sjambs : List Jamb
  preds : List LaneMask
  aregs : List (BitVec 128)
  shapes : List (BitVec 512)
  /-- The path table: 8 entries (R13). -/
  paths : List (Option Path)
  ops : List Operation
  spad : Memory
  windows : List (BitVec 128)
  sectors : List Sector
  spadStores : List SpadStore
  engineWrites : List EngineWrite
  /-- MODEL's own: barrier words with the copies whose final credit they have (R108, R175). -/
  credited : List (Nat × Nat)
  /-- Descriptor addresses of the hoops held (R25). -/
  hoops : List Nat
  matrixAbort : Bool
  matrixFaults : List MatrixFault
  /-- END has been issued, or the last path has ended; the end waits for its operations (R19). -/
  ending : Bool
  /-- A soft eviction is in progress (R414). -/
  evicting : Bool
  sliceLeft : Nat
  slicePending : Bool
  /-- PARK in progress (R187): the serial of its park entry, and the predicate to write. -/
  parking : Option (Nat × Nat)
  /-- Token of a write-back of the weave's own that faulted at its eviction or end, and awaits a reply (R83). -/
  writeBackToken : Option Nat
  /-- The paths that ended last, with their numbers, as they stood: those that an END record is written for (R461). -/
  ended : List (Nat × Path) := []
deriving DecidableEq, Repr

/-- A line of a data cache (R69): which bytes are held, and which are dirty. -/
structure CacheLine where
  bytes : List Byte
  valid : BitVec 128
  dirty : BitVec 128
deriving DecidableEq, Repr

/-- A cached translation (R385): the leaf or sub-entry and the range of addresses it maps. -/
structure TlbEntry where
  ctx : Nat
  base : Nat
  size : Nat
  entry : Word64
  sub : Bool
deriving DecidableEq, Repr

/-- A table walk that waits for a node to move (R382): for whose access, to which page, and since when. An agent without a
core has a number above theirs. -/
structure WalkWait where
  core : Nat
  ctx : Nat
  page : Nat
  since : Nat
deriving DecidableEq, Repr

/-- A 192-byte fetch line held by a core (R194, R342, R387): its bytes, those of each 4 KiB page fetched together, and
whether its first and its last byte decode as Farno (R351, R434). -/
structure FetchLine where
  ctx : Nat
  line : Nat
  farno : Bool
  farnoEnd : Bool
  bytes : Table Byte
deriving DecidableEq, Repr

/-- Where an address lies once translated. -/
inductive Place where
  | phys (pa : Nat)
  | remote (module ctx : Nat)
deriving DecidableEq, Repr

/-- A faulting lane: its cause, the address it could not reach, and its detail register (R402). -/
structure LaneFault where
  lane : Nat
  cause : Cause
  va : Nat
  detail : BitVec 96
  /-- The address that the lane accessed, where `va` is that of the node that covers it (R396). -/
  acc : Option Nat := none
deriving DecidableEq, Repr

/-- A row of a GATHER or SCATTER (R174): its lane, its address, whether MASK took it out, and, once translated, the
places of its 4 KiB pages. -/
structure Row where
  lane : Nat
  va : Nat
  masked : Bool
  places : Table Place
deriving DecidableEq, Repr

/-- Where a copy reads or writes: a scratchpad offset, or a global address with the places of its 4 KiB pages. -/
inductive Side where
  | spad (offset : Nat)
  | global (va : Nat) (pages : Table Place)
deriving DecidableEq, Repr

/-- An accepted operation of the copy and gather engine (R171 to R176). `seg` is the next segment of a swizzled CPY; `moved`
counts the bytes of an unswizzled CPY, or the chunks of that segment or of the first row, already performed. -/
structure CopyOp where
  weave : WeaveId
  slot : Nat
  path : Nat
  op : Nat
  next : VAddr
  cls : AccessClass
  dst : Side
  src : Side
  len : Nat
  seg : Nat
  moved : Nat
  swz : Nat
  barrier : Option Nat
  status : Option Nat
  isRows : Bool
  toSpad : Bool
  rowSize : Nat
  /-- Rows not yet translated, rows translated and not yet moved, and the status words so far by group. -/
  untranslated : List Row
  rows : List Row
  statusWords : Table (BitVec 32)
  /-- Lanes that park when the last batch has been translated. -/
  faults : List LaneFault
  captured : Captured
  /-- Bytes of remote sources that have arrived, by address. -/
  arrived : List (Nat × List Byte)
  /-- Address of the first source byte whose sector failed its integrity check (R177). -/
  bad : Option Nat
  /-- The current unit's bytes are on their way to another module. -/
  sent : Bool
deriving DecidableEq, Repr

/-- One tile task (R146, R147). A record of MTASK is checked when the task starts (R327). -/
structure TileTask where
  tile : Nat
  aslot : Nat
  bslot : Nat
  n : Nat
  perm : Option Nat
  ftz : Bool
  af : Nat
  bf : Nat
  scaled : Bool
  first : Nat
  count : Nat
  record : Option (BitVec 256)
  /-- The tile's tag before the task's acceptance wrote it (R325): its start checks that one. None: not written then. -/
  before : Option Tag := none
  /-- An eviction has cut the task: it resumes before the operations withdrawn with it (R154). -/
  cut : Bool := false
deriving DecidableEq, Repr

/-- The work of a matrix operation in issue order (R148), with the places of the 4 KiB pages it touches, the remote
bytes that have arrived for it, and the next piece of a store. For a transfer of a stash window the places are those of
the window's pages. -/
inductive MatrixWork where
  | release (mask : BitVec 48)
  | load (slot : Nat) (perm : Bool) (shape : BitVec 512) (row0 k0 : Int) (pages : Table Place)
      (fetched : List (Nat × List Byte))
  | task (t : TileTask)
  | accLoad (tile : Nat) (shape : BitVec 512) (row0 col0 : Nat) (pages : Table Place)
      (fetched : List (Nat × List Byte))
  | accStore (tile : Nat) (shape : BitVec 512) (row0 col0 : Nat) (pages : Table Place) (next : Nat)
  | accZero (tile : Nat) (int : Bool)
deriving DecidableEq, Repr

/-- A matrix operation accepted and not completed. -/
structure MatrixOp where
  weave : WeaveId
  slot : Nat
  path : Nat
  op : Nat
  pc : VAddr
  work : MatrixWork
  /-- Its pages are translated: not once an eviction has withdrawn it (R145, R154). -/
  placed : Bool := true
deriving DecidableEq, Repr

/-- The owner and last owner of a matrix resource (R140). -/
structure Owner where
  holder : Option WeaveId
  last : Option WeaveId
deriving DecidableEq, Repr

/-- An operand slot and its scale store (R139): 128 rows of element codes, and of block scales (E8M0, or UE8M8
with OUTL above it). Missing elements are 0. -/
structure OperandSlot where
  owner : Owner
  tag : Tag
  poisoned : Bool
  rows : List (List Nat)
  scales : List (List Nat)
deriving DecidableEq, Repr

/-- A permutation slot (R139, R151), poisoned by an integrity error (R155). -/
structure PermSlot where
  owner : Owner
  entries : List Nat
  poisoned : Bool := false
deriving DecidableEq, Repr

/-- An accumulator tile (R139): 128 rows of 128 cells. Missing cells are 0. -/
structure Tile where
  owner : Owner
  tag : Tag
  rows : List (List Word32)
deriving DecidableEq, Repr

/-- The task the array is running: its operation and the next step (R149). -/
structure RunningTask where
  mop : MatrixOp
  task : TileTask
  step : Nat
  cells : List (List Word32)
deriving DecidableEq, Repr

/-- The states of the shutter array (R161). -/
inductive ShutterState where
  | free | ready | racing | risen
deriving DecidableEq, Repr

/-- The shutter array (R157 to R168). -/
structure Shutter where
  state : ShutterState
  /-- The state it held when it became FREE (R168). -/
  kept : ShutterState
  owner : Owner
  tw : Nat
  words : List (BitVec 16)
  west : List Nat
  north : List Nat
  times : List (List Nat)
  chain : Bool
  raceOp : Nat
deriving DecidableEq, Repr

/-- A hinge core's control and status registers (R405, R406, R464) and what it serves. -/
structure Hinge where
  hstatus : Word64
  tvec : Word64
  tret : Word64
  tstop : Word64
  tlanes : Word64
  tpc : Word64
  tpch : Word64
  ivec : Word64
  tdet : BitVec 96
  ttoken : Word64
  tsave : Word64
  icause : Word64
  cmap : BitVec 512
  evict : Word64
  /-- The weave of the last eviction request, whose outcome EVICT is to give (R413). -/
  evictFor : Option WeaveId := none
  slice : Word64
  step : Word64
  /-- MODEL's own: the pending interrupts that have been taken and not yet cleared (log 26). -/
  taken : Word64
  /-- The stop in service (R407). -/
  serving : Option Stop
  /-- HALT has stopped issue (R344). -/
  stopped : Bool
deriving DecidableEq, Repr

/-- A compute core with its engines and its hinge core. Slots 0 to 63 hold weaves; the pseudo-slot 64 holds the
hinge core's scalar registers and PC in a weave of its own shape (log 8). -/
structure Core where
  slots : Table Weave
  l1 : Table CacheLine
  tlb : List TlbEntry
  walkAhead : List TlbEntry
  fetch : List FetchLine
  channels : Table (List CopyOp)
  operands : Table OperandSlot
  perms : Table PermSlot
  tiles : Table Tile
  matrix : List MatrixOp
  running : Option RunningTask
  shutter : Shutter
  stops : List Stop
  /-- Stops waiting for room in the stop queue (R404). -/
  lateStops : List Stop
  hinge : Hinge
  /-- Lines held exclusively for .cl atomics (R104, R420). -/
  exclusive : List Nat
  frozen : Bool
  outOfService : Bool
  draining : Bool
  /-- The path each scheduler sampled last (R463), by scheduler. -/
  sampleNext : Table Nat
deriving DecidableEq, Repr

/-- A move of one page in progress (R391), made by the Transom of `die`. `through`: the page goes on to HBM. -/
structure PageMove where
  ctx : Nat
  va : Nat
  leafPa : Nat
  oldLeaf : Word64
  toTier : Nat
  toFrame : Nat
  die : Nat
  through : Bool
  group : Nat := 0
deriving DecidableEq, Repr

/-- A page that the Transom of `die` is to move, to a tier, or to HBM through the CXL tier (R190), or to a stack of
HBM (R393). The moves of one group, 0 for none, are made one after another, whichever dies make them (R188). -/
structure PlannedMove where
  ctx : Nat
  va : Nat
  toTier : Nat
  die : Nat
  through : Bool
  stack : Option Nat
  group : Nat := 0
deriving DecidableEq, Repr

/-- The flash integrity record of a slot (R392). `blank`: the slot was FREE when a walk reached it, so that its landing
frame is filled with zeros and nothing is checked (R394). -/
structure Integrity where
  crc : BitVec 64
  itag : BitVec 8
  blank : Bool
deriving DecidableEq, Repr

/-- One entry of the frame table (R394). -/
structure Frame where
  shared : Bool
  free : Bool
  owner : Nat
deriving DecidableEq, Repr

/-- A continuation parked by PARK (R187 to R191). `entries` are the map entries in promotion order. -/
structure ParkEntry where
  saved : Nat
  ctx : Nat
  wakePa : Nat
  entries : List Nat
  p : Nat
  t1 : Nat
  t2 : Nat
  since : Nat
  wreg : Nat
  pd : Nat
  armed : Bool
  woken : Option Word64
  /-- The wake's promotions have been asked for (R190). -/
  promoting : Bool
  /-- Timers reached: 0 none, 1 T1, 2 T2. -/
  aged : Nat
  /-- The map entries that a timer reached has still to look at, with that timer, in order (R188). -/
  due : List (Nat × Nat) := []
  /-- The token of a watch armed at another module. -/
  remote : Option Nat := none
  /-- Where its weave last stood, for the WAKE record (R461). -/
  core : Nat := 0
  slot : Nat := 0
deriving DecidableEq, Repr

/-- A watch that a PARK of another module has armed here (R187): the word, who is told, and the value once written. -/
structure Watch where
  pa : Nat
  module : Nat
  ctx : Nat
  token : Nat
  woken : Option Nat
deriving DecidableEq, Repr

/-- The engine state saved with an evicted weave (R154, R170). -/
structure SavedEngines where
  operands : Table OperandSlot
  perms : Table PermSlot
  tiles : Table Tile
  matrix : List MatrixOp
  cut : Option RunningTask
  shutter : Option Shutter
deriving DecidableEq, Repr

/-- Where a remote reply goes: nowhere; lane `lane` of the vector registers from `reg` on, or a scalar
register; the weave's scratchpad; the copy or the matrix engine; or the path, for the instruction that waits for them. -/
inductive RemoteDest where
  | none
  | lane (lane reg : Nat) (scalar : Bool) (size : Nat) (signed : Bool)
  | lanes (mask : LaneMask) (reg size : Nat) (signed : Bool)
  | spad (offset : Nat)
  | copy (channel : Nat)
  | matrix
  | path (key : Nat)
  /-- A stash sector's write-back (R83): at the hardware's choice (0), of an instruction (1), of an eviction or an end (2). -/
  | writeBack (window index occasion : Nat)
deriving DecidableEq, Repr

/-- A remote request sent and not answered (R441, R442): the operation it belongs to, the port it left by, the
module it goes to, and what a failure needs to park a lane on the instruction (R21). -/
structure RemoteRequest where
  id : Nat
  weave : WeaveId
  core : Nat
  slot : Nat
  path : Nat
  lane : Nat
  op : Nat
  port : Nat
  module : Nat
  sent : Nat
  ctx : Nat
  va : Nat
  what : RemoteOp
  dest : RemoteDest
  pc : VAddr
  next : VAddr
  captured : Captured
  /-- The access is made once for the path (R279): a failure stops the path whole. -/
  whole : Bool
  /-- Still within its core, until one of the 512 reply slots is free (R421). -/
  waiting : Bool
deriving DecidableEq, Repr

/-- A look of the dispatcher or of a Transom at bytes of another module (R66, R389, R415), for the weave, park or record
that `who` numbers: asked for, and the reply once it has come. -/
structure Glance where
  who : Nat
  ctx : Nat
  va : Nat
  n : Nat
  reply : Option FabricReply
deriving DecidableEq, Repr

/-- A reply held for a weave that is away (R303, R397, R417). -/
inductive HeldReply where
  | fault (token disposition : Nat)
  | remote (request : RemoteRequest) (reply : FabricReply)
deriving DecidableEq, Repr

/-- A weave away from any core: its save record (R417, R418) and where it stands. -/
structure Saved where
  weave : Weave
  engines : SavedEngines
  gen : Nat
  tick : Nat
  /-- Pool address and size of its save record, in 4 KiB units. -/
  pool : Nat
  size : Nat
  held : List HeldReply
  /-- The weave has been returned to its queue and waits to be placed (R415, R416). -/
  returned : Bool
deriving DecidableEq, Repr

/-- A reply caught for a frozen core (R421). -/
structure CaughtReply where
  request : RemoteRequest
  reply : FabricReply
deriving DecidableEq, Repr

/-- A sealed freeze image of this boot (R423). The order of its scan data is not architectural; the model holds the
core itself beside the bytes (log 11). -/
structure Image where
  content : Core
  source : Nat
  serial : Nat
  epoch : Nat
  trev : BitVec 32
  tick : Nat
  replies : List CaughtReply
  /-- Fault-ring replies held for the image's weaves (R397, R425). -/
  held : List (Nat × Nat × Nat)
  /-- Requests that had not left the core when its clocks stopped (R420, R421), and where the image was written. -/
  unsent : List RemoteRequest
  base : Nat
deriving DecidableEq, Repr

/-- A record between its first dispatch and its retirement (R29 to R32). -/
structure LiveRecord where
  ctx : Nat
  record : Nat
  queue : Nat
  irq : Bool
  /-- Retired, and waiting to make, or to be told to skip, its PARENT decrement (R32). -/
  retiring : Bool
  /-- Token of a PARENT_FAULT awaiting its reply (0: none). -/
  token : Nat
  /-- The core where its last instance ended, and whether its decrement has been sent to another module. -/
  core : Nat
  sent : Bool
  /-- It may retire, as soon as its record can be read: a node of the walk to it is being moved (R382). -/
  due : Bool := false
deriving DecidableEq, Repr

/-- A record the dispatcher has moved to its wait table (R429). -/
structure WaitingRecord where
  ctx : Nat
  record : Nat
  queue : Nat
  irq : Bool
deriving DecidableEq, Repr

/-- What the dispatcher has put back at the tail of a queue (R429): a saved weave, or a record that waited. -/
inductive QueueItem where
  | saved (id : Nat)
  | record (ctx record : Nat) (irq : Bool)
deriving DecidableEq, Repr

/-- An item put back at the tail of a queue: it comes before ring entry `position` and after those before it. -/
structure Returned where
  queue : Nat
  position : Nat
  item : QueueItem
deriving DecidableEq, Repr

/-- An instance that found no room on its chosen die, and since when (R33). -/
structure Spill where
  ctx : Nat
  record : Nat
  inst : Nat
  die : Nat
  since : Nat
deriving DecidableEq, Repr

/-- A Wasis port beyond its register block (R437, R438). `queued` are the messages that wait for a credit, with their
virtual channels, oldest first. -/
structure Port where
  expectSeq : Nat
  replayRequested : Bool
  queued : List (Nat × Message)
  /-- Sequence number of the next flit sent, and the replay buffer: the last 256 flits sent, each with its number and the
  message that it carries a part of. -/
  sendSeq : Nat := 0
  sentFlits : List (Nat × Message) := []
  /-- Payloads of the flits received of a message that is not whole yet. -/
  parts : List (List Byte) := []
  /-- Credits that the port owes its partner, by virtual channel (R438). -/
  owed : Table Nat := []
  /-- When the port last sent a time flit (R443). -/
  timeAt : Nat := 0
deriving DecidableEq, Repr

/-- A drain in progress (R455): of the mailbox's command, or of an automatic retirement (R471). -/
structure Drain where
  core : Nat
  mailbox : Bool
deriving DecidableEq, Repr

/-- A fault-ring record waiting to be written (R396). -/
structure FaultRecord where
  va : Nat
  lmask : BitVec 32
  lgrp : Nat
  path : Nat
  wslot : Nat
  core : Nat
  kind : Nat
  cause : Cause
  gen : Nat
  ctx : Nat
  token : Nat
  last : Bool
  whole : Bool
  tick : Nat
deriving DecidableEq, Repr

/-- An entry of the translated image cache (R364). -/
structure CachedTranslation where
  entry : Translation
  id : Nat
  /-- The page-table entries that its bytes were read through: first byte and size (R341, R356). -/
  spans : List (Nat × Nat) := []
deriving DecidableEq, Repr

/-- An ICINV (R342, R356): the context and range of bytes it covered, no context for every one, and when it came. -/
structure CodePurge where
  ctx : Option Nat
  base : Nat
  size : Nat
  tick : Nat
deriving DecidableEq, Repr

/-- A firmware image in the staging store (R449, R454). -/
structure Staged where
  component : Nat
  svn : Nat
  hash : BitVec 512
  verified : Bool
  /-- Its signature checks, whatever its SVN. -/
  signed : Bool
  bytes : List Byte
deriving DecidableEq, Repr

/-- A Latch channel at work (R420): the core's content as scanned, and replies caught so far. -/
structure LatchWork where
  content : Core
  source : Nat
  base : Nat
  /-- When the clock stopped, and when scan-out ended. -/
  started : Nat
  scanned : Nat
  replies : List CaughtReply
  held : List (Nat × Nat × Nat)
  slowReported : Bool
deriving DecidableEq, Repr

/-- The heat of a frame, with the page it was last counted for (R60). -/
structure Heat where
  count : Nat
  ctx : Nat
  va : Nat
deriving DecidableEq, Repr

/-- What a compute die holds beyond its cores. -/
structure Die where
  l2 : Table CacheLine
  l3 : List TlbEntry
  heat : Table Heat
  /-- When its last heat epoch ended, and the leaves its Transom or ECC has poisoned. -/
  epochAt : Nat
  poisoned : Nat
  latch : Option LatchWork
  gated : Bool
  powered : Bool
  /-- Telemetry (R466): corrected and uncorrected ECC events, and when the record was last written; and whether the last
  reading was above 100 °C (R469). -/
  eccCorrected : Nat := 0
  eccUncorrected : Nat := 0
  telemetryAt : Nat := 0
  hot : Bool := false
deriving DecidableEq, Repr

/-- The path that issues: a core, a weave slot (64: the hinge core) and a path index. -/
structure Actor where
  core : Nat
  slot : Nat
  path : Nat
deriving DecidableEq, Repr

/-- The next move: a path issues, or an event happens. -/
inductive Move where
  | issue (a : Actor)
  | event (i : Instr)
deriving DecidableEq, Repr

/-- The module. -/
structure State where
  tick : Nat
  /-- MODEL's own: which moves come next; empty leaves the choice to the default order (log 3). -/
  agenda : List Move
  /-- MODEL's own: the path whose instruction is being executed. -/
  cur : Actor
  /-- MODEL's own: moves made, by which the default order and the free values turn (log 3, log 5). -/
  turn : Nat
  serial : Nat
  mem : Memory
  /-- Tick of the last access at the home slice, by frame (R393). -/
  touched : Table Nat
  /-- Bytes written poisoned (R177) and not written since, by address; a flash slot's from 2^60 on. -/
  spoiled : List Nat
  flash : Memory
  integrity : Table Integrity
  frames : Table Frame
  blocks : Table (BitVec 512)
  routes : Memory
  msix : Memory
  aperture : BitVec 64
  hostData : List Byte
  vectors : List Nat
  present : BitVec 512
  errata : BitVec 256
  binding : Table (BitVec 128)
  svn : List Nat
  svnFloor : List Nat
  hashes : List (BitVec 512)
  staged : Table Staged
  bootEpoch : Nat
  imageSerial : Nat
  restored : List Nat
  cores : Table Core
  quadTlbs : Table (List TlbEntry)
  walks : List WalkWait
  dies : Table Die
  /-- HEAD and TAIL of the bound queues, held by the queue engine, by descriptor PA (R89). -/
  queues : Table (Nat × Nat)
  /-- Entries reserved by a push and not yet written, by descriptor PA and number (R307). -/
  unwritten : List (Nat × Nat)
  moves : List PageMove
  planned : List PlannedMove
  parks : List ParkEntry
  /-- Watches armed for other modules, and the wake values that came before their continuations were parked (R187). -/
  watches : List Watch
  notices : List (Nat × Nat)
  /-- MODEL's own: the residency-map entries the device has read, by context and address, with what it last read (R181, R391). -/
  maps : List (Nat × Nat × Nat)
  /-- MODEL's own: the pages the Transom has moved, by context and address, with the STATE each last had (R181). -/
  pageStates : List (Nat × Nat × Nat)
  saved : Table Saved
  images : List Image
  live : List LiveRecord
  waiting : List WaitingRecord
  /-- Oldest first. -/
  returned : List Returned
  spills : List Spill
  /-- Since when a level below the one served has had a placeable record (R430). -/
  levelSince : Table Nat
  rotation : Table Nat
  starving : List Nat
  dispatchStopped : Bool
  lateFaults : List FaultRecord
  tokens : Nat
  requests : List RemoteRequest
  /-- Requests that have reached the module and wait, with the port they came by (R442, R444). -/
  incoming : List (Nat × FabricRequest)
  /-- Looks of the dispatcher and the Transoms at other modules (R66). -/
  glances : List Glance
  ports : Table Port
  /-- Messages sent, with their ports, oldest first, and flits sent again, by port and sequence number (R437). -/
  sentMessages : List (Nat × Message)
  replayedFlits : List (Nat × Nat)
  /-- Fabric time less the time since cold reset, in ns (R443). -/
  ftimeBase : Nat
  /-- MODID has been locked since cold reset (R440). -/
  modidLocked : Bool
  /-- The gang's start time has come (R444), and the members from which the leader holds READY (R446). -/
  gangStarted : Bool
  gangReady : List Nat
  hostRate : Nat
  hostWidth : Nat
  hostCxl : Bool
  /-- The host has enabled MSI-X in configuration space (R435, R450). -/
  msixOn : Bool
  translations : List CachedTranslation
  /-- Invalidations of fetched bytes, which discard the translations being built then (R356). -/
  purges : List CodePurge
  latchMap : BitVec 512
  securityMap : BitVec 512
  /-- Cores retired for good (R471), and the ticks of each core's UNIT_PARITY errors. -/
  retired : List Nat
  parity : List (Nat × Nat)
  drains : List Drain
  /-- Images of drains, sealed or being sealed and not yet restored: their cores and their addresses (R455). -/
  drainImages : List (Nat × Nat)
  /-- The cores that an APPLY in progress has yet to change (R456). -/
  applying : Option (List Nat)
  /-- The fatal cause whose dump is being written (R470). -/
  fatal : Option Nat
  /-- When firmware was last re-hashed (R458). -/
  rehashAt : Nat
  /-- Uncorrected errors of the CXL tier (R466). -/
  cxlUncorrected : Nat
  /-- Since when the input voltage has been out of its range, and the input power above 4.8 kW; and the readings of the
  input power, in W, of the last second with their times (R469). -/
  voltageSince : Option Nat
  powerSince : Option Nat
  powerReadings : List (Nat × Nat)
  /-- Trace records whose page or node is moving: die, context and record (R462). -/
  lateTraces : List (Nat × Nat × Nat)
deriving DecidableEq, Repr

/-- Why the machine stops. The spec gives every instruction and event an effect, so only two things stop it. -/
inductive Fault where
  /-- Raised by an instruction when `State.cur` names no live path: no step of the machine does this. Safe. -/
  | noPath
  /-- Raised by a hinge core that reads, writes or fetches at an address that R379 gives to no memory; the
  spec does not say what happens there. Safe. -/
  | hingeAddress (address : Nat)
deriving DecidableEq, Repr

/-- Why an instruction is given no meaning. -/
inductive Refusal where
  /-- Raised by the dispatch for an instruction not modelled yet. Safe. -/
  | notModelled (mnemonic : String)
deriving DecidableEq, Repr

/-- An owner cell with no owner and no last owner. -/
def Owner.none : Owner := { holder := Option.none, last := Option.none }

/-- The shutter array at cold reset: FREE, words 0, injections 255 (R161, R168). -/
def Shutter.reset : Shutter :=
  { state := .free, kept := .ready, owner := Owner.none, tw := 0, words := [], west := [], north := [],
    times := [], chain := false, raceOp := 0 }

/-- Hinge-core registers at cold reset (R405). -/
def Hinge.reset : Hinge :=
  { hstatus := 0, tvec := 0, tret := 0, tstop := 0, tlanes := 0, tpc := 0, tpch := 0, ivec := 0, tdet := 0,
    ttoken := 0, tsave := 0, icause := 0, cmap := 0, evict := 0, slice := 0, step := 0, taken := 0, serving := none,
    stopped := false }

/-- A path at `pc` with every lane of `mask`, counters zero (R12). -/
def Path.start (pc : VAddr) (mask : LaneMask) : Path :=
  { pc, pastEnd := false, mask, counters := List.replicate 6 [], issued := [], history := [], fetched := [], refinements := [], stack := [], cond := .ready,
    windows := [], captured := none, replayMask := none, lastIssue := 0, readySince := 0, promoted := false,
    yielded := false, haltRequest := false, stepping := 0 }

end Sys2Proof.Machine

namespace Sys2Proof

/-- The mask of the first `n` lanes. -/
def LaneMask.first (n : Nat) : LaneMask := BitVec.ofNat 1024 (2 ^ n - 1)

end Sys2Proof

namespace Sys2Proof.Machine

/-- A weave of the given shape, every register zero (R12): one path at `pc` holding every lane. -/
def Weave.blank (id : WeaveId) (groups vcount scount acount : Nat) (pc : VAddr) : Weave :=
  { id, instm1 := 0, groups, vcount, scount, acount, spadBytes := 0, stashCount := 0, prio := 0, role := 0,
    mode := 1, rng := 0,
    vregs := List.replicate vcount (List.replicate (32 * groups) 0),
    tags := List.replicate vcount .untyped, vjambs := List.replicate vcount (.iv 0 0),
    sregs := List.replicate scount 0, sjambs := List.replicate scount (.iv 0 0),
    preds := List.replicate 15 0, aregs := List.replicate acount 0, shapes := List.replicate 4 0,
    paths := some (Path.start pc (LaneMask.first (32 * groups))) :: List.replicate 7 none,
    ops := [], spad := [], windows := List.replicate 16 0, sectors := [], spadStores := [], engineWrites := [],
    credited := [], hoops := [], matrixAbort := false, matrixFaults := [], ending := false, evicting := false, sliceLeft := 0,
    slicePending := false, parking := none, writeBackToken := none }

/-- The pseudo-slot of a core that holds its hinge core's scalar state (log 8). -/
def hingeSlot : Nat := 64

/-- The hinge core's scalar state at reset: s0 to s63 and PC zero (log 1). -/
def Weave.hinge : Weave :=
  Weave.blank { ctx := 0, record := 0, inst := 0, gen := 0 } 1 0 64 0 0

/-- A core at cold reset, empty. -/
def Core.reset : Core :=
  { slots := [(hingeSlot, Weave.hinge)], l1 := [], tlb := [], walkAhead := [], fetch := [], channels := [],
    operands := [], perms := [], tiles := [], matrix := [], running := none, shutter := Shutter.reset,
    stops := [], lateStops := [], hinge := Hinge.reset, exclusive := [], frozen := false, outOfService := false,
    draining := false, sampleNext := [] }

/-- A die at cold reset. -/
def Die.reset : Die :=
  { l2 := [], l3 := [], heat := [], epochAt := 0, poisoned := 0, latch := none, gated := false, powered := true }

/-- A Wasis port at cold reset. -/
def Port.reset : Port := { expectSeq := 0, replayRequested := false, queued := [] }

/-- A frame the driver has never released and no move has owned: FREE (R394). -/
def Frame.reset : Frame := { shared := false, free := true, owner := 0 }

/-- The module right after cold reset, before the boot chain runs (R5, R394, R448 to R450). Absent keys of the
sparse tables hold their reset values. -/
def State.reset : State :=
  { tick := 0, agenda := [], cur := { core := 0, slot := 0, path := 0 }, turn := 0,
    serial := 1, mem := [], touched := [], spoiled := [], flash := [], integrity := [], frames := [], blocks := [], routes := [], msix := [],
    aperture := 0, hostData := [], vectors := [], present := 0x7FFF, errata := 0, binding := [],
    svn := List.replicate 6 0, svnFloor := List.replicate 6 0, hashes := List.replicate 6 0, staged := [],
    bootEpoch := 0, imageSerial := 0, restored := [], cores := [], quadTlbs := [], walks := [], dies := [], queues := [], unwritten := [], moves := [],
    planned := [], parks := [], watches := [], notices := [], maps := [], pageStates := [], saved := [], images := [], live := [], waiting := [], returned := [], spills := [], levelSince := [], rotation := [],
    starving := [], dispatchStopped := false, lateFaults := [], tokens := 0,
    requests := [], incoming := [], glances := [], ports := [], sentMessages := [], replayedFlits := [], ftimeBase := 0, modidLocked := false,
    gangStarted := false, gangReady := [],
    hostRate := 0, hostWidth := 0, hostCxl := false, msixOn := false, translations := [], purges := [], latchMap := 0, securityMap := 0,
    retired := [], parity := [], drains := [], drainImages := [], applying := none, fatal := none, rehashAt := 0, cxlUncorrected := 0,
    voltageSince := none, powerSince := none, powerReadings := [], lateTraces := [] }

end Sys2Proof.Machine
end

