-- ==== Sys2Proof/Machine/Bits.lean ====
section
/-! DEFINITION. Bit fields, sign extension, byte order, sorted tables and memory bytes. -/

namespace Sys2Proof.Machine

/-- Bits [hi:lo] of a number (R3). -/
def bits (v hi lo : Nat) : Nat := (v >>> lo) % 2 ^ (hi + 1 - lo)

/-- Bit `i` of a number. -/
def bitAt (v i : Nat) : Bool := v.testBit i

/-- `v` with bits [hi:lo] replaced by the low bits of `x`. -/
def withBits (v hi lo x : Nat) : Nat :=
  v - (bits v hi lo) * 2 ^ lo + (x % 2 ^ (hi + 1 - lo)) * 2 ^ lo

/-- 0 or 1. -/
def bit01 (b : Bool) : Nat := if b then 1 else 0

/-- The low `w` bits of `v` read as a two's-complement number. -/
def signed (w v : Nat) : Int :=
  let u := v % 2 ^ w
  if 2 * u < 2 ^ w then (u : Int) else (u : Int) - (2 ^ w : Nat)

/-- An integer reduced modulo 2^w into the unsigned range (R7: uwrap). -/
def uwrap (w : Nat) (i : Int) : Nat := (i % (2 ^ w : Nat)).toNat

/-- An integer clamped into [lo, hi]. -/
def clampInt (i lo hi : Int) : Int := if i < lo then lo else if hi < i then hi else i

/-- The low `n` bytes of `v`, least significant first (R3). -/
def toBytes : (n v : Nat) → List Byte
  | 0, _ => []
  | n + 1, v => BitVec.ofNat 8 v :: toBytes n (v / 256)

/-- The number whose little-endian bytes these are (R3). -/
def ofBytes : List Byte → Nat
  | [] => 0
  | b :: bs => b.toNat + 256 * ofBytes bs

/-- The number of one bits among the low `n`. -/
def popCount : (n v : Nat) → Nat
  | 0, _ => 0
  | n + 1, v => v % 2 + popCount n (v / 2)

/-- The number of bits of `v` up to its highest one bit, at most `fuel`. -/
def bitLength : (fuel v : Nat) → Nat
  | 0, _ => 0
  | fuel + 1, v => if v = 0 then 0 else bitLength fuel (v / 2) + 1

/-- The value at a key of a table. -/
def Table.find? {α : Type} : Table α → Nat → Option α
  | [], _ => none
  | (k, v) :: t, n => if n = k then some v else Table.find? t n

/-- A sorted table with a key set. -/
def Table.set {α : Type} : Table α → Nat → α → Table α
  | [], n, x => [(n, x)]
  | (k, v) :: t, n, x =>
    if n = k then (n, x) :: t else if n < k then (n, x) :: (k, v) :: t else (k, v) :: Table.set t n x

/-- A table with a key removed. -/
def Table.erase {α : Type} (t : Table α) (n : Nat) : Table α := t.filter (fun x => x.1 != n)

/-- The byte at an address; an unlisted one reads 0 (log 2). -/
def Memory.read (m : Memory) (a : Nat) : Byte := (Table.find? m a).getD 0

/-- A memory with one byte written; writing what an unlisted address reads as removes the entry. -/
def Memory.write (m : Memory) (a : Nat) (b : Byte) : Memory :=
  if b = 0 then Table.erase m a else Table.set m a b

/-- The `n` bytes from an address on. -/
def Memory.readBytes (m : Memory) (a : Nat) : Nat → List Byte
  | 0 => []
  | n + 1 => m.read a :: Memory.readBytes m (a + 1) n

/-- The little-endian number in `n` bytes. -/
def Memory.readNat (m : Memory) (a n : Nat) : Nat := ofBytes (m.readBytes a n)

/-- A memory with consecutive bytes written. -/
def Memory.writeBytes (m : Memory) (a : Nat) : List Byte → Memory
  | [] => m
  | b :: bs => Memory.writeBytes (m.write a b) (a + 1) bs

/-- The canonical form of a memory: addresses strictly rising, no entry equal to the unlisted byte. -/
def Memory.wfFrom : Nat → Memory → Bool
  | _, [] => true
  | lo, (a, b) :: m => lo ≤ a && b != 0 && Memory.wfFrom (a + 1) m

/-- The canonical form. -/
def Memory.wf (m : Memory) : Bool := Memory.wfFrom 0 m

/-- Insertion into a rising list, dropping repeats. -/
def insertNat (x : Nat) : List Nat → List Nat
  | [] => [x]
  | y :: l => if x < y then x :: y :: l else if x = y then y :: l else y :: insertNat x l

/-- The distinct numbers of a list, rising. -/
def sortNat (l : List Nat) : List Nat := l.foldl (fun a x => insertNat x a) []

/-- The list with position `i` replaced; unchanged beyond its end. -/
def setAt {α : Type} : List α → Nat → α → List α
  | [], _, _ => []
  | _ :: l, 0, y => y :: l
  | x :: l, i + 1, y => x :: setAt l i y

/-- The list with position `i` mapped. -/
def modifyAt {α : Type} : List α → Nat → (α → α) → List α
  | [], _, _ => []
  | x :: l, 0, f => f x :: l
  | x :: l, i + 1, f => x :: modifyAt l i f

/-- The list with position `i` set, filled up with `d` where it is shorter. -/
def putAt {α : Type} (d : α) : List α → Nat → α → List α
  | [], 0, y => [y]
  | [], i + 1, y => d :: putAt d [] i y
  | _ :: l, 0, y => y :: l
  | x :: l, i + 1, y => x :: putAt d l i y

/-- [va, va + n) cut at multiples of `unit`. -/
def splitRange (unit : Nat) : (fuel va n : Nat) → List (Nat × Nat)
  | 0, _, _ => []
  | fuel + 1, va, n =>
    if n = 0 then [] else
    let k := min n (unit - va % unit)
    (va, k) :: splitRange unit fuel (va + k) (n - k)

/-- The pieces of [va, va + n) between multiples of `unit`. -/
def pieces (unit va n : Nat) : List (Nat × Nat) := splitRange unit (n / unit + 2) va n

end Sys2Proof.Machine

namespace Sys2Proof

/-- Lane `k` of a mask. -/
def LaneMask.has (m : LaneMask) (k : Nat) : Bool := m.getLsbD k

/-- The lanes of a mask below `n`, ascending. -/
def LaneMask.lanes (m : LaneMask) (n : Nat) : List Nat := (List.range n).filter m.has

/-- The mask of a list of lanes. -/
def LaneMask.ofLanes (l : List Nat) : LaneMask := BitVec.ofNat 1024 (l.foldl (fun m k => m ||| 2 ^ k) 0)

/-- Mask word `g` (R10). -/
def LaneMask.word (m : LaneMask) (g : Nat) : BitVec 32 := (m >>> (32 * g)).setWidth 32

/-- The summary word of R10: bit `g` is 1 exactly when mask word `g` is non-zero. -/
def LaneMask.summary (m : LaneMask) : BitVec 32 :=
  BitVec.ofNat 32 ((List.range 32).foldl (fun a g => if m.word g = 0 then a else a + 2 ^ g) 0)

/-- The mask with word `g` replaced. -/
def LaneMask.setWord (m : LaneMask) (g : Nat) (w : BitVec 32) : LaneMask :=
  (m &&& ~~~((0xFFFFFFFF : LaneMask) <<< (32 * g))) ||| (w.setWidth 1024 <<< (32 * g))

end Sys2Proof
end

