-- ==== Sys2Proof/Machine/Hash.lean ====
section
/-! DEFINITION. SHA-512 (R364, R449, R450), whose constants are computed as its standard defines them: the fractions of
the square and cube roots of the first primes. -/

namespace Sys2Proof.Machine

/-- The largest x below 2^n whose `k`-th power is at most `v`, bit by bit. -/
def rootBits (k v : Nat) : (n x : Nat) → Nat
  | 0, x => x
  | n + 1, x => rootBits k v n (if (x + 2 ^ n) ^ k ≤ v then x + 2 ^ n else x)

/-- The first 80 primes are those below 410. -/
def primes : List Nat :=
  (List.range 410).filter (fun p => 2 ≤ p && (List.range p).all (fun d => d < 2 || p % d != 0))

/-- The first 64 fraction bits of the cube roots of the primes. -/
def shaConstants : List (BitVec 64) := primes.map (fun p => BitVec.ofNat 64 (rootBits 3 (p * 2 ^ 192) 68 0))

/-- The first 64 fraction bits of the square roots of the first eight primes. -/
def shaStart : List (BitVec 64) := (primes.take 8).map (fun p => BitVec.ofNat 64 (rootBits 2 (p * 2 ^ 128) 70 0))

/-- The big-endian number of a list of bytes. -/
def bigEndian (l : List Byte) : Nat := l.foldl (fun n b => n * 256 + b.toNat) 0

/-- The first `n` words of the message schedule after sixteen, newest first. -/
def shaSchedule : (n : Nat) → List (BitVec 64) → List (BitVec 64)
  | 0, w => w
  | n + 1, w =>
    let at_ := fun (i : Nat) => (w[i]?).getD 0
    let s0 := (at_ 14).rotateRight 1 ^^^ (at_ 14).rotateRight 8 ^^^ (at_ 14) >>> 7
    let s1 := (at_ 1).rotateRight 19 ^^^ (at_ 1).rotateRight 61 ^^^ (at_ 1) >>> 6
    shaSchedule n ((at_ 15 + s0 + at_ 6 + s1) :: w)

/-- One round on the eight working words. -/
def shaRound (h : List (BitVec 64)) (k w : BitVec 64) : List (BitVec 64) :=
  match h with
  | [a, b, c, d, e, f, g, x] =>
    let s1 := e.rotateRight 14 ^^^ e.rotateRight 18 ^^^ e.rotateRight 41
    let t1 := x + s1 + ((e &&& f) ^^^ (~~~e &&& g)) + k + w
    let s0 := a.rotateRight 28 ^^^ a.rotateRight 34 ^^^ a.rotateRight 39
    let t2 := s0 + ((a &&& b) ^^^ (a &&& c) ^^^ (b &&& c))
    [t1 + t2, a, b, c, d + t1, e, f, g]
  | l => l

/-- One 128-byte block. -/
def shaBlock (h : List (BitVec 64)) (block : List Byte) : List (BitVec 64) :=
  let first := (List.range 16).map (fun i => BitVec.ofNat 64 (bigEndian ((block.drop (8 * i)).take 8)))
  let w := (shaSchedule 64 first.reverse).reverse
  let z := (shaConstants.zip w).foldl (fun l (x : BitVec 64 × BitVec 64) => shaRound l x.1 x.2) h
  (h.zip z).map (fun x => x.1 + x.2)

/-- `n` blocks of a padded message. -/
def shaBlocks : (n : Nat) → List (BitVec 64) → List Byte → List (BitVec 64)
  | 0, h, _ => h
  | n + 1, h, m => shaBlocks n (shaBlock h (m.take 128)) (m.drop 128)

/-- The 64 bytes of SHA-512 of a message. -/
def sha512 (m : List Byte) : List Byte :=
  let zeros := (128 - (m.length + 17) % 128) % 128
  let padded := m ++ [0x80] ++ List.replicate zeros 0 ++ (toBytes 16 (8 * m.length)).reverse
  (shaBlocks (padded.length / 128) shaStart padded).flatMap (fun x => (toBytes 8 x.toNat).reverse)

end Sys2Proof.Machine
end

