-- ==== Sys2Proof/Machine/Signature.lean ====
section
/-! DEFINITION. Operand codes, the hint and MOD fields, and the signature of every form of the opcode map: which
operand classes, MOD codes and IMM bits it accepts (R195 to R210 and the reference chapters). -/

namespace Sys2Proof.Machine

/-- The classes of R195's table. Code 0x300 is the wide operand (R198). -/
inductive Operand where
  | vreg (n : Nat) | vz | sreg (n : Nat) | special (code : Nat) | pred (n : Nat) | pT | areg (n : Nat)
  | port (n : Nat) | dc (n : Nat) | shape (n : Nat) | wide | small (v : Int) | reserved
deriving DecidableEq, Repr

/-- The operand that a 10-bit code names (R195). -/
def Operand.ofCode (c : Nat) : Operand :=
  if c < 0x0FF then .vreg c else if c = 0x0FF then .vz
  else if c < 0x140 then .sreg (c - 0x100) else if c < 0x1C0 then .special c
  else if c < 0x200 then .reserved else if c < 0x20F then .pred (c - 0x200) else if c = 0x20F then .pT
  else if c < 0x220 then .areg (c - 0x210) else if c < 0x230 then .port (c - 0x220)
  else if c < 0x236 then .dc (c - 0x230) else if c < 0x23A then .shape (c - 0x236)
  else if c < 0x300 then .reserved else if c = 0x300 then .wide
  else .small (signed 8 (c % 256))

/-- Operand classes that a form's field may accept. `special` is a readable special register of R196, `rwSpecial`
one that MOV may write. -/
inductive Cls where
  | v | vz | s | i | special | rwSpecial | p | pT | a | q | d | sh
deriving DecidableEq, Repr

/-- Whether an operand is of a class. -/
def Operand.isCls : Operand → Cls → Bool
  | .vreg _, .v | .vz, .vz | .sreg _, .s | .wide, .i | .small _, .i | .pred _, .p | .pT, .pT | .areg _, .a
  | .port _, .q | .dc _, .d | .shape _, .sh => true
  | .special c, .special => c ≤ 0x14A
  | .special c, .rwSpecial => c = 0x145 || c = 0x146
  | _, _ => false

/-- How a form uses an operand field: not at all (it must hold 0x000), as a number in the low bits (R195), or as
an operand of one of the classes. -/
inductive Use where
  | unused
  | number (bits : Nat)
  | operand (cs : List Cls)

/-- How a form uses IMM: it is free for the wide operand (R198 rule 2), or it carries the fields in `mask`
(beside W, when the form has one). -/
inductive ImmUse where
  | free
  | fields (mask : Nat)

/-! ### Fields as numbers -/

end Sys2Proof.Machine

namespace Sys2Proof

def Fields.xN (f : Fields) : Nat := f.x.toNat
def Fields.yN (f : Fields) : Nat := f.y.toNat
def Fields.zN (f : Fields) : Nat := f.z.toNat
def Fields.immN (f : Fields) : Nat := f.imm.toNat
def Fields.modN (f : Fields) : Nat := f.mod.toNat
def Fields.hintN (f : Fields) : Nat := f.hint.toNat
/-- The fourth operand W, in IMM[23:14] (R193). -/
def Fields.wN (f : Fields) : Nat := Machine.bits f.immN 23 14
def Fields.xOp (f : Fields) : Machine.Operand := .ofCode f.xN
def Fields.yOp (f : Fields) : Machine.Operand := .ofCode f.yN
def Fields.zOp (f : Fields) : Machine.Operand := .ofCode f.zN
def Fields.wOp (f : Fields) : Machine.Operand := .ofCode f.wN
/-- HINT.LA, SET and WAIT (R202). -/
def Fields.la (f : Fields) : Nat := Machine.bits f.hintN 15 12
def Fields.setN (f : Fields) : Nat := Machine.bits f.hintN 11 9
def Fields.waitMask (f : Fields) : Nat := Machine.bits f.hintN 8 3
/-- The guard is pT, not negated: the instruction is unguarded (R193). -/
def Fields.unguarded (f : Fields) : Bool := f.g == 15 && !f.neg
/-- MOD of the INT layout: IT, COND and SAT (R207). -/
def Fields.it (f : Fields) : Nat := Machine.bits f.modN 1 0
def Fields.cond (f : Fields) : Nat := Machine.bits f.modN 5 2
def Fields.sat (f : Fields) : Bool := Machine.bitAt f.modN 6
/-- MOD of the FP layout: RND, FTZ, FT and COND (R207). -/
def Fields.rnd (f : Fields) : Nat := Machine.bits f.modN 10 8
def Fields.ftz (f : Fields) : Bool := Machine.bitAt f.modN 7
def Fields.ft (f : Fields) : Nat := Machine.bits f.modN 5 4
def Fields.fcond (f : Fields) : Nat := Machine.bits f.modN 3 0
/-- MOD of the MEM and ATOM layouts (R207). -/
def Fields.fmt (f : Fields) : Nat := Machine.bits f.modN 10 7
def Fields.width (f : Fields) : Nat := Machine.bits f.modN 6 4
def Fields.cache (f : Fields) : Nat := Machine.bits f.modN 3 2
def Fields.scope (f : Fields) : Nat := Machine.bits f.modN 3 0
/-- The bytes from an instruction to the next in its encoding (R194, R348). -/
def Fields.size (f : Fields) : Nat :=
  match f.enc with
  | .native => if f.lit.isSome then 24 else 12
  | .farno n _ _ => n

end Sys2Proof

namespace Sys2Proof.Machine

/-- The signature of a form. `mod` accepts a MOD value; `classBad` and `fieldBad` name the field (1 X, 2 Y, 3 Z,
4 W, 7 IMM) that breaks a rule of OPERAND_CLASS or FIELD_RESERVED beyond the uses; `feature` lists the feature
bits the word needs (R360). -/
structure Sig where
  x : Use := .unused
  y : Use := .unused
  z : Use := .unused
  w : Option Use := none
  imm : ImmUse := .fields 0
  mod : Fields → Bool := fun f => f.modN == 0
  classBad : Fields → Nat := fun _ => 0
  fieldBad : Fields → Nat := fun _ => 0
  /-- Registers that the word names beyond its operand codes, each with the field that names it (R281, R329, R333). -/
  more : Fields → List (Nat × Operand) := fun _ => []
  mustBeUnguarded : Bool := false
  privileged : Bool := false
  feature : Fields → List Nat := fun _ => [0]

/-- The classes of a source: vector register, vz, scalar register or immediate (R217, R249). -/
def srcCls : List Cls := [.v, .vz, .s, .i]
def dstCls : List Cls := [.v, .vz, .s]
def vecCls : List Cls := [.v, .vz]
def scalImm : List Cls := [.s, .i]
def predCls : List Cls := [.p, .pT]

/-- Operand `o` names a vector register other than vz. -/
def Operand.isV : Operand → Bool
  | .vreg _ => true
  | _ => false

/-- Operand `o` is a vector register or vz. -/
def Operand.isVec : Operand → Bool
  | .vreg _ | .vz => true
  | _ => false

def Operand.isS : Operand → Bool
  | .sreg _ => true
  | _ => false

def Operand.isImm : Operand → Bool
  | .wide | .small _ => true
  | _ => false

/-- R217: a scalar destination with a vector source breaks OPERAND_CLASS; vz does not. -/
def scalarDstBad (srcs : List (Nat × (Fields → Operand))) (f : Fields) : Nat :=
  if f.xOp.isS then
    match srcs.find? (fun p => (p.2 f).isV) with
    | some p => p.1
    | none => 0
  else 0

/-- The INT layout with IT paired to the destination's width (R217) and COND zero. -/
def modInt (sat : Bool) (its : List Nat) (f : Fields) : Bool :=
  bits f.modN 10 7 == 0 && (sat || !f.sat) && f.cond == 0 && its.contains f.it
    && (if f.xOp.isS then 2 ≤ f.it else f.it ≤ 1)

def sigInt (sat : Bool) (its : List Nat) (two : Bool) : Sig :=
  { x := .operand dstCls, y := .operand srcCls, z := if two then .operand srcCls else .unused, imm := .free,
    mod := modInt sat its,
    classBad := scalarDstBad (if two then [(2, Fields.yOp), (3, Fields.zOp)] else [(2, Fields.yOp)]) }

/-- The four-operand class 0 forms: W is a source, the rest of IMM zero. -/
def sigInt4 (sat : Bool) (its : List Nat) (w : List Cls) : Sig :=
  { x := .operand dstCls, y := .operand srcCls, z := .operand srcCls, w := some (.operand w),
    mod := modInt sat its,
    classBad := scalarDstBad [(2, Fields.yOp), (3, Fields.zOp), (4, Fields.wOp)] }

def allIt : List Nat := [0, 1, 2, 3]
def bIt : List Nat := [0, 2]

/-- The FP layout (R207, R252). -/
def modFp (fts : List Nat) (rndMax : Nat) (sat ftz : Bool) (condMax : Nat) (f : Fields) : Bool :=
  fts.contains f.ft && f.rnd ≤ rndMax && (sat || !f.sat) && (ftz || !f.ftz) && f.fcond ≤ condMax

/-- Features of a form that may round stochastically (R360 bit 12). -/
def featRound (base : Nat) (f : Fields) : List Nat := if f.rnd == 4 then [base, 12] else [base]

def sigFp (n : Nat) (fts : List Nat) (rndMax : Nat) (sat : Bool) : Sig :=
  { x := .operand vecCls, y := .operand srcCls, z := if 2 ≤ n then .operand srcCls else .unused,
    w := if n = 3 then some (.operand srcCls) else none, imm := if n = 3 then .fields 0 else .free,
    mod := modFp fts rndMax sat true 0, feature := featRound 0 }

def sigSpecial (rndMax condMax : Nat) : Sig :=
  { x := .operand vecCls, y := .operand srcCls, imm := .free, mod := modFp [0] rndMax false true condMax,
    feature := featRound 0 }

/-- FRCP, whose .RN has a feature of its own (R360). -/
def sigFrcp : Sig :=
  { sigSpecial 0 1 with feature := fun f => featRound 0 f ++ (if f.fcond == 1 then [13] else []) }

/-- Whether a tag code is one of the integer formats (R117). -/
def isIntCode (c : Nat) : Bool := c == 1 || c == 7 || c == 8

/-- Elements of a tag code in a lane word (R131, R258). -/
def elemsPerWord (c : Nat) : Nat :=
  if c ≤ 2 then 1 else if c ≤ 4 || c == 14 then 2 else if c == 8 || c == 11 || c == 12 then 8 else 4

/-- CVT's layout (R207, R258). -/
def cvtDst (f : Fields) : Nat := bits f.modN 7 4
def cvtSrc (f : Fields) : Nat := bits f.modN 3 0

def sigCvt (uns : Bool) : Sig :=
  { x := .operand vecCls, y := .operand srcCls, imm := .fields 7,
    mod := fun f => f.rnd ≤ 4 && 1 ≤ cvtDst f && cvtDst f ≤ 11 && 1 ≤ cvtSrc f && cvtSrc f ≤ 11
      && cvtDst f != cvtSrc f && (!uns || isIntCode (cvtDst f) || isIntCode (cvtSrc f)),
    fieldBad := fun f =>
      let ns := elemsPerWord (cvtSrc f)
      let nd := elemsPerWord (cvtDst f)
      if bits f.immN 2 0 < max ns nd / min ns nd then 0 else 7,
    feature := featRound 0 }

/-- The formats of QUANT and DEQUANT (R261). -/
def quantFmt (c : Nat) : Bool := c == 5 || c == 6 || c == 9 || c == 10 || c == 11 || c == 12

def featQuant (f : Fields) : List Nat :=
  let b := if f.fcond == 12 then 5 else if quantFmt f.fcond then 4 else 0
  if f.rnd == 4 then [b, 12] else [b]

/-! ### Memory operands (R209) -/

/-- The forms of a memory operand that a form accepts. -/
inductive MemForms where
  | indexedOrRaw | raw | spadOrIndexed | spadUniform | rawOrSpadUniform | indexed
deriving DecidableEq, Repr

/-- R209, R299, R318: the field whose class is wrong, 0 for none. -/
def memClassBad (m : MemForms) (f : Fields) : Nat :=
  let y := f.yOp
  let z := f.zOp
  let isA := y.isCls .a
  let idxBad := if z.isVec || z.isS || z.isImm then 0 else 3
  let rawBad := if z.isVec || z.isS then 0 else 3
  match m with
  | .indexedOrRaw => if isA then idxBad else if y.isS then rawBad else 2
  | .raw => if y.isS then rawBad else 2
  | .spadOrIndexed => if isA then idxBad else if y.isVec || y.isS then 0 else 2
  | .spadUniform => if y.isS || y == .vz || y.isImm then 0 else 2
  | .rawOrSpadUniform =>
    if f.zN == 0 then (if y.isS || y == .vz then 0 else 2)
    else if !y.isS then 2 else if z.isS || z == .vz then 0 else 3
  | .indexed => if isA then idxBad else 2

/-- The scratchpad form must hold Z = 0x000 (R209). -/
def memFieldBad (m : MemForms) (f : Fields) : Nat :=
  match m with
  | .spadOrIndexed => if f.yOp.isCls .a || f.zN == 0 then 0 else 3
  | .spadUniform => if f.zN == 0 then 0 else 3
  | _ => 0

/-- A field Z that holds no operand: the scratchpad form, whose Z is 0x000 (R209). -/
def memZUnused (m : MemForms) (f : Fields) : Bool := m == .spadOrIndexed && !f.yOp.isCls .a

/-- The memory operand holds a vector register other than vz (R279). -/
def memHasVector (m : MemForms) (f : Fields) : Bool := f.yOp.isV || (!memZUnused m f && f.zOp.isV)

/-- The forms of memory operand that an access of lanes accepts (R209). -/
def memFormsOf : Instr → MemForms
  | .lds _ | .sts _ | .atoms _ => .spadOrIndexed
  | _ => .indexedOrRaw

/-- Bytes of a MEM width code. -/
def widthBytes (c : Nat) : Nat := 2 ^ c

/-- Vector registers in an access group of a width code (R280). -/
def groupRegs (c : Nat) : Nat := if c = 3 then 2 else if c = 4 then 4 else 1

/-- R280: the legal pairings of FMT and WIDTH with the class of the data register. -/
def memPairOk (f : Fields) : Bool :=
  if f.width > 4 then false
  else if f.xOp.isVec then (if f.fmt ≤ 1 then true else 2 ≤ f.width)
  else f.fmt ≤ 1 && f.width ≤ 3

/-- The registers that follow the one which an operand names in a group of `n`, with their field. -/
def groupRest (field : Nat) (o : Operand) (n : Nat) : List (Nat × Operand) :=
  (List.range (n - 1)).filterMap (fun i =>
    match o with
    | .vreg r => some (field, .vreg (r + i + 1))
    | .sreg r => some (field, .sreg (r + i + 1))
    | _ => none)

/-- R281: the registers of the group that X names at a width code. -/
def vregGroup (field : Nat) (o : Operand) (w : Nat) : List (Nat × Operand) :=
  if o.isV then groupRest field o (groupRegs w) else []

def groupMisaligned (f : Fields) (w : Nat) : Nat :=
  match f.xOp with
  | .vreg n => if n % groupRegs w == 0 then 0 else 1
  | _ => 0

def orElse0 (a b : Nat) : Nat := if a == 0 then b else a

/-- The six loads and stores (R282). -/
def sigMem (m : MemForms) (load hasPd cacheOk : Bool) (f : Fields) : Sig :=
  { x := .operand (if load then dstCls else srcCls), y := .operand [.v, .vz, .s, .a],
    z := if memZUnused m f then .unused else .operand [.v, .vz, .s, .i],
    w := if hasPd then some (.operand predCls) else none, imm := .fields 0x3FFF,
    mod := fun f => memPairOk f && (cacheOk || f.cache == 0) && bits f.modN 1 0 == 0,
    classBad := fun f => orElse0 (memClassBad m f) (if f.xOp.isS && memHasVector m f then 1 else 0),
    fieldBad := fun f => orElse0 (groupMisaligned f f.width) (memFieldBad m f),
    more := fun f => vregGroup 1 f.xOp f.width }

/-- AOP of the ATOM layout (R207, R287). -/
def Fields_aop (f : Fields) : Nat := bits f.modN 10 7

/-- The atomics (R286, R287). -/
def sigAtom (m : MemForms) (red : Bool) (f : Fields) : Sig :=
  { x := .operand (if red then srcCls else dstCls), y := .operand [.v, .vz, .s, .a],
    z := if memZUnused m f then .unused else .operand [.v, .vz, .s, .i],
    w := if red then none else some (.operand srcCls), imm := .fields 0x3FFF,
    mod := fun f => Fields_aop f ≤ 12 && (f.width == 2 || (f.width == 3 && Fields_aop f ≤ 9)) && f.scope ≤ 8
      && !(red && Fields_aop f == 9),
    classBad := fun f => orElse0 (memClassBad m f)
      (if !red && f.xOp.isS && (memHasVector m f || f.wOp.isV) then 1 else 0),
    fieldBad := fun f => orElse0 (groupMisaligned f f.width)
      (orElse0 (match f.wOp with
        | .vreg n => if !red && f.width == 3 && n % 2 == 1 then 4 else 0
        | _ => 0) (memFieldBad m f)),
    more := fun f => vregGroup 1 f.xOp f.width ++ (if red then [] else vregGroup 4 f.wOp f.width) }

/-! ### Branches and engines -/

/-- A branch that cannot diverge holds Z = 0x000; any other holds rid in Z[5:0] (R236). -/
def ridBad (canDiverge : Fields → Bool) (f : Fields) : Nat :=
  if canDiverge f then (if f.zN < 64 then 0 else 3) else if f.zN == 0 then 0 else 3

def guarded (f : Fields) : Bool := !f.unguarded

/-- The format pairs of R146 for MMA (false) and MMAS (true). -/
def tilePairOk (scaled : Bool) (af bf : Nat) : Bool :=
  if scaled then (af ≤ 3 && bf ≤ 3) || (4 ≤ af && af ≤ 5 && 4 ≤ bf && bf ≤ 5)
  else (af ≤ 1 && bf ≤ 1) || (2 ≤ af && af ≤ 3 && 2 ≤ bf && bf ≤ 3) || (af == 4 && bf == 4)
    || (af == 5 && bf == 5)

/-- The AF and BF codes of MMA and MMAS (R324). -/
def mmaAf (f : Fields) : Nat := bits f.modN 6 4
def mmaBf (f : Fields) : Nat := bits f.modN 3 1

/-- Features of a tile task's formats (R360). -/
def tileFeature (scaled : Bool) (af bf : Nat) : List Nat :=
  if 6 ≤ af then [0]
  else if scaled then (if af == 5 || bf == 5 then (if af == 4 || bf == 4 then [4, 5] else [5]) else [4])
  else if af ≤ 1 then [1] else if af ≤ 4 then [2] else [3]

def sigMma (scaled : Bool) : Sig :=
  { x := .number 3, y := .number 5, z := .number 5, imm := .fields 0x3F,
    mod := fun f => bits f.modN 10 8 == 0 && !bitAt f.modN 0 && tilePairOk scaled (mmaAf f) (mmaBf f),
    fieldBad := fun f =>
      if bitAt f.immN 5 then (if scaled then 0 else 7) else if bits f.immN 4 2 == 0 then 0 else 7,
    feature := fun f => tileFeature scaled (mmaAf f) (mmaBf f) ++ (if scaled && bitAt f.immN 5 then [6] else []) }

/-- CPY, GATHER and SCATTER share a MOD layout (R319). -/
def copyDir (f : Fields) : Nat := bits f.modN 3 2
def copyHasBar (f : Fields) : Bool := bitAt f.modN 6
/-- The barrier operand in W (R319). -/
def barUse (f : Fields) : Use := if copyHasBar f then .operand scalImm else .unused

/-- Whether an operand may name a global address of a copy: a scalar or array register (R320). -/
def globalSide (o : Operand) : Bool := o.isS || o.isCls .a
def spadSide (o : Operand) : Bool := o.isS || o.isImm

def sigCpy (f : Fields) : Sig :=
  { x := .operand [.s, .i, .a], y := .operand [.s, .i, .a], z := .operand scalImm,
    w := some (barUse f), imm := .fields 0,
    mod := fun f => bits f.modN 10 7 == 0 && !(copyDir f == 2 && bits f.modN 5 4 != 0),
    classBad := fun f =>
      let dir := copyDir f
      let dstOk := if dir == 0 || dir == 3 then spadSide f.xOp else globalSide f.xOp
      let srcOk := if dir == 1 || dir == 3 then spadSide f.yOp else globalSide f.yOp
      if !dstOk then 1 else if !srcOk then 2 else 0 }

def sigRows (f : Fields) : Sig :=
  { x := .operand scalImm, y := .operand [.a], z := .operand srcCls, w := some (barUse f),
    imm := .fields 0x3FFF,
    mod := fun f => bits f.modN 10 8 == 0 && copyDir f == 0 && (!bitAt f.modN 7 || copyHasBar f) }

/-- KV pairs are even scalar registers in Y with their successor in range (R329). -/
def kvPairBad (f : Fields) : Nat :=
  match f.yOp with
  | .sreg n => if n % 2 == 0 then 0 else 2
  | _ => 0

def kvMore (f : Fields) : List (Nat × Operand) := groupRest 2 f.yOp 2

/-- The index of a uniform memory operand, whose Z may also hold 0x000 (R318). -/
def uniformIndex (f : Fields) : Use := if f.zN = 0 then .unused else .operand [.s, .vz]

def maxMod (m : Nat) (f : Fields) : Bool := f.modN ≤ m

def sigInv (kind : Nat) : Sig :=
  { x := if kind ≤ 1 then .operand scalImm else .unused, y := if kind = 0 then .operand [.s] else .unused,
    z := if kind = 0 then .operand scalImm else .unused, mod := fun f => f.modN == kind, privileged := true }

def sigEret (disp : Nat) : Sig := { mod := fun f => f.modN == disp, privileged := true }

/-- The value of an immediate operand, for the checks that R337 makes on it at encoding. -/
def immValue (o : Operand) (f : Fields) (free : Bool) : Int :=
  match o with
  | .small v => v
  | .wide =>
    match f.lit with
    | some l => signed 64 (l.toNat % 2 ^ 64)
    | none => if free then signed 24 f.immN else 0
  | _ => 0

/-- R228: an immediate shift above 31 with a 32-bit destination. -/
def leaShiftBad (f : Fields) : Nat :=
  if f.wOp.isImm && !f.xOp.isS && 31 < uwrap 6 (immValue f.wOp f false) then 4 else 0

/-- The signature of each instruction row; events have none. R239 lets an unguarded BCMP that cannot diverge name no
reconvergence point where its x is scalar: of one of vz against a scalar or an immediate the spec says nothing, and the model
lets it carry any rid (log 77). -/
def sigOf : Instr → Option (Sig × Fields)
  | .iadd f => some (sigInt true allIt true, f)
  | .isub f => some (sigInt true allIt true, f)
  | .imul f => some (sigInt true allIt true, f)
  | .imulh f => some (sigInt false allIt true, f)
  | .imad f => some (sigInt4 true allIt srcCls, f)
  | .imin f => some (sigInt false allIt true, f)
  | .imax f => some (sigInt false allIt true, f)
  | .iabs f => some (sigInt true bIt false, f)
  | .ineg f => some (sigInt true bIt false, f)
  | .icmp f => some ({ x := .operand predCls, y := .operand srcCls, z := .operand srcCls, imm := .free,
                                mod := fun f => bits f.modN 10 6 == 0 && f.cond ≤ 9 && (f.it == 0 || (f.it == 2 && !f.yOp.isV && !f.zOp.isV)) }, f)
  | .isel f => some ({ sigInt4 false bIt predCls with
                                classBad := scalarDstBad [(2, Fields.yOp), (3, Fields.zOp)] }, f)
  | .andB f => some (sigInt false bIt true, f)
  | .orB f => some (sigInt false bIt true, f)
  | .xorB f => some (sigInt false bIt true, f)
  | .andn f => some (sigInt false bIt true, f)
  | .notB f => some (sigInt false bIt false, f)
  | .shl f => some (sigInt false bIt true, f)
  | .shr f => some (sigInt false bIt true, f)
  | .sar f => some (sigInt false bIt true, f)
  | .rot f => some (sigInt false bIt true, f)
  | .bfe f => some (sigInt4 false allIt srcCls, f)
  | .bfi f => some (sigInt4 false bIt srcCls, f)
  | .popc f => some (sigInt false bIt false, f)
  | .clz f => some (sigInt false bIt false, f)
  | .brev f => some (sigInt false bIt false, f)
  | .lea f => some ({ sigInt4 false bIt scalImm with fieldBad := leaShiftBad }, f)
  | .plop f => some ({ x := .operand predCls, y := .operand predCls, z := .operand predCls,
                                w := some (.operand predCls), imm := .fields 0xFF }, f)
  | .widen f => some ({ x := .operand [.v, .s], y := .operand [.s, .i, .vz], z := .operand [.s, .i, .vz],
                                mustBeUnguarded := true }, f)
  | .bndget f => some ({ x := .operand [.s], y := .operand dstCls, mod := maxMod 2 }, f)
  | .bndtop f => some ({ x := .operand [.v, .s], mustBeUnguarded := true }, f)
  | .arset f => some ({ x := .operand [.a], y := .operand scalImm, z := .operand scalImm, imm := .free }, f)
  | .arget f => some ({ x := .operand [.s], y := .operand [.a], mod := maxMod 1 }, f)
  | .archk f => some ({ x := .operand predCls, y := .operand [.a], z := .operand srcCls, imm := .fields 0x3FFF }, f)
  | .nop f => some ({}, f)
  | .bra f => some ({ z := .number 6, imm := .fields 0xFFFFFF, fieldBad := ridBad guarded }, f)
  | .brx f => some ({ y := .operand [.s], z := .number 6, fieldBad := ridBad guarded }, f)
  | .bcmp f => some ({ x := .operand dstCls, y := .operand srcCls, z := .number 6, imm := .fields 0xFFFFFF,
                                mod := fun f => bits f.modN 10 6 == 0 && f.cond ≤ 9 && f.it == 0,
                                classBad := scalarDstBad [(2, Fields.yOp)],
                                fieldBad := ridBad (fun f => guarded f || !f.xOp.isS) }, f)
  | .call f => some ({ x := .operand vecCls, z := .number 6, imm := .fields 0xFFFFFF,
                                fieldBad := ridBad guarded }, f)
  | .ret f => some ({ y := .operand vecCls, z := .number 6, fieldBad := ridBad guarded }, f)
  | .reconv f => some ({ z := .number 6, mustBeUnguarded := true }, f)
  | .exit f => some ({}, f)
  | .endWeave f => some ({}, f)
  | .trapSw f => some ({ imm := .fields 0xFFFFFF }, f)
  | .bkpt f => some ({ imm := .fields 0xFF }, f)
  | .fadd f => some (sigFp 2 [0, 1, 2] 4 true, f)
  | .fsub f => some (sigFp 2 [0, 1, 2] 4 true, f)
  | .fmul f => some (sigFp 2 [0, 1, 2] 4 true, f)
  | .ffma f => some (sigFp 3 [0, 1, 2] 4 true, f)
  | .fmin f => some (sigFp 2 [0, 1, 2] 0 false, f)
  | .fmax f => some (sigFp 2 [0, 1, 2] 0 false, f)
  | .fabs f => some (sigFp 1 [0, 1, 2] 0 false, f)
  | .fneg f => some (sigFp 1 [0, 1, 2] 0 false, f)
  | .fcmp f => some ({ x := .operand predCls, y := .operand srcCls, z := .operand srcCls, imm := .free,
                                mod := modFp [0] 0 false true 7, feature := featRound 0 }, f)
  | .fdot2 f => some (sigFp 3 [1, 2] 4 true, f)
  | .frcp f => some (sigFrcp, f)
  | .frsq f => some (sigSpecial 0 0, f)
  | .fsqrt f => some (sigSpecial 3 0, f)
  | .fexp2 f => some (sigSpecial 0 0, f)
  | .flog2 f => some (sigSpecial 0 0, f)
  | .fsin f => some (sigSpecial 0 0, f)
  | .fcos f => some (sigSpecial 0 0, f)
  | .ftanh f => some (sigSpecial 0 0, f)
  | .cvt f => some (sigCvt false, f)
  | .cvtSat f => some (sigCvt false, f)
  | .cvtUns f => some (sigCvt true, f)
  | .cvtSatUns f => some (sigCvt true, f)
  | .quant f => some ({ x := .operand vecCls, y := .operand vecCls, z := .operand vecCls, imm := .fields 7,
                                mod := fun f => f.rnd ≤ 4 && bits f.modN 7 4 == 0 && quantFmt f.fcond
                                  && (f.fcond != 12 || bits f.immN 2 0 ≤ 4),
                                fieldBad := fun f => if f.fcond != 12 && bits f.immN 2 0 != 0 then 7 else 0,
                                feature := featQuant }, f)
  | .dequant f => some ({ x := .operand vecCls, y := .operand vecCls, z := .operand vecCls,
                                mod := fun f => f.rnd ≤ 4 && bits f.modN 5 4 == 0 && quantFmt f.fcond, feature := featQuant }, f)
  | .qperm f => some ({ x := .operand vecCls, y := .operand vecCls, z := .number 3, feature := fun _ => [6] }, f)
  | .pack f => some ({ x := .operand vecCls, y := .operand vecCls,
                                mod := fun f => 3 ≤ f.modN && f.modN ≤ 15,
                                feature := fun f => if f.modN == 12 then [5] else [0] }, f)
  | .unpack f => some ({ x := .operand vecCls, y := .operand vecCls,
                                mod := fun f => 3 ≤ f.modN && f.modN ≤ 15 }, f)
  | .fmtset f => some ({ x := .operand [.v], imm := .fields 0xF }, f)
  | .fmtget f => some ({ x := .operand dstCls, y := .operand vecCls }, f)
  | .mov f => some ({ x := .operand [.v, .vz, .s, .rwSpecial], y := .operand [.v, .vz, .s, .special, .i],
                                imm := .free,
                                classBad := fun f =>
                                  if f.xOp.isVec then 0
                                  else if f.xOp.isS then (if f.yOp.isVec then 2 else 0)
                                  else if f.yOp.isS || f.yOp.isImm then 0 else 2 }, f)
  | .movs f => some ({ x := .operand [.s], y := .operand [.s, .special, .i], imm := .free }, f)
  | .s2v f => some ({ x := .operand vecCls, y := .operand scalImm, z := .operand scalImm, imm := .free }, f)
  | .v2s f => some ({ x := .operand [.s], y := .operand vecCls, z := .operand scalImm, imm := .free }, f)
  | .shfl f => some ({ x := .operand vecCls, y := .operand vecCls, z := .operand srcCls,
                                w := some (.operand predCls),
                                mod := fun f => bits f.modN 10 6 == 0 && 1 ≤ bits f.modN 5 2 && bits f.modN 5 2 ≤ 10 }, f)
  | .vote f => some ({ x := .operand predCls, y := .operand predCls, mod := maxMod 2 }, f)
  | .ballot f => some ({ x := .operand dstCls, y := .operand predCls,
                                z := if f.xOp.isS then .operand scalImm else .unused }, f)
  | .wred f => some ({ x := .operand dstCls, y := .operand vecCls,
                                mod := fun f => !f.sat && f.ft ≤ 2 && f.fcond ≤ 5 && (f.fcond ≤ 2 || f.ft == 0)
                                  && (f.rnd == 0 || (f.rnd ≤ 4 && f.ft == 2 && f.fcond == 0)) && (!f.ftz || f.ft == 2),
                                feature := featRound 0 }, f)
  | .ld f => some (sigMem .indexedOrRaw true true true f, f)
  | .st f => some (sigMem .indexedOrRaw false false true f, f)
  | .ldr f => some (sigMem .raw true false true f, f)
  | .str f => some (sigMem .raw false false true f, f)
  | .lds f => some (sigMem .spadOrIndexed true true false f, f)
  | .sts f => some (sigMem .spadOrIndexed false false false f, f)
  | .atom f => some (sigAtom .indexedOrRaw false f, f)
  | .red f => some (sigAtom .indexedOrRaw true f, f)
  | .atoms f => some (sigAtom .spadOrIndexed false f, f)
  | .spill f => some ({ x := .operand [.v, .s], y := .operand [.s], z := .operand [.s, .vz],
                                imm := .fields 0x3FFF, mod := fun f => f.modN == 4 * f.cache }, f)
  | .fill f => some ({ x := .operand [.v, .s], y := .operand [.s], z := .operand [.s, .vz],
                                imm := .fields 0x3FFF, mod := fun f => f.modN == 4 * f.cache }, f)
  | .pref f => some ({ y := .operand [.s, .a], z := .operand srcCls, imm := .fields 0x3FFF,
                                mod := fun f => f.fmt == 0 && f.width ≤ 4 && f.cache != 1 && bits f.modN 1 0 == 0,
                                classBad := memClassBad .indexedOrRaw }, f)
  | .stash f => some ({ x := .number 4, y := .operand [.a, .s], z := .operand scalImm,
                                w := some (.operand scalImm), mod := maxMod 1, feature := fun _ => [10] }, f)
  | .unstash f => some ({ x := .number 4, feature := fun _ => [10] }, f)
  | .stwb f => some ({ x := .number 4, mod := maxMod 1, feature := fun _ => [10],
                                fieldBad := fun f => if f.modN == 1 && f.xN != 0 then 1 else 0 }, f)
  | .phase f => some ({ mod := maxMod 8 }, f)
  | .fence f => some ({}, f)
  | .fencex f => some ({ mod := fun f => f.modN < 32 && 2 ≤ popCount 5 f.modN }, f)
  | .bar f => some ({ mustBeUnguarded := true }, f)
  | .abinit f => some ({ x := .operand scalImm, y := .operand [.s, .vz, .i], z := .number 10,
                                imm := .fields 0x3FFF, classBad := memClassBad .spadUniform, fieldBad := memFieldBad .spadUniform }, f)
  | .abexp f => some ({ x := .operand scalImm, y := .operand [.s, .vz, .i], z := .number 10,
                                imm := .fields 0x3FFF, classBad := memClassBad .spadUniform, fieldBad := memFieldBad .spadUniform }, f)
  | .abarr f => some ({ x := .operand scalImm, y := .operand [.s, .vz, .i], z := .number 10,
                                imm := .fields 0x3FFF, classBad := memClassBad .spadUniform, fieldBad := memFieldBad .spadUniform }, f)
  | .abwait f => some ({ x := .number 10, y := .operand [.s, .vz, .i], z := .number 10,
                                w := some (.operand scalImm), imm := .fields 0x3FFF, mod := maxMod 1,
                                classBad := fun f => orElse0 (if f.modN == 1 && !(f.xOp.isCls .p || f.xOp.isCls .pT) then 1 else 0)
                                  (memClassBad .spadUniform f),
                                fieldBad := fun f => orElse0 (if f.modN == 0 && f.xN != 0 then 1 else 0) (memFieldBad .spadUniform f) }, f)
  | .joinHoop f => some ({ y := .operand [.s], feature := fun _ => [11] }, f)
  | .leaveHoop f => some ({ y := .operand [.s], feature := fun _ => [11] }, f)
  | .hbar f => some ({ y := .operand [.s], feature := fun _ => [11] }, f)
  | .waitc f => some ({ x := .operand [.d], y := .operand scalImm }, f)
  | .yieldTurn f => some ({}, f)
  | .sleep f => some ({ y := .operand scalImm, imm := .free }, f)
  | .qpush f => some ({ x := .operand [.q], y := .operand srcCls, w := some (.operand predCls), mod := maxMod 1,
                                feature := fun _ => [14] }, f)
  | .qpop f => some ({ x := .operand dstCls, y := .operand [.q], w := some (.operand predCls), mod := maxMod 1,
                                feature := fun _ => [14] }, f)
  | .tsrld f => some ({ x := .operand [.sh], y := .operand [.s, .vz], z := uniformIndex f, imm := .fields 0x3FFF,
                                classBad := memClassBad .rawOrSpadUniform }, f)
  | .cpy f => some (sigCpy f, f)
  | .gather f => some (sigRows f, f)
  | .scatter f => some (sigRows f, f)
  | .mclaim f => some ({ x := .operand predCls, y := .operand [.s], feature := fun _ => [1] }, f)
  | .mrel f => some ({ y := .operand [.s], feature := fun _ => [1] }, f)
  | .mload f => some ({ x := .number 5, y := .operand [.sh], z := .operand scalImm,
                                w := some (.operand scalImm), mod := maxMod 1,
                                fieldBad := fun f => if f.modN == 1 && 8 ≤ f.xN then 1 else 0,
                                feature := fun f => if f.modN == 1 then [1, 6] else [1] }, f)
  | .mma f => some (sigMma false, f)
  | .mmas f => some (sigMma true, f)
  | .accld f => some ({ x := .number 3, y := .operand [.sh], z := .operand scalImm,
                                w := some (.operand scalImm), feature := fun _ => [1] }, f)
  | .accst f => some ({ x := .number 3, y := .operand [.sh], z := .operand scalImm,
                                w := some (.operand scalImm), feature := fun _ => [1] }, f)
  | .accz f => some ({ x := .number 3, mod := maxMod 1, feature := fun _ => [1] }, f)
  | .mtask f => some ({ y := .operand [.s, .vz], z := uniformIndex f, imm := .fields 0x3FFF,
                                classBad := memClassBad .rawOrSpadUniform, feature := fun _ => [1] }, f)
  | .shwin f => some ({ x := .operand [.p], y := .operand scalImm, imm := .free,
                                fieldBad := fun f => if f.yN == 0x300 && f.lit.isNone && 256 ≤ f.immN then 7 else 0,
                                feature := fun _ => [7] }, f)
  | .shload f => some ({ y := .operand scalImm, imm := .free, feature := fun _ => [7] }, f)
  | .shinj f => some ({ y := .operand scalImm, imm := .free, feature := fun _ => [7] }, f)
  | .shinjV f => some ({ y := .operand vecCls, mod := fun f => f.modN == 1, feature := fun _ => [7] }, f)
  | .shlaunch f => some ({ mod := maxMod 1, feature := fun _ => [7] }, f)
  | .shcap f => some ({ x := .operand vecCls, y := .operand scalImm, z := .operand scalImm, imm := .free,
                                mod := maxMod 3, feature := fun _ => [7] }, f)
  | .shreset f => some ({ mod := maxMod 1, feature := fun _ => [7] }, f)
  | .kvapp f => some ({ x := .operand predCls, y := .operand [.s], z := .operand vecCls,
                                w := some (.operand vecCls), mod := maxMod 1, fieldBad := kvPairBad, more := kvMore,
                                feature := fun _ => [8] }, f)
  | .kvld f => some ({ x := .operand vecCls, y := .operand [.s], z := .operand srcCls,
                                w := some (.operand vecCls), imm := .fields 0x3C00, mod := maxMod 3, fieldBad := kvPairBad,
                                more := kvMore, feature := fun _ => [8] }, f)
  | .vqlut f => some ({ x := .operand [.a], y := .operand vecCls, z := .operand [.s], imm := .fields 0x7F,
                                feature := fun _ => [8] }, f)
  | .vqscore f => some ({ x := .operand vecCls, y := .operand [.s], z := .operand srcCls,
                                w := some (.operand vecCls), imm := .fields 0x3FC0, fieldBad := kvPairBad,
                                more := fun f => kvMore f ++ [(7, .areg (bits f.immN 9 6))],
                                feature := fun _ => [8] }, f)
  | .spawn f => some ({ x := .operand scalImm, y := .operand [.s], z := .operand [.s, .vz] }, f)
  | .park f => some ({ x := .operand predCls, y := .operand [.s], feature := fun _ => [9] }, f)
  | .wake f => some ({ y := .operand [.s], z := .operand scalImm, feature := fun _ => [9] }, f)
  | .role f => some ({ y := .operand scalImm,
                                fieldBad := fun f =>
                                  if f.yOp.isImm && !(0 ≤ immValue f.yOp f false && immValue f.yOp f false ≤ 3) then 2 else 0 }, f)
  | .csrr f => some ({ x := .operand [.s], imm := .fields 0xFFFF, privileged := true }, f)
  | .csrw f => some ({ y := .operand scalImm, imm := .fields 0xFFFF, mod := maxMod 2, privileged := true }, f)
  | .eretReplay f => some (sigEret 0, f)
  | .eretSkip f => some (sigEret 1, f)
  | .eretKill f => some (sigEret 2, f)
  | .eretEnd f => some (sigEret 3, f)
  | .tlbinvVa f => some (sigInv 0, f)
  | .tlbinvCtx f => some (sigInv 1, f)
  | .tlbinvAll f => some (sigInv 2, f)
  | .icinvVa f => some (sigInv 0, f)
  | .icinvCtx f => some (sigInv 1, f)
  | .icinvAll f => some (sigInv 2, f)
  | .dbgrd f => some ({ x := .operand [.s], y := .operand [.s], privileged := true }, f)
  | .dbgwr f => some ({ y := .operand [.s], z := .operand scalImm, mod := maxMod 1,
                                w := some (if f.modN == 1 then .operand [.s] else .unused),
                                fieldBad := fun f => match f.wOp with
                                    | .sreg n => if f.modN == 1 && n % 2 == 1 then 4 else 0
                                    | _ => 0,
                                more := fun f => if f.modN == 1 then groupRest 4 f.wOp 2 else [],
                                privileged := true }, f)
  | .halt f => some ({ privileged := true }, f)
  | _ => none

/-! ### The checks of R210 on the word alone -/

/-- What is wrong with a word (R210), with the field at fault (R402: 1 X, 2 Y, 3 Z, 4 W, 5 MOD, 6 HINT, 7 IMM or
literal) where there is one. -/
inductive Defect where
  | fellOff
  | opcUnassigned (opc : Nat)
  | featureAbsent (bit : Nat)
  | hintReserved (code : Nat)
  | operandClass (field code : Nat)
  | regRange (field code : Nat)
  | modReserved (code : Nat)
  | fieldReserved (field code : Nat)
  | guardBad
  | literalBad (code : Nat)
deriving DecidableEq, Repr

/-- The index in group 7 (R210). -/
def Defect.index : Defect → Nat
  | .fellOff => 0 | .opcUnassigned _ => 1 | .featureAbsent _ => 2 | .hintReserved _ => 3 | .operandClass _ _ => 4
  | .regRange _ _ => 5 | .modReserved _ => 6 | .fieldReserved _ _ => 7 | .guardBad => 8 | .literalBad _ => 9

/-- The detail register of group 7 (R402); a code wider than its ten bits keeps the low ten (log 12). -/
def Defect.detail (d : Defect) : BitVec 96 :=
  let fc := fun (f c : Nat) => BitVec.ofNat 96 (f * 2 ^ 9 + (c % 1024) * 2 ^ 12)
  match d with
  | .fellOff | .guardBad => 0
  | .opcUnassigned c => fc 0 c
  | .featureAbsent b => BitVec.ofNat 96 b
  | .hintReserved c => fc 6 c
  | .operandClass f c | .regRange f c | .fieldReserved f c => fc f c
  | .modReserved c => fc 5 c
  | .literalBad c => fc 7 c

/-- The code a field holds. -/
def fieldCode (f : Fields) (field : Nat) : Nat :=
  match field with
  | 1 => f.xN | 2 => f.yN | 3 => f.zN | 4 => f.wN | 5 => f.modN | 6 => f.hintN | _ => f.immN

/-- The operand-code fields of a form: number, use and code. -/
def Sig.uses (g : Sig) (f : Fields) : List (Nat × Use × Nat) :=
  [(1, g.x, f.xN), (2, g.y, f.yN), (3, g.z, f.zN)]
    ++ (match g.w with | some u => [(4, u, f.wN)] | none => [])

/-- OPERAND_CLASS (R200): the first field of a class the form does not accept. -/
def Sig.classDefect (g : Sig) (f : Fields) : Option Defect :=
  match (g.uses f).find? (fun (_, u, c) =>
      match u with
      | .operand cs => !cs.any (Operand.ofCode c).isCls
      | _ => false) with
  | some (n, _, c) => some (.operandClass n c)
  | none =>
    match g.classBad f with
    | 0 => none
    | n => some (.operandClass n (fieldCode f n))

/-- Whether some operand field of the word reads the wide operand. -/
def Sig.readsWide (g : Sig) (f : Fields) : Bool :=
  (g.uses f).any (fun (_, u, c) =>
    match u with
    | .operand _ => c == 0x300
    | _ => false)

/-- The bits of IMM that the word uses (R198, R200): a form whose IMM is free uses it when an operand reads the
wide operand and no literal follows (log 13). -/
def Sig.immMask (g : Sig) (f : Fields) : Nat :=
  (match g.w with | some _ => 0xFFC000 | none => 0) |||
    (match g.imm with
      | .free => if f.lit.isNone && g.readsWide f then 0xFFFFFF else 0
      | .fields m => m)

/-- FIELD_RESERVED (R195, R200): a field the form does not use, or a number field's upper bits, not zero. -/
def Sig.fieldDefect (g : Sig) (f : Fields) : Option Defect :=
  match (g.uses f).find? (fun (_, u, c) =>
      match u with
      | .unused => c != 0
      | .number b => 2 ^ b ≤ c
      | .operand _ => false) with
  | some (n, _, c) => some (.fieldReserved n c)
  | none =>
    if f.immN &&& (0xFFFFFF ^^^ g.immMask f) != 0 then some (.fieldReserved 7 f.immN)
    else match g.fieldBad f with
      | 0 => match f.enc with
        | .farno _ _ true => some (.fieldReserved 7 0)
        | _ => none
      | n => some (.fieldReserved n (fieldCode f n))

/-- HINT_RESERVED (R202, R349). -/
def hintDefect (f : Fields) : Option Defect :=
  if f.setN = 7 then some (.hintReserved 7)
  else match f.enc with
    | .farno _ true _ => some (.hintReserved f.waitMask)
    | _ => none

/-- GUARD_BAD (R201). -/
def Sig.guardDefect (g : Sig) (f : Fields) : Option Defect :=
  if g.mustBeUnguarded && !f.unguarded then some .guardBad else none

/-- LITERAL_BAD (R199). -/
def literalDefect (f : Fields) : Option Defect :=
  match f.lit with
  | some l => if l.toNat / 2 ^ 64 = 0 then none else some (.literalBad (l.toNat / 2 ^ 64))
  | none => none

/-- MOD_RESERVED (R207). -/
def Sig.modDefect (g : Sig) (f : Fields) : Option Defect :=
  if g.mod f then none else some (.modReserved f.modN)

/-- FEATURE_ABSENT (R362) under a present mask: the lowest needed feature that is absent. -/
def Sig.featureDefect (g : Sig) (f : Fields) (present : BitVec 512) : Option Defect :=
  ((g.feature f).find? (fun b => !present.getLsbD b)).map .featureAbsent

/-- The registers that a word names, each with its field. -/
def Sig.named (g : Sig) (f : Fields) : List (Nat × Operand) :=
  (g.uses f).filterMap (fun (n, u, c) =>
    match u with
    | .operand _ => some (n, Operand.ofCode c)
    | _ => none) ++ g.more f

/-- A register beyond the weave's counts. -/
def Operand.beyond (vregs sregs aregs : Nat) : Operand → Bool
  | .vreg k => vregs ≤ k
  | .sreg k => sregs ≤ k
  | .areg k => aregs ≤ k
  | _ => false

/-- REG_RANGE (R200) in a weave with these register counts: the first field that names an absent register. -/
def Sig.rangeDefect (g : Sig) (f : Fields) (vregs sregs aregs : Nat) : Option Defect :=
  ([1, 2, 3, 4, 7].find? (fun n =>
    (g.named f).any (fun x => x.1 == n && x.2.beyond vregs sregs aregs))).map (fun n => .regRange n (fieldCode f n))

/-- The first of the group 7 defects of a word, in the order of R210, in a machine with this present mask and a
weave with these register counts. -/
def firstDefect (i : Instr) (present : BitVec 512) (vregs sregs aregs : Nat) : Option Defect :=
  match sigOf i with
  | none => none
  | some (g, f) =>
    g.featureDefect f present <|> hintDefect f <|> g.classDefect f <|> g.rangeDefect f vregs sregs aregs
      <|> g.modDefect f <|> g.fieldDefect f <|> g.guardDefect f <|> literalDefect f

/-- The first defect that the word has in every machine: features present, the largest register counts. -/
def staticDefect (i : Instr) : Option Defect := firstDefect i (BitVec.allOnes 512) 255 64 16

end Sys2Proof.Machine
end

