-- ==== Sys2Proof/WellFormed.lean ====
section
/-! DEFINITION. WellFormed: which terms of `Instr` are instructions that the encoding can hold and that no check of
group 7 refuses in every machine (R193 to R210). The checks themselves stand in Machine/Signature.lean. -/

namespace Sys2Proof

/-- The fields of a row of the opcode map; `none` for an event. -/
def Instr.fields (i : Instr) : Option Fields := (Machine.sigOf i).map (·.2)

/-- HINT.LIT says whether a literal follows (R199). -/
def Fields.literalAgrees (f : Fields) : Bool := Machine.bitAt f.hintN 0 == f.lit.isSome

/-- The native encoding can hold these fields: LIT agrees. -/
def Fields.nativeOk (f : Fields) : Bool := f.enc == .native && f.literalAgrees

/-- A Farno encoding can hold these fields (R348, R349): LA and REUSE are zero, a word of 8 bytes has no IMM and at
most one wait, only one of 24 bytes has a literal, and a literal has 64 bits. -/
def Fields.farnoOk (f : Fields) : Bool :=
  match f.enc with
  | .native => false
  | .farno size badHint badExtension =>
    !badHint && !badExtension && f.literalAgrees && f.la == 0 && !Machine.bitAt f.hintN 1
      && ((size == 8 && f.immN == 0 && f.lit.isNone && Machine.popCount 6 f.waitMask ≤ 1)
        || (size == 16 && f.lit.isNone)
        || (size == 24 && (match f.lit with | some l => l.toNat < 2 ^ 64 | none => false)))

/-- A well-formed instruction. -/
def WellFormed (i : Instr) : Bool :=
  match i.fields with
  | none => false
  | some f => (f.nativeOk || f.farnoOk) && (Machine.staticDefect i).isNone

end Sys2Proof
end

