-- ==== Sys2Proof/Decode.lean ====
section
/-! DEFINITION. Decode: native words (R193, R194, R199) and Farno instructions (R348, R349) to `Instr`, and the
encoder back to bytes. The decoder finds the form and its fields; what a form refuses (R210, items 3 to 10) is
checked when it issues, as R200 says. -/

namespace Sys2Proof

/-- Why bytes are no instruction: the sill word (R211, R350), an unassigned opcode (R208), or too few bytes. -/
inductive Reject where
  | fellOff
  | opcUnassigned (opc : Nat)
  | truncated
deriving DecidableEq, Repr

/-- Class 0 of the opcode map, integer and address (R208): the form of a minor opcode. -/
def class0 (minor : Nat) : Option (Fields → Instr) :=
  match minor with
  | 0x00 => some .iadd
  | 0x01 => some .isub
  | 0x02 => some .imul
  | 0x03 => some .imulh
  | 0x04 => some .imad
  | 0x05 => some .imin
  | 0x06 => some .imax
  | 0x07 => some .iabs
  | 0x08 => some .ineg
  | 0x09 => some .icmp
  | 0x0A => some .isel
  | 0x10 => some .andB
  | 0x11 => some .orB
  | 0x12 => some .xorB
  | 0x13 => some .andn
  | 0x14 => some .notB
  | 0x15 => some .shl
  | 0x16 => some .shr
  | 0x17 => some .sar
  | 0x18 => some .rot
  | 0x19 => some .bfe
  | 0x1A => some .bfi
  | 0x1B => some .popc
  | 0x1C => some .clz
  | 0x1D => some .brev
  | 0x1E => some .lea
  | 0x1F => some .plop
  | 0x20 => some .widen
  | 0x21 => some .bndget
  | 0x22 => some .bndtop
  | 0x23 => some .arset
  | 0x24 => some .arget
  | 0x25 => some .archk
  | _ => none

/-- Class 1 of the opcode map, floating (R208): the form of a minor opcode. -/
def class1 (minor : Nat) : Option (Fields → Instr) :=
  match minor with
  | 0x00 => some .fadd
  | 0x01 => some .fsub
  | 0x02 => some .fmul
  | 0x03 => some .ffma
  | 0x04 => some .fmin
  | 0x05 => some .fmax
  | 0x06 => some .fabs
  | 0x07 => some .fneg
  | 0x08 => some .fcmp
  | 0x09 => some .fdot2
  | 0x10 => some .frcp
  | 0x11 => some .frsq
  | 0x12 => some .fsqrt
  | 0x13 => some .fexp2
  | 0x14 => some .flog2
  | 0x15 => some .fsin
  | 0x16 => some .fcos
  | 0x17 => some .ftanh
  | _ => none

/-- Class 2 of the opcode map, conversion and lane movement (R208): the form of a minor opcode. -/
def class2 (minor : Nat) : Option (Fields → Instr) :=
  match minor with
  | 0x00 => some .cvt
  | 0x01 => some .cvtSat
  | 0x02 => some .cvtUns
  | 0x03 => some .cvtSatUns
  | 0x04 => some .quant
  | 0x05 => some .dequant
  | 0x06 => some .qperm
  | 0x07 => some .pack
  | 0x08 => some .unpack
  | 0x09 => some .fmtset
  | 0x0A => some .fmtget
  | 0x10 => some .mov
  | 0x11 => some .movs
  | 0x12 => some .s2v
  | 0x13 => some .v2s
  | 0x14 => some .shfl
  | 0x15 => some .vote
  | 0x16 => some .ballot
  | 0x17 => some .wred
  | _ => none

/-- Class 3 of the opcode map, memory (R208): the form of a minor opcode. -/
def class3 (minor : Nat) : Option (Fields → Instr) :=
  match minor with
  | 0x00 => some .ld
  | 0x01 => some .st
  | 0x02 => some .ldr
  | 0x03 => some .str
  | 0x04 => some .lds
  | 0x05 => some .sts
  | 0x06 => some .atom
  | 0x07 => some .red
  | 0x08 => some .atoms
  | 0x09 => some .spill
  | 0x0A => some .fill
  | 0x0B => some .pref
  | 0x0C => some .stash
  | 0x0D => some .unstash
  | 0x0E => some .stwb
  | _ => none

/-- Class 4 of the opcode map, synchronisation and queues (R208): the form of a minor opcode. -/
def class4 (minor : Nat) : Option (Fields → Instr) :=
  match minor with
  | 0x00 => some .phase
  | 0x01 => some .fence
  | 0x02 => some .fencex
  | 0x03 => some .bar
  | 0x04 => some .abinit
  | 0x05 => some .abexp
  | 0x06 => some .abarr
  | 0x07 => some .abwait
  | 0x08 => some .joinHoop
  | 0x09 => some .leaveHoop
  | 0x0A => some .hbar
  | 0x0B => some .waitc
  | 0x0C => some .yieldTurn
  | 0x0D => some .sleep
  | 0x0E => some .qpush
  | 0x0F => some .qpop
  | _ => none

/-- Class 5 of the opcode map, control (R208): the form of a minor opcode. -/
def class5 (minor : Nat) : Option (Fields → Instr) :=
  match minor with
  | 0x00 => some .nop
  | 0x01 => some .bra
  | 0x02 => some .brx
  | 0x03 => some .bcmp
  | 0x04 => some .call
  | 0x05 => some .ret
  | 0x06 => some .reconv
  | 0x07 => some .exit
  | 0x08 => some .endWeave
  | 0x09 => some .trapSw
  | 0x0A => some .bkpt
  | _ => none

/-- Class 6 of the opcode map, engines (R208): the form of a minor opcode. -/
def class6 (minor : Nat) : Option (Fields → Instr) :=
  match minor with
  | 0x00 => some .tsrld
  | 0x01 => some .cpy
  | 0x02 => some .gather
  | 0x03 => some .scatter
  | 0x10 => some .mclaim
  | 0x11 => some .mrel
  | 0x12 => some .mload
  | 0x13 => some .mma
  | 0x14 => some .mmas
  | 0x15 => some .accld
  | 0x16 => some .accst
  | 0x17 => some .accz
  | 0x18 => some .mtask
  | 0x20 => some .shwin
  | 0x21 => some .shload
  | 0x22 => some (fun f => if f.mod = 1 then .shinjV f else .shinj f)
  | 0x23 => some .shlaunch
  | 0x24 => some .shcap
  | 0x25 => some .shreset
  | 0x30 => some .kvapp
  | 0x31 => some .kvld
  | 0x32 => some .vqlut
  | 0x33 => some .vqscore
  | 0x40 => some .spawn
  | 0x41 => some .park
  | 0x42 => some .wake
  | 0x43 => some .role
  | _ => none

/-- Class 7 of the opcode map, system (R208): the form of a minor opcode. -/
def class7 (minor : Nat) : Option (Fields → Instr) :=
  match minor with
  | 0x00 => some .csrr
  | 0x01 => some .csrw
  | 0x02 => some (fun f => if f.mod = 1 then .eretSkip f else if f.mod = 2 then .eretKill f
    else if f.mod = 3 then .eretEnd f else .eretReplay f)
  | 0x03 => some (fun f => if f.mod = 1 then .tlbinvCtx f else if f.mod = 2 then .tlbinvAll f else .tlbinvVa f)
  | 0x04 => some (fun f => if f.mod = 1 then .icinvCtx f else if f.mod = 2 then .icinvAll f else .icinvVa f)
  | 0x05 => some .dbgrd
  | 0x06 => some .dbgwr
  | 0x07 => some .halt
  | _ => none

/-- The form of an opcode (R208): OPC is major class × 0x80 + minor opcode. -/
def formOf (opc : Nat) : Option (Fields → Instr) :=
  match opc / 128 with
  | 0 => class0 (opc % 128)
  | 1 => class1 (opc % 128)
  | 2 => class2 (opc % 128)
  | 3 => class3 (opc % 128)
  | 4 => class4 (opc % 128)
  | 5 => class5 (opc % 128)
  | 6 => class6 (opc % 128)
  | 7 => class7 (opc % 128)
  | _ => none

/-- The opcode of a form (R208); `none` for an event. -/
def opcOf : Instr → Option Nat
  | .iadd _ => some 0x000
  | .isub _ => some 0x001
  | .imul _ => some 0x002
  | .imulh _ => some 0x003
  | .imad _ => some 0x004
  | .imin _ => some 0x005
  | .imax _ => some 0x006
  | .iabs _ => some 0x007
  | .ineg _ => some 0x008
  | .icmp _ => some 0x009
  | .isel _ => some 0x00A
  | .andB _ => some 0x010
  | .orB _ => some 0x011
  | .xorB _ => some 0x012
  | .andn _ => some 0x013
  | .notB _ => some 0x014
  | .shl _ => some 0x015
  | .shr _ => some 0x016
  | .sar _ => some 0x017
  | .rot _ => some 0x018
  | .bfe _ => some 0x019
  | .bfi _ => some 0x01A
  | .popc _ => some 0x01B
  | .clz _ => some 0x01C
  | .brev _ => some 0x01D
  | .lea _ => some 0x01E
  | .plop _ => some 0x01F
  | .widen _ => some 0x020
  | .bndget _ => some 0x021
  | .bndtop _ => some 0x022
  | .arset _ => some 0x023
  | .arget _ => some 0x024
  | .archk _ => some 0x025
  | .nop _ => some 0x280
  | .bra _ => some 0x281
  | .brx _ => some 0x282
  | .bcmp _ => some 0x283
  | .call _ => some 0x284
  | .ret _ => some 0x285
  | .reconv _ => some 0x286
  | .exit _ => some 0x287
  | .endWeave _ => some 0x288
  | .trapSw _ => some 0x289
  | .bkpt _ => some 0x28A
  | .fadd _ => some 0x080
  | .fsub _ => some 0x081
  | .fmul _ => some 0x082
  | .ffma _ => some 0x083
  | .fmin _ => some 0x084
  | .fmax _ => some 0x085
  | .fabs _ => some 0x086
  | .fneg _ => some 0x087
  | .fcmp _ => some 0x088
  | .fdot2 _ => some 0x089
  | .frcp _ => some 0x090
  | .frsq _ => some 0x091
  | .fsqrt _ => some 0x092
  | .fexp2 _ => some 0x093
  | .flog2 _ => some 0x094
  | .fsin _ => some 0x095
  | .fcos _ => some 0x096
  | .ftanh _ => some 0x097
  | .cvt _ => some 0x100
  | .cvtSat _ => some 0x101
  | .cvtUns _ => some 0x102
  | .cvtSatUns _ => some 0x103
  | .quant _ => some 0x104
  | .dequant _ => some 0x105
  | .qperm _ => some 0x106
  | .pack _ => some 0x107
  | .unpack _ => some 0x108
  | .fmtset _ => some 0x109
  | .fmtget _ => some 0x10A
  | .mov _ => some 0x110
  | .movs _ => some 0x111
  | .s2v _ => some 0x112
  | .v2s _ => some 0x113
  | .shfl _ => some 0x114
  | .vote _ => some 0x115
  | .ballot _ => some 0x116
  | .wred _ => some 0x117
  | .ld _ => some 0x180
  | .st _ => some 0x181
  | .ldr _ => some 0x182
  | .str _ => some 0x183
  | .lds _ => some 0x184
  | .sts _ => some 0x185
  | .atom _ => some 0x186
  | .red _ => some 0x187
  | .atoms _ => some 0x188
  | .spill _ => some 0x189
  | .fill _ => some 0x18A
  | .pref _ => some 0x18B
  | .stash _ => some 0x18C
  | .unstash _ => some 0x18D
  | .stwb _ => some 0x18E
  | .phase _ => some 0x200
  | .fence _ => some 0x201
  | .fencex _ => some 0x202
  | .bar _ => some 0x203
  | .abinit _ => some 0x204
  | .abexp _ => some 0x205
  | .abarr _ => some 0x206
  | .abwait _ => some 0x207
  | .joinHoop _ => some 0x208
  | .leaveHoop _ => some 0x209
  | .hbar _ => some 0x20A
  | .waitc _ => some 0x20B
  | .yieldTurn _ => some 0x20C
  | .sleep _ => some 0x20D
  | .qpush _ => some 0x20E
  | .qpop _ => some 0x20F
  | .tsrld _ => some 0x300
  | .cpy _ => some 0x301
  | .gather _ => some 0x302
  | .scatter _ => some 0x303
  | .mclaim _ => some 0x310
  | .mrel _ => some 0x311
  | .mload _ => some 0x312
  | .mma _ => some 0x313
  | .mmas _ => some 0x314
  | .accld _ => some 0x315
  | .accst _ => some 0x316
  | .accz _ => some 0x317
  | .mtask _ => some 0x318
  | .shwin _ => some 0x320
  | .shload _ => some 0x321
  | .shinj _ => some 0x322
  | .shinjV _ => some 0x322
  | .shlaunch _ => some 0x323
  | .shcap _ => some 0x324
  | .shreset _ => some 0x325
  | .kvapp _ => some 0x330
  | .kvld _ => some 0x331
  | .vqlut _ => some 0x332
  | .vqscore _ => some 0x333
  | .spawn _ => some 0x340
  | .park _ => some 0x341
  | .wake _ => some 0x342
  | .role _ => some 0x343
  | .csrr _ => some 0x380
  | .csrw _ => some 0x381
  | .eretReplay _ => some 0x382
  | .eretSkip _ => some 0x382
  | .eretKill _ => some 0x382
  | .eretEnd _ => some 0x382
  | .tlbinvVa _ => some 0x383
  | .tlbinvCtx _ => some 0x383
  | .tlbinvAll _ => some 0x383
  | .icinvVa _ => some 0x384
  | .icinvCtx _ => some 0x384
  | .icinvAll _ => some 0x384
  | .dbgrd _ => some 0x385
  | .dbgwr _ => some 0x386
  | .halt _ => some 0x387
  | .dispatchInstance => none
  | .dispatchSpillExpiry _ => none
  | .starveExpiry _ => none
  | .issueStarvationPromote _ _ _ => none
  | .operationComplete _ _ _ => none
  | .pathMerge _ _ _ => none
  | .weaveEnd _ _ => none
  | .parentDecrement _ _ => none
  | .sliceExpired _ _ => none
  | .matrixFaultDelivery _ _ => none
  | .tileTaskStart _ => none
  | .tileTaskComplete _ => none
  | .shutterRaceEnd _ => none
  | .copySectorPerformed _ _ => none
  | .gatherBatchTranslate _ _ => none
  | .stashWritebackAuto _ _ _ _ => none
  | .heatEpoch _ => none
  | .remoteReplyHeld _ _ => none
  | .sleepDeadline _ _ _ => none
  | .queuePortUnbind _ _ => none
  | .parkT1Expiry _ => none
  | .parkT2Expiry _ => none
  | .ageT1Expiry _ _ => none
  | .ageT2Expiry _ _ => none
  | .transomPageMove _ _ _ => none
  | .pageMoveComplete _ _ => none
  | .tableWalkBusyTimeout _ _ _ => none
  | .faultRecordDeferredWrite _ => none
  | .replyRingTailWrite _ _ => none
  | .replyRetry _ => none
  | .replySkip _ => none
  | .replyKill _ => none
  | .replyEnd _ => none
  | .replyRaise _ => none
  | .replyReserved _ => none
  | .stopEnqueueDeferred _ => none
  | .takeStop _ => none
  | .takeInterrupt _ => none
  | .hfwd _ => none
  | .evictRequest _ _ => none
  | .evictReturn _ => none
  | .evictionComplete _ _ => none
  | .weaveWakeReturn _ => none
  | .weaveReturn _ => none
  | .retall _ => none
  | .haltreq _ _ _ => none
  | .latchFreeze _ => none
  | .scanOutEnd _ => none
  | .latchReplyCatch _ _ _ => none
  | .catchSlow _ => none
  | .imageSeal _ => none
  | .latchRestore _ => none
  | .contQueueTailWrite _ _ => none
  | .hostBar2Access _ _ => none
  | .registerWrite _ _ _ => none
  | .hostLinkTrained _ _ _ => none
  | .wasisLinkUp _ _ _ => none
  | .wasisLinkDown _ => none
  | .flitReceive _ _ => none
  | .fabricRequestReceive _ _ => none
  | .fabricResponseReceive _ _ => none
  | .remoteTimeoutExpiry _ => none
  | .fabricTimeFlit _ _ => none
  | .gangArm => none
  | .gangDisarm => none
  | .gangStart => none
  | .gangMemberReady => none
  | .gangReadyReceive _ => none
  | .gangGoReceive => none
  | .gangAbortReceive => none
  | .gangGraceExpiry => none
  | .gangMemberTimeout => none
  | .attest => none
  | .stage => none
  | .applyUpdate => none
  | .floor => none
  | .drain => none
  | .drainComplete _ => none
  | .returnCore => none
  | .retire => none
  | .coldReset => none
  | .warmReset => none
  | .firmwareRehash => none
  | .hingeFault _ => none
  | .translationInstall _ => none
  | .pathSample _ _ => none
  | .telemetryUpdate _ => none
  | .gatingChange _ _ => none
  | .hardwareError _ _ _ _ => none
  | .fatalError _ _ _ => none
  | .coreAutoRetire _ => none
  | .cacheLineWriteBack _ _ => none
  | .cxlMemAccess _ _ => none

/-! ### Native words -/

/-- The fields of a native word (R193), with the literal word that followed, if any. -/
def nativeFields (w : Word96) (lit : Option Word96) : Fields :=
  { neg := w.getLsbD 85, g := w.extractLsb' 81 4, x := w.extractLsb' 71 10, y := w.extractLsb' 61 10,
    z := w.extractLsb' 51 10, imm := w.extractLsb' 27 24, mod := w.extractLsb' 16 11, hint := w.extractLsb' 0 16,
    lit, enc := .native }

/-- HINT.LIT of a native word: a literal word follows (R199). -/
def nativeHasLiteral (w : Word96) : Bool := w.getLsbD 0

/-- Decoding a native word and, when it has one, its literal. -/
def decodeNative (w : Word96) (lit : Word96) : Except Reject Instr :=
  if w = BitVec.allOnes 96 then .error .fellOff
  else match formOf (w.extractLsb' 86 10).toNat with
    | none => .error (.opcUnassigned (w.extractLsb' 86 10).toNat)
    | some mk => .ok (mk (nativeFields w (if nativeHasLiteral w then some lit else none)))

/-! ### Farno words -/

/-- E of a Farno base word, and LIT of an extension word (R348). -/
def farnoHasExtension (base : Word64) : Bool := base.getLsbD 7
def farnoHasLiteral (ext : Word64) : Bool := ext.getLsbD 23

/-- The lowered fields of a Farno instruction (R349). A direct branch keeps its offset in units of 8 bytes (R350). -/
def farnoFields (base ext lit : Word64) : Fields :=
  let e := farnoHasExtension base
  let l := e && farnoHasLiteral ext
  let wt := (base.extractLsb' 1 3).toNat
  let wmask : BitVec 6 := if e then ext.extractLsb' 24 6 else 0
  let wait : BitVec 6 := if wt = 0 then 0 else if wt = 7 then wmask else BitVec.ofNat 6 (2 ^ (wt - 1))
  { neg := base.getLsbD 53, g := base.extractLsb' 49 4, x := base.extractLsb' 39 10,
    y := base.extractLsb' 29 10, z := base.extractLsb' 19 10, mod := base.extractLsb' 8 11,
    imm := if e then ext.extractLsb' 30 24 else 0,
    hint := (0 : BitVec 4) ++ base.extractLsb' 4 3 ++ wait ++ BitVec.ofBool (base.getLsbD 0) ++ (0 : BitVec 1)
      ++ BitVec.ofBool l,
    lit := if l then some (lit.setWidth 96) else none,
    enc := .farno (if l then 24 else if e then 16 else 8)
      ((wt == 7 && !e) || (wt != 7 && wmask != 0))
      (e && (ext.extractLsb' 54 10 != BitVec.allOnes 10 || ext.extractLsb' 0 23 != 0)) }

/-- Decoding a Farno instruction: its base word, and the extension and literal it may have. -/
def decodeFarno (base ext lit : Word64) : Except Reject Instr :=
  if base = BitVec.allOnes 64 then .error .fellOff
  else match formOf (base.extractLsb' 54 10).toNat with
    | none => .error (.opcUnassigned (base.extractLsb' 54 10).toNat)
    | some mk => .ok (mk (farnoFields base ext lit))

/-! ### Bytes -/

/-- The first `n` bytes and the rest; `none` when there are fewer. -/
def splitBytes (n : Nat) (bs : List Byte) : Option (List Byte × List Byte) :=
  if bs.length < n then none else some (bs.take n, bs.drop n)

/-- A native word from its twelve bytes: three 32-bit parts, low part first, each little-endian (R194). -/
def word96 (bs : List Byte) : Word96 := BitVec.ofNat 96 (Machine.ofBytes bs)

/-- Decoding bytes, native or Farno, giving the instruction and the bytes after it. -/
def decodeBytes (farno : Bool) (bs : List Byte) : Except Reject (Instr × List Byte) :=
  let n := if farno then 8 else 12
  match splitBytes n bs with
  | none => .error .truncated
  | some (b, r) =>
    if farno then
      let base := BitVec.ofNat 64 (Machine.ofBytes b)
      let e := if farnoHasExtension base then splitBytes 8 r else some ([], r)
      match e with
      | none => .error .truncated
      | some (eb, r) =>
        let ext := BitVec.ofNat 64 (Machine.ofBytes eb)
        let l := if farnoHasExtension base && farnoHasLiteral ext then splitBytes 8 r else some ([], r)
        match l with
        | none => .error .truncated
        | some (lb, r) =>
          match decodeFarno base ext (BitVec.ofNat 64 (Machine.ofBytes lb)) with
          | .ok i => .ok (i, r)
          | .error e => .error e
    else
      let w := word96 b
      let l := if nativeHasLiteral w && w != BitVec.allOnes 96 then splitBytes 12 r else some ([], r)
      match l with
      | none => .error .truncated
      | some (lb, r) =>
        match decodeNative w (word96 lb) with
        | .ok i => .ok (i, r)
        | .error e => .error e

/-! ### The encoder -/

/-- The native word of a form with these fields (R193). -/
def nativeWord (opc : Nat) (f : Fields) : Word96 :=
  BitVec.ofNat 10 opc ++ BitVec.ofBool f.neg ++ f.g ++ f.x ++ f.y ++ f.z ++ f.imm ++ f.mod ++ f.hint

/-- The native words of an instruction: its word, and its literal where it has one (R193, R199). -/
def encodeNative (i : Instr) : List Word96 :=
  match opcOf i, i.fields with
  | some opc, some f => nativeWord opc f :: f.lit.toList
  | _, _ => []

/-- The 64-bit words of a Farno instruction (R348). A wait on one counter takes WT 1 to 6, another mask WT 7. -/
def encodeFarno (i : Instr) : List Word64 :=
  match opcOf i, i.fields with
  | some opc, some f =>
    let wm := f.hint.extractLsb' 3 6
    let wt : Nat := if wm = 0 then 0 else if Machine.popCount 6 wm.toNat = 1 then
      Machine.bitLength 6 wm.toNat else 7
    let base : Word64 := BitVec.ofNat 10 opc ++ BitVec.ofBool f.neg ++ f.g ++ f.x ++ f.y ++ f.z ++ f.mod
      ++ BitVec.ofBool (8 < f.size) ++ f.hint.extractLsb' 9 3 ++ BitVec.ofNat 3 wt ++ BitVec.ofBool (f.hint.getLsbD 2)
    let ext : Word64 := BitVec.allOnes 10 ++ f.imm ++ (if wt = 7 then wm else 0) ++ BitVec.ofBool f.lit.isSome
      ++ (0 : BitVec 23)
    base :: (if 8 < f.size then [ext] else []) ++ (f.lit.toList.map (·.setWidth 64))
  | _, _ => []

/-- The bytes of a well-formed instruction, as memory holds them (R194, R348). -/
def encode (i : Instr) : List Byte :=
  match i.fields with
  | none => []
  | some f =>
    match f.enc with
    | .native => (encodeNative i).flatMap (fun w => Machine.toBytes 12 w.toNat)
    | .farno _ _ _ => (encodeFarno i).flatMap (fun w => Machine.toBytes 8 w.toNat)

/-- What the decoder reads from a native instruction whose bits are `w`, bit 0 the least significant bit of its
first part; bits from `nbits` on are 0. -/
def decodeTableWord (nbits w : Nat) : Option Instr :=
  match decodeBytes false (Machine.toBytes 24 (w % 2 ^ nbits)) with
  | .ok (i, _) => some i
  | .error _ => none

end Sys2Proof
end

