-- ==== Sys2Proof/Machine/Jambs.lean ====
section
/-! DEFINITION. Jambs: intervals, the weave table J, refinements, and the updates of R43, R44 and R46. A register
is named by its operand code (R195): v0 to v254 are 0 to 0xFE, vz is 0xFF, s0 to s63 are 0x100 to 0x13F. -/

namespace Sys2Proof.Machine

/-- The width of a register's jamb (R39). -/
def codeWidth (code : Nat) : Nat := if code < 0x100 then 32 else 64

/-- The least and the greatest signed w-bit integer. -/
def minInt (w : Nat) : Int := -(2 ^ (w - 1) : Nat)
def maxInt (w : Nat) : Int := (2 ^ (w - 1) : Nat) - 1

def Jamb.lo (w : Nat) : Jamb → Int
  | .top => minInt w
  | .iv l _ => l

def Jamb.hi (w : Nat) : Jamb → Int
  | .top => maxInt w
  | .iv _ h => h

/-- R39: an interval that is full, or has an endpoint outside the signed range, is TOP. -/
def Jamb.mk (w : Nat) (lo hi : Int) : Jamb :=
  if lo < minInt w || maxInt w < hi || (lo == minInt w && hi == maxInt w) then .top else .iv lo hi

/-- The hull of two jambs of one width. -/
def Jamb.hull (w : Nat) (a b : Jamb) : Jamb := Jamb.mk w (min (a.lo w) (b.lo w)) (max (a.hi w) (b.hi w))

/-- Whether a jamb lies within [lo, hi]. -/
def Jamb.within (w : Nat) (a : Jamb) (lo hi : Int) : Bool := lo ≤ a.lo w && a.hi w ≤ hi

/-- The single value of a jamb, if it has one. -/
def Jamb.single (w : Nat) (a : Jamb) : Option Int := if a.lo w = a.hi w then some (a.lo w) else none

/-- Path `i` of a weave, when the entry is live (R13). -/
def Weave.path? (w : Weave) (i : Nat) : Option Path := (w.paths[i]?).join

/-- A weave with a path-table entry replaced. -/
def Weave.putPath (w : Weave) (i : Nat) (p : Option Path) : Weave := { w with paths := setAt w.paths i p }

def Weave.modifyPath (w : Weave) (i : Nat) (f : Path → Path) : Weave :=
  { w with paths := modifyAt w.paths i (Option.map f) }

/-- Indices of the live paths. -/
def Weave.livePaths (w : Weave) : List Nat :=
  (List.range w.paths.length).filter (fun i => (w.path? i).isSome)

/-- The lowest free entry of the path table. -/
def Weave.freePath (w : Weave) : Option Nat := (List.range w.paths.length).find? (fun i => (w.path? i).isNone)

/-- The entry of J (R42). -/
def Weave.tableJamb (w : Weave) (code : Nat) : Jamb :=
  if code = 0xFF then .iv 0 0
  else if code < 0xFF then (w.vjambs[code]?).getD .top
  else (w.sjambs[code - 0x100]?).getD .top

def Weave.setTableJamb (w : Weave) (code : Nat) (j : Jamb) : Weave :=
  if code = 0xFF then w
  else if code < 0xFF then { w with vjambs := setAt w.vjambs code j }
  else { w with sjambs := setAt w.sjambs (code - 0x100) j }

/-- jamb_of(p, x) (R42). -/
def Weave.jambOf (w : Weave) (p code : Nat) : Jamb :=
  match (w.path? p).bind (fun q => q.refinements.find? (fun r => r.reg == code)) with
  | some r => r.jamb
  | none => w.tableJamb code

def StackEntry.isDefer : StackEntry → Bool
  | .defer .. => true
  | .split .. => false

/-- Path `p` is sole (R42). -/
def Weave.sole (w : Weave) (p : Nat) : Bool :=
  w.livePaths == [p] && (match w.path? p with
    | some q => !q.stack.any StackEntry.isDefer
    | none => false)

/-- The youngest age in use; a new refinement gets the next one. -/
def Weave.youngest (w : Weave) : Nat :=
  w.paths.foldl (fun m p => match p with
    | none => m
    | some q =>
      let m := q.refinements.foldl (fun m r => max m r.age) m
      q.stack.foldl (fun m e => match e with
        | .defer _ _ _ _ _ _ _ age => max m age
        | .split _ _ => m) m) 0

/-- R43: a refinement of x in p dropped. -/
def Weave.dropRefinement (w : Weave) (p code : Nat) : Weave :=
  w.modifyPath p (fun q => { q with refinements := q.refinements.filter (fun r => r.reg != code) })

/-- R43: set_refinement. -/
def Weave.setRefinement (w : Weave) (p code : Nat) (j : Jamb) : Weave :=
  let age := w.youngest + 1
  if code = 0xFF then w
  else if j = w.tableJamb code then w.dropRefinement p code
  else w.modifyPath p (fun q =>
    let rs := q.refinements.filter (fun r => r.reg != code)
    let rs := if 8 ≤ rs.length then rs.drop 1 else rs
    { q with refinements := rs ++ [{ reg := code, jamb := j, age }] })

/-- The registers an outstanding operation still owes, by code (R45). -/
def PendingWrite.code : PendingWrite → Nat
  | .vreg n _ _ => n
  | .sreg n _ => 0x100 + n
  | .halves n _ _ _ => 0x100 + n
  | .pred n _ _ => 0x200 + n
  | .shape n _ => 0x236 + n

/-- pending_long(x) (R45). -/
def Weave.pending (w : Weave) (code : Nat) : Bool := w.ops.any (fun o => o.writes.any (fun x => x.code == code))

/-- R43: write_jamb. -/
def Weave.writeJamb (w : Weave) (p code : Nat) (j : Jamb) (guarded : Bool) : Weave :=
  if code = 0xFF then w else
  let wd := codeWidth code
  let prior := w.jambOf p code
  let j := if guarded then Jamb.hull wd prior j else j
  let j := if w.pending code then Jamb.hull wd prior j else j
  if 0x100 ≤ code then w.setTableJamb code j
  else if w.sole p then (w.setTableJamb code j).dropRefinement p code
  else (w.setTableJamb code (Jamb.hull wd (w.tableJamb code) j)).setRefinement p code j

/-- R44: narrowing without a hull, of a register still pending in its window too (log 75). -/
def Weave.narrowJamb (w : Weave) (p code : Nat) (j : Jamb) : Weave :=
  if code = 0xFF then w
  else if 0x100 ≤ code || w.sole p then (w.setTableJamb code j).dropRefinement p code
  else w.setRefinement p code j

/-- J[x] set and every path's refinement of x dropped (R65, R232). -/
def Weave.resetJamb (w : Weave) (code : Nat) (j : Jamb) : Weave :=
  (List.range w.paths.length).foldl (fun w p => w.dropRefinement p code) (w.setTableJamb code j)

/-- Insertion of a register by the age of its youngest refinement, oldest first (R46). -/
def insertByAge (x : Nat × Nat) : List (Nat × Nat) → List (Nat × Nat)
  | [] => [x]
  | y :: l => if x.2 ≤ y.2 then x :: y :: l else y :: insertByAge x l

/-- R46: the jambs of the merged path `m`, from the weave `before` in which the arrivals were still apart. -/
def Weave.mergeJambs (before : Weave) (arrivals : List Nat) (m : Nat) (w : Weave) : Weave :=
  let rs := arrivals.flatMap (fun a => match before.path? a with
    | some q => q.refinements
    | none => [])
  let regs := (rs.map (fun r => r.reg)).eraseDups
  let keyed := regs.map (fun x => (x, (rs.filter (fun r => r.reg == x)).foldl (fun m r => max m r.age) 0))
  let order := keyed.foldl (fun l x => insertByAge x l) []
  order.foldl (fun w x =>
    let js := arrivals.map (fun a => before.jambOf a x.1)
    let h := match js with
      | [] => Jamb.top
      | j :: js => js.foldl (Jamb.hull 32) j
    if w.sole m then (w.setTableJamb x.1 h).dropRefinement m x.1 else w.setRefinement m x.1 h) w

end Sys2Proof.Machine
end

