-- ==== Sys2Proof/Config.lean ====
section
/-! DEFINITION. What a module fixes, and the free values: constants without a body, so that a statement proved of
them holds whatever they are. -/

namespace Sys2Proof.Config

/-- Cores on a die, quads on a die, dies (R1). -/
def coresPerDie : Nat := 96
def quadsPerDie : Nat := 24
def dies : Nat := 4

/-- Whether an element read inside a lookahead window, or written both inside it and by the pending operation,
takes the newer value (R205): by the reader's serial, the register and the lane. -/
opaque windowNew : (serial reg lane : Nat) → Bool

/-- Whether an unfenced lane store is seen by an engine read (R109): by the read's serial, and the store's with its lane. -/
opaque storeSeen : (read store lane : Nat) → Bool

/-- Whether a lane read of an engine-written sector not yet fenced sees the new sector (R109): by the reader's serial, the
engine operation and the sector. -/
opaque sectorNew : (read write sector : Nat) → Bool

/-- Which line leaves a full data cache (R69): by the turn, of as many as it holds. -/
opaque victim : (turn lines : Nat) → Nat

/-- Whether an instruction issues in the same cycle as a halt request reaches its path, and so before the halt
(R412): by the instruction's serial. -/
opaque haltLate : Nat → Bool

/-- Cycles that pass at a step beyond the first (sr_tick, R196). -/
opaque extraCycles : Nat → Nat

/-- Units in the last place by which a special function's result departs from the correctly rounded one; the model
keeps it inside the bound of R256. Opcode minor number and input bits. -/
opaque ulpOffset : (form : Nat) → Word32 → Int

/-- Steps a running tile task has made when an eviction cuts it (R154). -/
opaque cutStep : Nat → Nat

/-- Fused: the module's serial number, the tile revision of each die (R419, R448), and the device secret. -/
opaque serialNumber : BitVec 64
opaque tileRevision : (die : Nat) → BitVec 32

/-- The firmware image of a component as the boot finds it (R449, R450): its bytes, by boot and component. -/
opaque bootImage : (boot component : Nat) → List Byte

/-- The modulus of the RSA-4096 key that an image's signature is to be checked under, its public exponent, and the fused
hash of that key (R449); and where the signature stands in an image's header, which R449 does not give. -/
opaque imageModulus : List Byte → Nat
opaque keyExponent : Nat
opaque fusedKeyHash : BitVec 512
opaque signatureOffset : Nat

/-- The present mask, errata mask and feature bindings that a feature-table image carries (R450, R456). -/
opaque tablePresent : List Byte → BitVec 512
opaque tableErrata : List Byte → BitVec 256
opaque tableBinding : List Byte → Nat → BitVec 128

/-- The fields of an image's header, whose places R449 does not give: component, SVN and length. -/
opaque imageComponent : List Byte → Nat
opaque imageSvn : List Byte → BitVec 32
opaque imageLength : List Byte → Nat

/-- The device key, which each boot derives anew from the fused secret: its modulus and its private exponent; the bytes of
its certificate; and the salt of a quote's signature (R451, R452). -/
opaque deviceModulus : Nat
opaque devicePrivate : Nat
opaque certificateByte : (offset : Nat) → Byte
opaque quoteSalt : (tick : Nat) → BitVec 512

/-- What a boot draws from the random bit generator (R451): the key of freeze images, and the counter of their serials. -/
opaque imageKey : (boot : Nat) → BitVec 512
opaque firstSerial : (boot : Nat) → Nat

/-- Bytes whose arrangement is not architectural: save records (R417), freeze images (R423). -/
opaque saveByte : (saved offset : Nat) → Byte
opaque imageByte : (serial offset : Nat) → Byte

/-- The syndrome of a black-box event, which is not architectural (R468): by the event's number on its die. -/
opaque syndrome : (die event : Nat) → BitVec 160

/-- Whether the resident firmware of a die hashes to its measurement (R458). -/
opaque firmwareIntact : (tick die : Nat) → Bool

/-- Whether a core's sequencer detects an internal inconsistency as it starts a task (R458): by turn and core. -/
opaque sequencerFails : (turn core : Nat) → Bool

/-- Whether a flash slot's bytes come back as they were written (R392). -/
opaque flashIntact : (serial slot : Nat) → Bool

/-- Whether a sector read at its home slice, or in a weave's window, fails its integrity check (R177): by the turn and the
sector's number. -/
opaque sectorFails : (turn sector : Nat) → Bool
opaque spadFails : (turn sector : Nat) → Bool

/-- Whether a remote lane of the core's scan-out fails (R471). -/
opaque scanFails : (serial core : Nat) → Bool

/-- Item 5 of class PATH in the debug window, whose layout the spec does not give (R410), by the reader's serial. -/
opaque lookaheadItem : Nat → BitVec 64

/-- Whether a fetch line is still held when a core fetches from it again (R342), by the fetch's serial and line. -/
opaque lineKept : (serial line : Nat) → Bool

/-- Whether a data line that hardware writes back, or finds clean, leaves its caches (R97 to R99), by turn and line. -/
opaque lineDropped : (turn line : Nat) → Bool

/-- The wake value that a parked weave receives when it is returned with no wake write (R187, R413), by its serial. -/
opaque wakeValue : (saved : Nat) → BitVec 64

/-- The fields of a flit's header, whose places R437 does not give: its sequence number, and the virtual channel and the
number of the credits it returns. -/
opaque flitSequence : List Byte → BitVec 12
opaque flitCreditChannel : List Byte → BitVec 2
opaque flitCredits : List Byte → Nat

/-- The message that the payloads of one or more flits carry once they are all there, and the sequence number from which a
flit asks for others again (R437). -/
opaque flitMessage : List (List Byte) → Option Message
opaque flitReplay : List Byte → Option (BitVec 12)

/-- What the sensors of a die and of the module read (R466), by the time. -/
opaque reading : (tick die : Nat) → Telemetry

end Sys2Proof.Config
end

