-- ==== Sys2Proof/Machine/Blocks.lean ====
section
/-! DEFINITION. The register blocks of BAR0 (R426) as fields, their reset values, and interrupts (R435). -/

namespace Sys2Proof.Machine

/-! ### Where the blocks lie (R426, R447) -/

def bootBlock : Nat := 0
def measureBlock (m : Nat) : Nat := 0x40 + 64 * m
def mailboxBlock : Nat := 0x1000
def debugBlock (c : Nat) : Nat := 0x2000 + 64 * c
def queueBlock (q : Nat) : Nat := 0x10000 + 64 * q
def translationBlock (c : Nat) : Nat := 0x20000 + 64 * c
def serviceBlock (c : Nat) : Nat := 0x21000 + 64 * c
def transomBlock (d : Nat) : Nat := 0x30000 + 64 * d
def latchBlock (d : Nat) : Nat := 0x31000 + 64 * d
def portBlock (k : Nat) : Nat := 0x50000 + 64 * k
def fabricBlock : Nat := 0x50400
def gangBlock : Nat := 0x51000

/-- The reset value of a block (R390, R395, R419, R428, R439, R440, R445, R448, R459). -/
def blockReset (off : Nat) : Nat :=
  if off = bootBlock then Config.serialNumber.toNat * 2 ^ 448
  else if off < 0x2000 then 0
  else if off < 0x10000 then 6 * 2 ^ 264 + 8 * 2 ^ 8
  else if off < 0x20000 then 4 * 2 ^ 403 + 2 ^ 384
  else if off < 0x21000 then 4 * 2 ^ 200 + 4 * 2 ^ 104
  else if off < 0x30000 then 0
  else if off < 0x31000 then (2 ^ 192 - 1) * 2 ^ 64 + 0x400 * 2 ^ 16 + 10 * 2 ^ 8 + 0xB
  else if off < 0x40000 then 1000 * 2 ^ 384 + (Config.tileRevision ((off - 0x31000) / 64)).toNat * 2 ^ 312
  else if off < fabricBlock then 1
  else if off = fabricBlock then
    2000 * 2 ^ 224 + 2000 * 2 ^ 192 + 2000 * 2 ^ 160 + 2000 * 2 ^ 128 + 200 * 2 ^ 32 + 10000 * 2 ^ 16
  else if off = gangBlock then 100 * 2 ^ 416
  else 0

/-- The value of a block. -/
def State.block (s : State) (off : Nat) : Nat :=
  match Table.find? s.blocks off with
  | some v => v.toNat
  | none => blockReset off

/-- Field [hi:lo] of a block. -/
def State.field (s : State) (off hi lo : Nat) : Nat := bits (s.block off) hi lo

/-- A block with a value. -/
def State.setBlock (s : State) (off v : Nat) : State :=
  { s with blocks := Table.set s.blocks off (BitVec.ofNat 512 v) }

/-- A block with field [hi:lo] replaced. -/
def State.setField (s : State) (off hi lo v : Nat) : State := s.setBlock off (withBits (s.block off) hi lo v)

/-- A counter field plus one, wrapping or saturating at its width. -/
def State.bumpField (s : State) (off hi lo : Nat) (saturate : Bool) : State :=
  let v := s.field off hi lo
  s.setField off hi lo (if saturate && v + 1 = 2 ^ (hi + 1 - lo) then v else v + 1)

/-! ### Contexts (R395, R433, R459) -/

def State.ctxEnabled (s : State) (c : Nat) : Bool := s.field (translationBlock c) 52 52 == 1
def State.ctxGen (s : State) (c : Nat) : Nat := s.field (translationBlock c) 51 36
/-- PA of the level-0 node. -/
def State.ctxRoot (s : State) (c : Nat) : Nat := s.field (translationBlock c) 35 0 * 2 ^ 16
def State.debugEnabled (s : State) (c : Nat) : Bool := s.field (debugBlock c) 0 0 == 1

/-- A ring size: log2 in `lo`..`hi`, other values act as `lo`. -/
def ringSize (v lo hi : Nat) : Nat := 2 ^ (if lo ≤ v && v ≤ hi then v else lo)

/-! ### Interrupts (R435) -/

/-- A byte of the MSI-X table and its pending bits. Vector control words read 1, masked, at reset (log 28): the table
holds how each byte differs from that. -/
def msixReset (a : Nat) : Byte := if a < 0x1000 && a % 16 = 12 then 1 else 0
def State.msixByte (s : State) (a : Nat) : Byte := s.msix.read a ^^^ msixReset a
def State.setMsixByte (s : State) (a : Nat) (b : Byte) : State := { s with msix := s.msix.write a (b ^^^ msixReset a) }

/-- Where a vector's pending bit lies. -/
def pendingByte (v : Nat) : Nat := 0x1000 + v / 8

/-- A message of vector `v`: sent, or kept pending while the vector is masked or MSI-X is not enabled. -/
def State.raiseVector (s : State) (v : Nat) : State :=
  if !s.msixOn || (s.msixByte (16 * v + 12)).getLsbD 0 then
    s.setMsixByte (pendingByte v) (s.msixByte (pendingByte v) ||| BitVec.ofNat 8 (2 ^ (v % 8)))
  else { s with vectors := s.vectors ++ [v] }

/-- A vector that is unmasked with its pending bit set is sent. -/
def State.unmaskVector (s : State) (v : Nat) : State :=
  if s.msixOn && (s.msixByte (pendingByte v)).getLsbD (v % 8) && !(s.msixByte (16 * v + 12)).getLsbD 0 then
    { s.setMsixByte (pendingByte v) (s.msixByte (pendingByte v) &&& ~~~(BitVec.ofNat 8 (2 ^ (v % 8)))) with
      vectors := s.vectors ++ [v] }
  else s

end Sys2Proof.Machine
end

