-- ==== Sys2Proof/Machine/Home.lean ====
section
/-! DEFINITION. Device physical memory at its point of coherence: the address map of R379, and the one write that
every store, copy and host access ends in (with the wake watches of R189). -/

namespace Sys2Proof.Machine

/-- 768 GiB of HBM, 192 GiB for each die (R379). -/
def hbmTop : Nat := 768 * 2 ^ 30
def hbmPerDie : Nat := 192 * 2 ^ 30
def cxlBase : Nat := 2 ^ 40
def cxlPerDevice : Nat := 384 * 2 ^ 30
def cxlTop : Nat := 2 ^ 40 + 3 * 2 ^ 40
def hostBase : Nat := 2 ^ 51
def physTop : Nat := 2 ^ 52
/-- The firmware region at the top of die 0 (R465). -/
def firmwareBase : Nat := hbmPerDie - 16 * 2 ^ 20

def isHbm (pa : Nat) : Bool := pa < hbmTop
def isCxl (pa : Nat) : Bool := cxlBase ≤ pa && pa < cxlTop
def isHost (pa : Nat) : Bool := hostBase ≤ pa && pa < physTop
def isFirmware (pa : Nat) : Bool := firmwareBase ≤ pa && pa < hbmPerDie
/-- The range holds something (R379). -/
def physExists (pa : Nat) : Bool := isHbm pa || isCxl pa || isHost pa

/-- The die whose L2 slices are home to an address: the HBM's die, or the die of the CXL device's port (R379). Host
memory is homed nowhere on the module; die 0 stands for it. -/
def homeDie (pa : Nat) : Nat :=
  if isHbm pa then pa / hbmPerDie else if isCxl pa then (pa - cxlBase) / cxlPerDevice / 2 else 0

/-- Bytes of a freeze image (R423). -/
def imageBytes : Nat := 4816896

/-- R189: an armed watch that a write reaches is disarmed and records the word after the write. -/
def wakeWatch (mem : Memory) (pa n : Nat) (e : ParkEntry) : ParkEntry :=
  if e.armed && pa < e.wakePa + 8 && e.wakePa < pa + n then
    { e with armed := false, woken := some (BitVec.ofNat 64 (mem.readNat e.wakePa 8)) }
  else e

/-- The same for a watch armed for another module. -/
def wakeRemote (mem : Memory) (pa n : Nat) (e : Watch) : Watch :=
  if e.woken.isNone && pa < e.pa + 8 && e.pa < pa + n then { e with woken := some (mem.readNat e.pa 8) } else e

/-- A write of bytes performed at the home slice. -/
def State.writeHome (s : State) (pa : Nat) (bytes : List Byte) : State :=
  let mem := s.mem.writeBytes pa bytes
  { s with
    mem
    spoiled := s.spoiled.filter (fun x => x < pa || pa + bytes.length ≤ x)
    touched := Table.set (Table.set s.touched (pa / 65536) s.tick) ((pa + bytes.length - 1) / 65536) s.tick
    parks := s.parks.map (wakeWatch mem pa bytes.length)
    watches := s.watches.map (wakeRemote mem pa bytes.length) }

/-- Some bytes of the 128-byte line at an address written at the home slice as one write, by their places in the line. A
wake word that they reach records its value after all of them (R189). -/
def State.writePicked (s : State) (base : Nat) (l : List (Nat × Byte)) : State :=
  if l.isEmpty then s
  else
    let mem := l.foldl (fun m x => m.writeBytes (base + x.1) [x.2]) s.mem
    let reached := fun (pa : Nat) => l.any (fun x => pa ≤ base + x.1 && base + x.1 < pa + 8)
    { s with
      mem
      spoiled := s.spoiled.filter (fun x => !l.any (fun y => base + y.1 == x))
      touched := Table.set s.touched (base / 65536) s.tick
      parks := s.parks.map (fun (e : ParkEntry) => if reached e.wakePa then wakeWatch mem e.wakePa 8 e else e)
      watches := s.watches.map (fun (e : Watch) => if reached e.pa then wakeRemote mem e.pa 8 e else e) }

/-- A little-endian number of `n` bytes written at home. -/
def State.writeHomeNat (s : State) (pa n v : Nat) : State := s.writeHome pa (toBytes n v)

/-- An access at the home slice of a frame. -/
def State.touch (s : State) (pa : Nat) : State := { s with touched := Table.set s.touched (pa / 65536) s.tick }

/-- A sector read at its home slice fails its integrity check (R177). -/
def State.failsCheck (s : State) (pa : Nat) : Bool :=
  s.spoiled.any (fun x => x / 32 == pa / 32) || Config.sectorFails s.turn (pa / 32)

def State.readHomeNat (s : State) (pa n : Nat) : Nat := s.mem.readNat pa n

/-- An event in a die's black box (R467, R468), before COUNT advances. -/
def State.blackBox (s : State) (die cause unit core cmd : Nat) (syndrome : BitVec 160) : State :=
  let index := firmwareBase + 0x1000 + 64 * die
  let n := s.readHomeNat index 4
  let event := syndrome.toNat + cmd % 128 * 2 ^ 160 + core % 512 * 2 ^ 167 + unit % 256 * 2 ^ 176
    + cause % 512 * 2 ^ 184 + s.tick % 2 ^ 63 * 2 ^ 193
  let s := s.writeHomeNat (firmwareBase + 0x100000 + 0x20000 * die + 32 * (n % 4096)) 32 event
  s.writeHomeNat index 8 ((n + 1) % 2 ^ 32)

end Sys2Proof.Machine
end

