-- ==== Sys2Proof/Machine/Walk.lean ====
section
/-! DEFINITION. The table walk (R378 to R382) and the leaves that it ends in (R379, R380), the fields of a queue
descriptor (R87), and what a port's descriptor says of an entry's size. -/

namespace Sys2Proof.Machine

/-- A trap's cause. -/
def cause (g i : Nat) : Cause := { group := g, index := i }

/-! ### The walk (R378 to R382) -/

/-- What a walk finds. `leaf`: an entry in force, the address it was read at, its size and whether it is a sub-entry.
`busy`: a node with MIGR = 1, with the address it covers. -/
inductive Walk where
  | leaf (entry pa size : Nat) (sub : Bool)
  | fault (c : Cause) (va : Nat)
  | busy (va : Nat)
deriving DecidableEq, Repr

/-- R379: the frame of a tier 0 or tier 1 page or node. -/
def frameAllowed (tier pa : Nat) : Bool :=
  if tier = 0 then isHbm pa && !isFirmware pa else if tier = 1 then isCxl pa else true

/-- Reserved bits of a pointer or a leaf (R380). -/
def entryReserved (e : Nat) : Bool := bits e 58 56 != 0 || bits e 2 1 != 0

/-- The leaf fields that a pointer entry holds zero (R380). -/
def pointerBad (e : Nat) : Bool := bitAt e 63 || bits e 61 59 != 0 || bits e 19 11 != 0 || bits e 6 3 != 0

/-- A split entry's bits besides SUB (R381). -/
def splitBad (e : Nat) : Bool := bits e 63 59 != 0 || bits e 13 11 != 0 || bits e 8 1 != 0

/-- A sub-entry's reserved bits (R381). -/
def subBad (e : Nat) : Bool := bits e 62 56 != 0 || bits e 15 7 != 0 || bits e 2 1 != 0

/-- The sub-entry of an address in a split block (R381). -/
def walkSub (s : State) (va block : Nat) : Walk :=
  if !isHbm block then .fault (cause 1 3) va
  else
    let pa := block + 8 * bits va 15 12
    let e := s.readHomeNat pa 8
    if subBad e then .fault (cause 1 4) va
    else if !bitAt e 0 then .fault (cause 1 0) va
    else .leaf e pa 4096 true

/-- The lowest bit of the address that each level indexes by (R378). -/
def levelShifts : List Nat := [68, 55, 42, 29, 16]

/-- The walk from a node on, in the order of R382. The type of an entry not in force is not judged (log 17). -/
def walkLevels (s : State) (va : Nat) : (shifts : List Nat) → (node : Nat) → Walk
  | [], _ => .fault (cause 1 4) va
  | sh :: rest, node =>
    let ix := if sh = 68 then bits va 71 68 else bits va (sh + 12) sh
    let pa := node + 8 * ix
    let e := s.readHomeNat pa 8
    let type := bits e 10 9
    let covering := va - va % 2 ^ sh
    let valid := bitAt e 0
    let isLeaf := sh = 16 || (sh = 29 && type = 1)
    if type != 2 && entryReserved e then .fault (cause 1 4) (if isLeaf then va else covering)
    else if !valid then
      (if isLeaf then .fault (cause 1 0) va else .fault (cause 1 1) covering)
    else if sh = 16 then
      (if type = 1 then .leaf e pa 65536 false
       else if type = 2 && va < 2 ^ 57 && !splitBad e then walkSub s va (bits e 58 14 * 128)
       else .fault (cause 1 4) va)
    else if sh = 29 && type = 1 then
      (if 2 ≤ bits e 8 7 then .fault (cause 1 4) va else .leaf e pa (2 ^ 29) false)
    else if type != 0 || pointerBad e then .fault (cause 1 4) covering
    else
      let tier := bits e 8 7
      let node := bits e 55 20 * 65536
      if 2 ≤ tier then .fault (cause 1 1) covering
      else if bitAt e 62 then .busy covering
      else if !frameAllowed tier node then .fault (cause 1 3) covering
      else walkLevels s va rest node

/-- The walk of a context's tables. -/
def State.walk (s : State) (ctx va : Nat) : Walk := walkLevels s va levelShifts (s.ctxRoot ctx)

/-- A pointer entry that a walk follows. -/
def pointerFollowed (e : Nat) : Bool :=
  bitAt e 0 && bits e 10 9 == 0 && !entryReserved e && !pointerBad e && bits e 8 7 < 2 && !bitAt e 62
    && frameAllowed (bits e 8 7) (bits e 55 20 * 65536)

/-- The pointer entries that a walk follows, from a node on: as a TLB holds them (R385). -/
def walkPointers (s : State) (ctx va : Nat) : (shifts : List Nat) → (node : Nat) → List TlbEntry
  | [], _ => []
  | sh :: rest, node =>
    let e := s.readHomeNat (node + 8 * (if sh = 68 then bits va 71 68 else bits va (sh + 12) sh)) 8
    if sh = 16 || !pointerFollowed e then []
    else { ctx, base := va - va % 2 ^ sh, size := 2 ^ sh, entry := BitVec.ofNat 64 e, sub := false }
      :: walkPointers s ctx va rest (bits e 55 20 * 65536)

/-- The size of the page of an address: 4 KiB under a split entry (R381). -/
def State.pageSize (s : State) (ctx va : Nat) : Nat :=
  match (walkPointers s ctx va levelShifts (s.ctxRoot ctx))[3]? with
  | some p =>
    if bits (s.readHomeNat (bits p.entry.toNat 55 20 * 65536 + 8 * bits va 28 16) 8) 10 9 = 2 then 4096 else 65536
  | none => 65536

/-- The walk where a node that is being moved is followed: which page an address has, whether or not a walk may go there now. -/
def walkThrough (s : State) (va : Nat) : (shifts : List Nat) → (node : Nat) → Walk
  | sh :: rest, node =>
    let e := s.readHomeNat (node + 8 * (if sh = 68 then bits va 71 68 else bits va (sh + 12) sh)) 8
    if sh != 16 && pointerFollowed (withBits e 62 62 0) then walkThrough s va rest (bits e 55 20 * 65536)
    else walkLevels s va (sh :: rest) node
  | [], node => walkLevels s va [] node

/-- R383: the leaf at `pa` belongs to a contiguous group of 32: the group's first leaf. -/
def State.contiguous (s : State) (pa e : Nat) : Option Nat :=
  if !bitAt e 11 then none
  else
    let base := pa - pa % 256
    let first := s.readHomeNat base 8
    if bitAt first 0 && bits first 8 7 = 0 && bitAt first 11 && bits first 24 20 = 0
        && (List.range 32).all (fun k => s.readHomeNat (base + 8 * k) 8 == first + k * 2 ^ 20) then some first
    else none

/-! ### Leaves -/

/-- The fields of a leaf or sub-entry (R380, R381). -/
structure Leaf where
  poison : Bool
  migr : Bool
  pin : Bool
  age : Nat
  tier : Nat
  user : Bool
  x : Bool
  w : Bool
  r : Bool
  frame : Nat
deriving DecidableEq, Repr

def Leaf.of (e : Nat) (sub : Bool) : Leaf :=
  { poison := bitAt e 63
    migr := !sub && bitAt e 62
    pin := !sub && bitAt e 61
    age := if sub then 0 else bits e 60 59
    tier := if sub then 0 else bits e 8 7
    user := bitAt e 6, x := bitAt e 5, w := bitAt e 4, r := bitAt e 3
    frame := if sub then bits e 55 16 else bits e 55 20 }

/-- Where the address lies, for tiers 0 and 1. -/
def Leaf.pa (l : Leaf) (sub : Bool) (size va : Nat) : Nat :=
  if sub then l.frame * 4096 + va % 4096 else l.frame * 65536 + va % size

/-- R379 and R380 for the frame of a leaf: tier 3 leaves the bits above the context zero, and no page of a 512 MiB leaf
lies in the firmware region, which ends at a multiple of 512 MiB. A flash slot past the 64 TiB of R1 is not judged (log 17). -/
def Leaf.frameBad (l : Leaf) (sub : Bool) (size : Nat) : Bool :=
  if sub then !isHost (l.frame * 4096)
  else if size = 2 ^ 29 then l.frame % 2 ^ 13 != 0 || !frameAllowed l.tier (l.frame * 65536 + 2 ^ 29 - 65536)
  else if l.tier = 3 then bits l.frame 35 18 != 0
  else !frameAllowed l.tier (l.frame * 65536)

/-! ### Queue descriptors (R87, R88) -/

def qTail (d : Nat) : Nat := bits d 223 192
def qHead (d : Nat) : Nat := bits d 191 160
def qCtx (d : Nat) : Nat := bits d 159 154
def qScope (d : Nat) : Nat := bits d 153 150
def qEsz (d : Nat) : Nat := bits d 149 147
def qCap (d : Nat) : Nat := bits d 146 142
def qBase (d : Nat) : Nat := bits d 71 0

/-- An entry of the port table that binds no port (R88). -/
def portUnbound (entry : Nat) : Bool := entry == 0 || bits entry 127 72 != 0

/-- The port table's entry (R434). -/
def State.portEntry (s : State) (ctx n : Nat) : Nat :=
  s.readHomeNat (s.field (serviceBlock ctx) 167 128 * 4096 + 16 * n) 16

/-- Where a port's descriptor lies, when its page is one of this module's, and what it holds. -/
def State.portPlace (s : State) (ctx port : Nat) : Option Nat :=
  let entry := s.portEntry ctx port % 2 ^ 72
  match s.walk ctx entry with
  | .leaf e _ size sub =>
    let l := Leaf.of e sub
    if 2 ≤ l.tier then none else some (l.pa sub size entry)
  | _ => none

def State.portDescriptor (s : State) (ctx port : Nat) : Option Nat :=
  (s.portPlace ctx port).map (fun pa => s.readHomeNat pa 64)

end Sys2Proof.Machine
end

