-- ==== Sys2Proof/Machine/Ops.lean ====
section
/-! DEFINITION. The named operations over the state: cores, weaves, paths, registers, outstanding operations, the
taking of an exception (a stop, R396, R400 to R404) and the return from one (R340, R397). -/

namespace Sys2Proof.Machine

/-! ### Cores, weaves and paths -/

def State.core (s : State) (c : Nat) : Core := (Table.find? s.cores c).getD Core.reset

def State.setCore (s : State) (c : Nat) (k : Core) : State := { s with cores := Table.set s.cores c k }

def State.modifyCore (s : State) (c : Nat) (f : Core → Core) : State := s.setCore c (f (s.core c))

def State.die (s : State) (d : Nat) : Die := (Table.find? s.dies d).getD Die.reset

def State.modifyDie (s : State) (d : Nat) (f : Die → Die) : State :=
  { s with dies := Table.set s.dies d (f (s.die d)) }

/-- The die of a core (R1). -/
def dieOf (c : Nat) : Nat := c / Config.coresPerDie

/-- The quad of a core, over the module (R1). -/
def quadOf (c : Nat) : Nat := c / 4

/-- The weave in a slot. -/
def State.weave? (s : State) (c slot : Nat) : Option Weave := Table.find? (s.core c).slots slot

def State.setWeave (s : State) (c slot : Nat) (w : Weave) : State :=
  s.modifyCore c (fun k => { k with slots := Table.set k.slots slot w })

def State.modifyWeave (s : State) (c slot : Nat) (f : Weave → Weave) : State :=
  match s.weave? c slot with
  | some w => s.setWeave c slot (f w)
  | none => s

def State.modifyPath (s : State) (a : Actor) (f : Path → Path) : State :=
  s.modifyWeave a.core a.slot (fun w => w.modifyPath a.path f)

def State.path? (s : State) (a : Actor) : Option Path := (s.weave? a.core a.slot).bind (fun w => w.path? a.path)

/-- Every lane of a weave (R9). -/
def Weave.laneCount (w : Weave) : Nat := 32 * w.groups

/-- sr_core of the hinge's actor is its core; the hinge core's scalar state stands in the pseudo-slot (log 8). -/
def Actor.isHinge (a : Actor) : Bool := a.slot == hingeSlot

/-! ### Registers -/

/-- The stored value of a lane of a vector register. -/
def Weave.vlane (w : Weave) (n k : Nat) : Word32 := ((w.vregs[n]?).bind (fun l => l[k]?)).getD 0

/-- The stored value of a scalar register. -/
def Weave.sreg (w : Weave) (n : Nat) : Word64 := (w.sregs[n]?).getD 0

/-- The stored lanes of a predicate; pT (15) is true in every lane. -/
def Weave.pred (w : Weave) (n : Nat) : LaneMask :=
  if n = 15 then BitVec.allOnes 1024 else (w.preds[n]?).getD 0

def Weave.areg (w : Weave) (n : Nat) : BitVec 128 := (w.aregs[n]?).getD 0
def Weave.shape (w : Weave) (n : Nat) : BitVec 512 := (w.shapes[n]?).getD 0
def Weave.tag (w : Weave) (n : Nat) : Tag := (w.tags[n]?).getD .untyped

/-- Half `k` of a scalar register's value: 0 the low 32 bits, 1 the high ones. -/
def halfOf (v : Word64) (k : Nat) : Nat := if k = 0 then v.toNat % 2 ^ 32 else v.toNat / 2 ^ 32

/-- What an outstanding operation still owes to lane `k` of the register with this code; a scalar register's halves count
as its lanes 0 and 1. -/
def Weave.owedLane (w : Weave) (code k : Nat) : Option Nat :=
  w.ops.findSome? (fun o => o.writes.findSome? (fun x =>
    if x.code != code then none
    else match x with
      | .vreg _ mask vals => if mask.has k then some ((vals[k]?).getD 0).toNat else none
      | .pred _ mask bits => if mask.has k then some (bit01 (bits.has k)) else none
      | .sreg _ v => some (halfOf v k)
      | .halves _ low high v => if (if k = 0 then low else high) then some (halfOf v k) else none
      | .shape _ v => some v.toNat))

/-- Lane `k` as a reader inside a lookahead window sees it: old or new per element (R205). -/
def Weave.seenLane (w : Weave) (serial n k : Nat) : Word32 :=
  match w.owedLane n k with
  | some v => if Config.windowNew serial n k then BitVec.ofNat 32 v else w.vlane n k
  | none => w.vlane n k

/-- A scalar register as such a reader sees it: each 32-bit half old or new (R205). -/
def Weave.seenScalar (w : Weave) (serial n : Nat) : Word64 :=
  let half := fun (k : Nat) =>
    match w.owedLane (0x100 + n) k with
    | some v => if Config.windowNew serial (0x100 + n) k then v else halfOf (w.sreg n) k
    | none => halfOf (w.sreg n) k
  if w.pending (0x100 + n) then BitVec.ofNat 64 (half 1 * 2 ^ 32 + half 0) else w.sreg n

/-- A predicate as such a reader sees it. -/
def Weave.seenPred (w : Weave) (serial n : Nat) : LaneMask :=
  if w.pending (0x200 + n) then
    LaneMask.ofLanes ((List.range w.laneCount).filter (fun k =>
      match w.owedLane (0x200 + n) k with
      | some v => if Config.windowNew serial (0x200 + n) k then v == 1 else (w.pred n).has k
      | none => (w.pred n).has k))
  else w.pred n

/-- An owed write with the lanes or halves dropped in which a later write inside the window stands (R205). The register
stays pending until the operation completes (R45). -/
def PendingWrite.yieldTo (serial code : Nat) (mask : LaneMask) (x : PendingWrite) : Option PendingWrite :=
  if x.code != code then some x
  else match x with
    | .vreg n m vals =>
      some (.vreg n (LaneMask.ofLanes ((m.lanes 1024).filter (fun k =>
        !(mask.has k && Config.windowNew serial code k)))) vals)
    | .pred n m b =>
      some (.pred n (LaneMask.ofLanes ((m.lanes 1024).filter (fun k =>
        !(mask.has k && Config.windowNew serial code k)))) b)
    | .sreg n v => some (.halves n (!Config.windowNew serial code 0) (!Config.windowNew serial code 1) v)
    | .halves n low high v =>
      some (.halves n (low && !Config.windowNew serial code 0) (high && !Config.windowNew serial code 1) v)
    | .shape _ _ => if Config.windowNew serial code 0 then none else some x

/-- The owed writes after a later write of the same register. -/
def Weave.yieldOwed (w : Weave) (serial code : Nat) (mask : LaneMask) : Weave :=
  if w.pending code then
    { w with ops := w.ops.map (fun o => { o with writes := o.writes.filterMap (PendingWrite.yieldTo serial code mask) }) }
  else w

/-- Lanes of a vector register written; the others keep their bits. vz discards. -/
def Weave.writeLanes (w : Weave) (n : Nat) (mask : LaneMask) (vals : Nat → Word32) : Weave :=
  if n = 0xFF then w
  else { w with vregs := modifyAt w.vregs n (fun l =>
    (l.zip (List.range l.length)).map (fun (old, k) => if mask.has k then vals k else old)) }

def Weave.writeScalar (w : Weave) (n : Nat) (v : Word64) : Weave := { w with sregs := setAt w.sregs n v }

/-- Bits of a predicate written in the lanes of the mask. pT (15) discards. -/
def Weave.writePred (w : Weave) (n : Nat) (mask bits : LaneMask) : Weave :=
  { w with preds := modifyAt w.preds n (fun old => (old &&& ~~~mask) ||| (bits &&& mask)) }

def Weave.writeTag (w : Weave) (n : Nat) (t : Tag) : Weave := { w with tags := setAt w.tags n t }

def Weave.writeAreg (w : Weave) (n : Nat) (v : BitVec 128) : Weave := { w with aregs := setAt w.aregs n v }

def Weave.writeShape (w : Weave) (n : Nat) (v : BitVec 512) : Weave := { w with shapes := setAt w.shapes n v }

/-! ### Outstanding operations (R14, R203) -/

/-- An owed write made. -/
def Weave.applyWrite (w : Weave) : PendingWrite → Weave
  | .vreg n mask vals => w.writeLanes n mask (fun k => (vals[k]?).getD 0)
  | .sreg n v => w.writeScalar n v
  | .halves n low high v =>
    let half := fun (k : Nat) (new : Bool) => halfOf (if new then v else w.sreg n) k
    w.writeScalar n (BitVec.ofNat 64 (half 1 high * 2 ^ 32 + half 0 low))
  | .pred n mask b => w.writePred n mask b
  | .shape n v => w.writeShape n v

/-- No entry of the path table. -/
def noEntry : Nat := 8

/-- The operations issued by some paths, and the engine faults that wait for them, pass to another entry (R155). -/
def Weave.handOver (w : Weave) (ps : List Nat) (p : Nat) : Weave :=
  { w with
    ops := w.ops.map (fun o => if ps.contains o.owner then { o with owner := p } else o)
    matrixFaults := w.matrixFaults.map (fun f => if ps.contains f.path then { f with path := p } else f) }

/-- The path that issued an outstanding operation, as it stands now. -/
def Weave.ownerOf (w : Weave) (op path : Nat) : Nat := ((w.ops.find? (fun o => o.id == op)).map (fun o => o.owner)).getD path

/-- An operation issued by path `p`, counted by dc(SET − 1) when SET is not 0. -/
def Weave.startOp (w : Weave) (p setN : Nat) (o : Operation) : Weave :=
  let w := { w with ops := w.ops ++ [o] }
  w.modifyPath p (fun q =>
    { q with
      issued := q.issued ++ [o.id]
      counters := if setN = 0 then q.counters else modifyAt q.counters (setN - 1) (fun l : List Nat => l ++ [o.id]) })

/-- Whether a blocked path's wait on a counter or an operation is over. -/
def Path.waitOver (q : Path) : Bool :=
  match q.cond with
  | .blocked (.waitc c n) => ((q.counters[c]?).getD []).length ≤ n
  | .blocked (.hold id) => !q.issued.contains id
  | _ => false

/-- An operation completed: its writes made, and every count of it lowered (R203). -/
def Weave.completeOp (w : Weave) (id : Nat) : Weave :=
  match w.ops.find? (fun o => o.id == id) with
  | none => w
  | some o =>
    let w := { w with ops := w.ops.filter (fun x => x.id != id) }
    let w := o.writes.foldl Weave.applyWrite w
    { w with paths := w.paths.map (Option.map (fun q : Path =>
        let q := { q with
          counters := q.counters.map (fun l : List Nat => l.filter (fun x => x != id))
          issued := q.issued.filter (fun x => x != id) }
        if q.waitOver then { q with cond := .ready } else q)) }

/-- Operations of path `p` in a set of classes (R106). -/
def Weave.opsOf (w : Weave) (q : Path) (cls : List AccessClass) : List Operation :=
  w.ops.filter (fun o => q.issued.contains o.id && (match o.cls with
    | some c => cls.contains c
    | none => false))

/-! ### Taking an exception: a stop (R396, R400, R404) -/

def causeCode (c : Cause) : Nat := 16 * c.group + c.index

/-- Group 20 indices 0 and 1, and groups 1 and 2, go to the fault ring (R400). -/
def Cause.toRing (c : Cause) : Bool := c.group == 1 || c.group == 2 || (c.group == 20 && c.index ≤ 1)

/-- TIER_WAIT is the Transom's alone (R389). -/
def tierWait : Cause := { group := 1, index := 5 }

/-- A cause of groups 20 to 23 recorded in the security processor's bitmap, in the Latch's for groups 21 to 23, and in
the black box of the die it touches (R400, R403, R467). -/
def State.recordCause (s : State) (c : Cause) (die unit core : Nat) (syndrome : BitVec 160) : State :=
  let m := BitVec.ofNat 512 (2 ^ causeCode c)
  let s := { s with
    securityMap := s.securityMap ||| m
    latchMap := if 21 ≤ c.group then s.latchMap ||| m else s.latchMap }
  s.blackBox die (causeCode c) unit core 0 syndrome

/-- The same for a cause raised by a core: its die is the unit (log 25). -/
def State.recordHardware (s : State) (c : Cause) (core : Nat) : State :=
  s.recordCause c (dieOf core) (dieOf core) core (Config.syndrome (dieOf core) s.tick)

/-- An integrity cause that a unit off the cores meets, recorded with no core in a die's black box (R400, R467). -/
def State.pagePoison (s : State) (c : Cause) (die unit : Nat) : State :=
  if c.group = 20 then s.recordCause c die unit 511 (Config.syndrome die s.tick) else s

/-- The security processor's vector. -/
def securityVector : Nat := 143

/-- A cause of group 23 of a die, recorded and signalled (R458). -/
def State.firmwareCause (s : State) (index die core : Nat) : State :=
  (s.recordCause { group := 23, index } die die core (Config.syndrome die s.tick)).raiseVector securityVector

/-- The tokens of a path that await a reply: its own, its halt's, and that of the parked state it returns to. -/
def Path.tokens (q : Path) : List Nat :=
  match q.cond with
  | .parked k => [k.token]
  | .halted h => h.token :: (h.parked.toList.map (fun k => k.token))
  | _ => []

def Weave.tokens (w : Weave) : List Nat :=
  w.writeBackToken.toList ++ w.paths.flatMap (fun p => p.toList.flatMap Path.tokens)

/-- Every token that awaits a reply. -/
def State.outstandingTokens (s : State) : List Nat :=
  let ofCore := fun (k : Core) => k.slots.flatMap (fun x => x.2.tokens)
  (s.cores.flatMap (fun x => ofCore x.2) ++ s.saved.flatMap (fun x => x.2.weave.tokens)
    ++ s.dies.flatMap (fun x => x.2.latch.toList.flatMap (fun l => ofCore l.content))
    ++ s.images.flatMap (fun x => ofCore x.content) ++ s.live.map (fun l => l.token)).filter (fun t => t != 0)

/-- A fresh token (R396): 1 to 65535 in turn, but for those outstanding. -/
def State.freshToken (s : State) : Nat × State :=
  let used := s.outstandingTokens
  let next := (List.range (used.length + 1)).map (fun i => (s.tokens + i) % 65535 + 1)
  let t := (next.find? (fun t => !used.contains t)).getD (s.tokens % 65535 + 1)
  (t, { s with tokens := t })

/-- The 512 bits of a fault record (R396), but for PH. -/
def FaultRecord.encode (r : FaultRecord) : Nat :=
  (r.tick % 2 ^ 63) * 2 ^ 448 + (r.va % 2 ^ 72) * 2 ^ 376 + r.lmask.toNat * 2 ^ 344 + (r.lgrp % 32) * 2 ^ 339
    + (r.path % 8) * 2 ^ 336 + (r.wslot % 64) * 2 ^ 330 + (r.core % 512) * 2 ^ 321 + (r.kind % 8) * 2 ^ 318
    + (causeCode r.cause % 512) * 2 ^ 309 + (r.gen % 2 ^ 16) * 2 ^ 293 + (r.ctx % 64) * 2 ^ 287
    + (r.token % 2 ^ 16) * 2 ^ 271 + bit01 r.last * 2 ^ 270 + bit01 r.whole * 2 ^ 269

/-- Whether the fault ring of a context has room (R396). -/
def State.faultRoom (s : State) (c : Nat) : Bool :=
  let b := translationBlock c
  (s.field b 143 128 + 2 ^ 16 - s.field b 127 112) % 2 ^ 16 < ringSize (s.field b 107 104) 4 12

/-- A record written into the ring: PH last, FBTAIL after it, and the context's vector when the ring was empty. -/
def State.putFaultRecord (s : State) (r : FaultRecord) : State :=
  let b := translationBlock r.ctx
  let tail := s.field b 143 128
  let size := ringSize (s.field b 107 104) 4 12
  let ph := 1 - (tail / size) % 2
  let pa := s.field b 103 64 * 4096 + 64 * (tail % size)
  let wasEmpty := tail == s.field b 127 112
  let s := s.writeHomeNat pa 64 (r.encode + ph * 2 ^ 511)
  let s := s.setField b 143 128 (tail + 1)
  if wasEmpty then s.raiseVector r.ctx else s

/-- A record for the ring; one without room waits, sets FBFULL and interrupts (R396). -/
def State.faultRecord (s : State) (r : FaultRecord) : State :=
  if s.faultRoom r.ctx && !s.lateFaults.any (fun x => x.ctx == r.ctx) then s.putFaultRecord r
  else
    let b := translationBlock r.ctx
    let s := { s with lateFaults := s.lateFaults ++ [r] }
    if s.field b 144 144 = 0 then (s.setField b 144 144 1).raiseVector r.ctx else s

/-- A record of KIND 6 or 7, which names no path (R32, R392, R400). -/
def State.eventRecord (s : State) (ctx kind : Nat) (cause : Cause) (va token : Nat) : State :=
  s.faultRecord { va, lmask := 0, lgrp := 0, path := 0, wslot := 0, core := 0, kind, cause
                  gen := s.ctxGen ctx, ctx, token, last := true, whole := false, tick := s.tick }

/-- The sticky bit of a hinge core's bitmap (R403). -/
def Core.stick (k : Core) (c : Cause) : Core :=
  { k with hinge := { k.hinge with cmap := k.hinge.cmap ||| BitVec.ofNat 512 (2 ^ causeCode c) } }

/-- A stop raised for the core's stop queue of 64 entries; when it is full the stop waits (R404). -/
def State.raiseStop (s : State) (c : Nat) (e : Stop) : State :=
  let s := if e.cause.group = 20 then s.recordHardware e.cause c else s
  s.modifyCore c (fun k =>
    let k := k.stick e.cause
    if k.stops.length < 64 && k.lateStops.isEmpty then { k with stops := k.stops ++ [e] }
    else { k with lateStops := k.lateStops ++ [e], hinge := { k.hinge with icause := k.hinge.icause ||| 4 } })

/-- The lowest group in which a mask has lanes, and those lanes. -/
def LaneMask.lowGroup (m : LaneMask) : Nat × BitVec 32 :=
  match (List.range 32).find? (fun g => LaneMask.word m g != 0) with
  | some g => (g, LaneMask.word m g)
  | none => (0, 0)

/-- What the parked path of a fault needs beyond its lanes: KIND of R396, the address after the instruction, and
whether the path continues there (R245). -/
structure FaultSite where
  kind : Nat
  next : VAddr
  resumesNext : Bool
  /-- What the fault record captures for the replay (R21, R130): nothing where the path stopped before it issued. -/
  captured : Option Captured
deriving DecidableEq, Repr

/-- The address that a lane accessed. -/
def LaneFault.accessed (x : LaneFault) : Nat := x.acc.getD x.va

/-- One record for each page and lane group that the lanes of one parked path touch, groups and then pages
ascending (R396). `page` gives the page of an address. -/
def pageRecords (page : Nat → Nat) (faults : List LaneFault) (mk : Nat → BitVec 32 → Nat → FaultRecord) :
    List FaultRecord :=
  let groups := sortNat (faults.map (fun x => x.lane / 32))
  groups.flatMap (fun g =>
    let mine := faults.filter (fun x => x.lane / 32 == g)
    let pages := sortNat (mine.map (fun x => page x.accessed))
    pages.map (fun pg =>
      let here := mine.filter (fun x => page x.accessed == pg)
      let va := match here with
        | x :: _ => x.va
        | [] => 0
      mk g (BitVec.ofNat 32 (here.foldl (fun m x => m ||| 2 ^ (x.lane % 32)) 0)) va))

/-- Whether a path that goes on at `pc` runs past the last word of the address space (R212, log 39): only the words of
the last 24 bytes have address 0 after them. -/
def Path.runsOff (q : Path) (pc : VAddr) : Bool := pc == 0 && (q.pastEnd || 2 ^ 72 - 24 ≤ q.pc.toNat)

/-- The last record of a token carries LAST (R396). -/
def markLast : List FaultRecord → List FaultRecord
  | [] => []
  | [r] => [{ r with last := true }]
  | r :: l => r :: markLast l

/-- A path that takes a stop becomes PARKED, and the stop is delivered by its cause (R400): to the fault ring with a
fresh token, to the Transom alone, or to the core's hinge core. `faults` are the lanes that raised it; none means
that the whole path stopped. A hinge core's own stop reaches itself (log 73); one that comes while it serves a stop, or
of group 7, has it reloaded (R458). The stop reports the PC at which its path stands parked: of a TRAP that is next (R245),
although R405 speaks of the stopping instruction (log 77). -/
def State.takeStop (s : State) (a : Actor) (cause : Cause) (detail : BitVec 96) (site : FaultSite)
    (faults : List LaneFault) (mark : Option LaneMask) (wholeRecord : Bool) : State :=
  match s.weave? a.core a.slot with
  | none => s
  | some w =>
    let ring := cause.toRing && cause != tierWait && !a.isHinge
    let (token, s) := if ring then s.freshToken else (0, s)
    let detail := if cause.toRing then
        detail ||| BitVec.ofNat 96 ((site.kind % 8) * 2 ^ 72 + (token % 2 ^ 16) * 2 ^ 75)
      else detail
    let s := s.modifyPath a (fun q => { q with
      cond := .parked { cause, detail, token, resumesNext := site.resumesNext, next := site.next, whole := wholeRecord }
      pc := if site.resumesNext then site.next else q.pc
      pastEnd := if site.resumesNext then q.runsOff site.next else q.pastEnd
      captured := match q.captured with
        | some c => some c
        | none => if site.resumesNext then none else site.captured
      replayMask := mark
      fetched := if site.resumesNext then [] else q.fetched.filter (fun x => stepKey 0 ≤ x.1)
      windows := [] })
    if a.isHinge && ((s.core a.core).hinge.hstatus.getLsbD 2 || cause.group == 7) then
      { s with agenda := .event (.hingeFault a.core) :: s.agenda }
    else if cause = tierWait then s
    else if ring then
      let base : FaultRecord :=
        { va := bits detail.toNat 71 0, lmask := 0, lgrp := 0, path := a.path, wslot := a.slot, core := a.core,
          kind := bits detail.toNat 74 72, cause, gen := s.ctxGen w.id.ctx, ctx := w.id.ctx, token, last := true,
          whole := wholeRecord, tick := s.tick }
      let rs := if wholeRecord || faults.isEmpty then [base]
        else markLast (pageRecords (fun va => va - va % s.pageSize w.id.ctx va) faults (fun g m va => { base with lgrp := g, lmask := m, va, last := false }))
      let s := if cause.group = 20 then s.recordHardware cause a.core else s
      rs.foldl State.faultRecord s
    else
      let mask := match mark with
        | some m => m
        | none => if faults.isEmpty then (match s.path? a with
            | some q => q.mask
            | none => 0) else LaneMask.ofLanes (faults.map (fun x => x.lane))
      let (g, lanes) := LaneMask.lowGroup mask
      s.raiseStop a.core {
        slot := a.slot, path := a.path, weave := w.id, cause, detail, token := 0, lgrp := g
        lanes, whole := faults.isEmpty, pf := false
        pc := (match s.path? a with
          | some q => if site.resumesNext then site.next else q.pc
          | none => 0) }

/-- The causes raised among lanes, ascending, each with its lanes. -/
def groupFaults (fs : List LaneFault) : List (Cause × List LaneFault) :=
  let codes := sortNat (fs.map (fun x => causeCode x.cause))
  codes.map (fun c => ({ group := c / 16, index := c % 16 }, fs.filter (fun x => causeCode x.cause == c)))

/-- The first lane's detail: the lowest failing lane (R402). -/
def firstDetail (fs : List LaneFault) : BitVec 96 :=
  match fs with
  | x :: _ => x.detail
  | [] => 0

/-- R21: the lanes of each cause leave the path and form a parked path in the lowest free entry. Answers the state
and the faults that found no entry, from the first such cause on. -/
def State.parkGroups (s : State) (a : Actor) (site : FaultSite) :
    List (Cause × List LaneFault) → State × List (Cause × List LaneFault)
  | [] => (s, [])
  | (c, fs) :: more =>
    match s.weave? a.core a.slot, s.path? a with
    | some w, some q =>
      let lanes := LaneMask.ofLanes (fs.map (fun x => x.lane))
      match w.freePath with
      | some i =>
        let np : Path := { q with
          mask := lanes, counters := List.replicate 6 [], windows := [], haltRequest := false, stepping := 0 }
        let w := (w.modifyPath a.path (fun q => { q with mask := q.mask &&& ~~~lanes })).putPath i (some np)
        let s := s.setWeave a.core a.slot w
        let s := s.takeStop { a with path := i } c (firstDetail fs) site fs none false
        State.parkGroups s a site more
      | none => (s, (c, fs) :: more)
    | _, _ => (s, [])

/-- R21 for a set of faulting lanes, ascending. When every active lane faults, the lanes of the lowest cause stay in
the path itself. Lanes that find no entry stay too: the whole path stops with the lowest cause that stayed, and it marks
them for the replay. Answers the state and whether the path itself stopped. -/
def State.parkLanes (s : State) (a : Actor) (site : FaultSite) (fs : List LaneFault) : State × Bool :=
  match s.path? a with
  | none => (s, true)
  | some q =>
    let groups := groupFaults fs
    let lanes := LaneMask.ofLanes (fs.map (fun x => x.lane))
    let all := q.mask &&& ~~~lanes == 0
    let own := if all then groups.take 1 else []
    let (s, left) := s.parkGroups a site (if all then groups.drop 1 else groups)
    let stay := own ++ left
    match stay with
    | [] => (s, false)
    | (c, cs) :: _ =>
      let marked := stay.flatMap (fun x => x.2)
      let mark := if left.isEmpty then none else some (LaneMask.ofLanes (marked.map (fun x => x.lane)))
      (s.takeStop a c (firstDetail cs) site marked mark !left.isEmpty, true)

/-! ### Ends of paths and weaves (R19, R243, R474) -/

/-- A path leaves the table; its weave begins to end when it was the last (R19). -/
def Weave.endPath (w : Weave) (p : Nat) : Weave :=
  let w := (w.putPath p none).handOver [p] noEntry
  if w.livePaths.isEmpty then { w with ending := true } else w

/-- A SPLIT entry is borne by another live path (R17). -/
def Weave.bornElsewhere (w : Weave) (p serial : Nat) : Bool :=
  w.livePaths.any (fun i => i != p && (match w.path? i with
    | some q => q.stack.any (fun e => match e with
      | .split _ n => n == serial
      | .defer .. => false)
    | none => false))

/-- R18: refinements younger than `age` dropped. -/
def Path.dropSince (q : Path) (age : Nat) : Path :=
  { q with refinements := q.refinements.filter (fun r => r.age ≤ age) }

/-- R474: unwinding a path that has no active lane. -/
def Weave.unwind (w : Weave) (p : Nat) : List StackEntry → Weave
  | [] => w.endPath p
  | .split _ serial :: rest =>
    if w.bornElsewhere p serial then w.endPath p
    else (w.modifyPath p (fun q => { q with stack := rest })).unwind p rest
  | .defer rid deferred resume merged arrived reconv after age :: rest =>
    if !arrived then
      if deferred != 0 then
        w.modifyPath p (fun q => { (q.dropSince age) with
          mask := deferred, pc := resume, pastEnd := false, cond := .ready,
          stack := .defer rid 0 resume 0 true reconv after age :: rest })
      else (w.modifyPath p (fun q => { q with stack := rest })).unwind p rest
    else if merged != 0 then
      w.modifyPath p (fun q => { (q.dropSince age) with
        mask := merged, pc := after, pastEnd := q.runsOff after, cond := .ready, stack := rest })
    else (w.modifyPath p (fun q => { q with stack := rest })).unwind p rest

/-- Lanes leave path `p` for good; a path left with none unwinds. `pc` is where the others continue. -/
def Weave.removeLanes (w : Weave) (p : Nat) (lanes : LaneMask) (pc : VAddr) : Weave :=
  match w.path? p with
  | none => w
  | some q =>
    let left := q.mask &&& ~~~lanes
    let w := w.modifyPath p (fun q => { q with
      mask := left, pc, pastEnd := q.runsOff pc, cond := .ready, captured := none, replayMask := none, fetched := [] })
    if left = 0 then ({ w with ended := [(p, q)] } : Weave).unwind p q.stack else w

/-- END (R19): every path ends. -/
def Weave.endAll (w : Weave) : Weave :=
  { w with
    paths := w.paths.map (fun _ => none), ending := true
    ended := w.livePaths.filterMap (fun i => (w.path? i).map (fun (q : Path) => (i, q))) }

/-- The stops of an ended weave are discarded with its parked paths (R19). -/
def State.endWeave (s : State) (c slot : Nat) : State :=
  let s := s.modifyWeave c slot Weave.endAll
  s.modifyCore c (fun k => { k with
    stops := k.stops.filter (fun e => e.slot != slot)
    lateStops := k.lateStops.filter (fun e => e.slot != slot) })

/-! ### The return from a stop (R340, R397) -/

/-- The weave's matrix-abort bit cleared (R155). -/
def State.clearAbort (s : State) (c slot : Nat) : State :=
  s.modifyWeave c slot (fun w => { w with matrixAbort := false })

/-- What an ended stop does to its path: 0 REPLAY, 1 SKIP, 2 KILL, 3 END (R340). `stepping` is the armed step of
R464. A path that is neither PARKED nor HALTED is left alone. -/
def Weave.returnPath (w : Weave) (p disp stepping : Nat) : Weave :=
  match w.path? p with
  | none => w
  | some q =>
    match q.cond, disp with
    | .parked k, 0 => w.modifyPath p (fun q => { q with
        cond := .ready, replayMask := if k.resumesNext then none else q.replayMask })
    | .parked k, 1 => w.modifyPath p (fun q => { q with
        cond := .ready, pc := k.next, pastEnd := q.runsOff k.next, captured := none, replayMask := none, fetched := [] })
    | .parked k, _ =>
      w.removeLanes p (match q.replayMask with
        | some m => m
        | none => q.mask) k.next
    | .halted h, 0 =>
      (match h.parked, h.batches with
        | some k, _ => w.modifyPath p (fun q => { q with cond := .parked k, haltRequest := false })
        | none, some op => w.modifyPath p (fun q => { q with
            cond := .blocked (.batches op h.next), stepping, haltRequest := false })
        | none, none => w.modifyPath p (fun q => { q with
            cond := .ready, pc := if h.atNext then h.next else q.pc
            pastEnd := if h.atNext then q.runsOff h.next else q.pastEnd
            stepping, haltRequest := false }))
    | .halted h, 1 =>
      (match h.batches with
        | some op => w.modifyPath p (fun q => { q with cond := .blocked (.batches op h.next), haltRequest := false })
        | none => w.modifyPath p (fun q => { q with
            cond := .ready, pc := h.next, pastEnd := q.runsOff h.next, haltRequest := false, fetched := [] }))
    | .halted h, _ => w.removeLanes p q.mask h.next
    | _, _ => w

/-- RETRY or SKIP of the parked state that a HALTED path holds: the path stays HALTED, and is READY once resumed. -/
def Path.unparkHalted (q : Path) (disp : Nat) : Path :=
  match q.cond with
  | .halted h =>
    let q := { q with cond := .halted { h with parked := none } }
    (match h.parked, disp with
      | some k, 1 => { q with pc := k.next, pastEnd := q.runsOff k.next, captured := none, replayMask := none }
      | _, _ => q)
  | _ => q

/-- A HALTED path holds a fault of this cause. -/
def Path.holdsFault (q : Path) (c : Cause) : Bool :=
  match q.cond with
  | .halted h => c.group != 16 && h.parked.any (fun p => p.cause == c)
  | _ => false

/-- The end of a stop of path `a` (R340): every disposition clears the matrix-abort bit. -/
def State.returnStop (s : State) (a : Actor) (disp stepping : Nat) : State :=
  let s := s.clearAbort a.core a.slot
  if disp = 3 then s.endWeave a.core a.slot
  else s.modifyWeave a.core a.slot (fun w => w.returnPath a.path disp stepping)

/-! ### One instruction in its context -/

/-- The issuing instruction: the state at issue, who issues it, its fields, and the lanes it acts in. `f` is read
through the captured operands on a replay (R21). -/
structure Env where
  s : State
  a : Actor
  w : Weave
  p : Path
  f : Fields
  i : Instr
  /-- The wide operand (R198). -/
  wide : Int
  next : VAddr
  acting : LaneMask
  serial : Nat
  /-- sr_rng at issue, or as captured (R130). -/
  rng : Word64
  guarded : Bool
  /-- Codes of the registers that the word writes (R205). -/
  dests : List Nat

/-- What an instruction does. `done`: everything is written and the path goes on to next. `moved`: the path's place
is already set. `trap`: the whole path stops before any effect. `wait`: the path blocks on the instruction, to issue
it again. `stop`: the machine stops. -/
inductive Effect where
  | done (s : State)
  | moved (s : State)
  | trap (c : Cause) (detail : BitVec 96)
  | wait (s : State) (w : Wait)
  | stop (f : Fault)

/-- The weave as the state `s` now holds it. -/
def Env.now (e : Env) (s : State) : Weave := (s.weave? e.a.core e.a.slot).getD e.w

def Env.put (e : Env) (s : State) (w : Weave) : State := s.setWeave e.a.core e.a.slot w

/-- The acting lanes, ascending. -/
def Env.lanes (e : Env) : List Nat := e.acting.lanes e.w.laneCount

/-- The lowest acting lane. -/
def Env.lowLane (e : Env) : Nat := e.lanes.headD 0

/-- A scalar register as the instruction reads it: captured on a replay (R21), else seen (R205). -/
def Env.sreg (e : Env) (n : Nat) : Word64 :=
  match e.p.captured with
  | some c => (c.sregs[n]?).getD 0
  | none => e.w.seenScalar e.serial n

def Env.areg (e : Env) (n : Nat) : BitVec 128 :=
  match e.p.captured with
  | some c => (c.aregs[n]?).getD 0
  | none => e.w.areg n

def Env.vlane (e : Env) (n k : Nat) : Nat := (e.w.seenLane e.serial n k).toNat

def Env.pred (e : Env) (n : Nat) : LaneMask := e.w.seenPred e.serial n

/-- The captured operands of the instruction (R21). -/
def Env.capture (e : Env) : Captured :=
  match e.p.captured with
  | some c => c
  | none => { sregs := e.w.sregs, aregs := e.w.aregs, rng := e.rng, sjambs := e.w.sjambs }

/-- The fault site of this instruction. -/
def Env.site (e : Env) (kind : Nat) : FaultSite :=
  { kind, next := e.next, resumesNext := false, captured := some e.capture }

/-- The jamb of a scalar register, captured with it on a replay (R55). -/
def Env.scalarJamb (e : Env) (n : Nat) : Jamb :=
  match e.p.captured with
  | some c => (c.sjambs[n]?).getD .top
  | none => e.w.jambOf e.a.path (0x100 + n)

/-- The weave with lanes of a vector register written by this instruction (with R205's choice where the register
is still owed). -/
def Env.setLanes (e : Env) (w : Weave) (n : Nat) (mask : LaneMask) (vals : Nat → Nat) : Weave :=
  (w.yieldOwed e.serial n mask).writeLanes n mask (fun k => BitVec.ofNat 32 (vals k))

def Env.setScalar (e : Env) (w : Weave) (n : Nat) (v : Nat) : Weave :=
  (w.yieldOwed e.serial (0x100 + n) 1).writeScalar n (BitVec.ofNat 64 v)

def Env.setPred (e : Env) (w : Weave) (n : Nat) (mask bits : LaneMask) : Weave :=
  (w.yieldOwed e.serial (0x200 + n) mask).writePred n mask bits

/-- The writes of a long-latency form owed to an operation of its own; with nothing owed there is none (R203, R204). -/
def Env.owe (e : Env) (w : Weave) (cls : Option AccessClass) (kind : OpKind) (writes : List PendingWrite) : Weave :=
  if writes.isEmpty then w
  else w.startOp e.a.path e.f.setN { id := e.serial, owner := e.a.path, cls, kind, writes }

/-- A vector result owed: nothing for vz. -/
def oweLanes (n : Nat) (mask : LaneMask) (count : Nat) (vals : Nat → Nat) : List PendingWrite :=
  if n = 0xFF then []
  else [.vreg n mask ((List.range count).map (fun k => if mask.has k then BitVec.ofNat 32 (vals k) else 0))]

/-- sr_rng advanced once by an issue that rounds stochastically, and not by a replay (R130). -/
def Env.drawn (e : Env) (w : Weave) (mode : Nat) : Weave :=
  if mode = 4 && e.p.captured.isNone then { w with rng := w.rng + 1 } else w

/-- Group 4's detail (R402): the address, log2 of the alignment, the lowest failing lane. -/
def alignDetail (addr log2 lane : Nat) : BitVec 96 :=
  BitVec.ofNat 96 (addr % 2 ^ 72 + (log2 % 16) * 2 ^ 72 + (lane % 1024) * 2 ^ 76)

/-- Group 8's detail (R402): a number and the opcode. -/
def privDetail (i : Instr) (n : Nat) : BitVec 96 :=
  BitVec.ofNat 96 (n % 2 ^ 16 + ((opcOf i).getD 0) * 2 ^ 16)

/-- Group 9's detail (R402): an address and the rid. -/
def syncDetail (addr rid : Nat) : BitVec 96 := BitVec.ofNat 96 (addr % 2 ^ 72 + (rid % 64) * 2 ^ 72)

/-- Detail of groups 11 to 15 (R402): an address, a step or slot, a channel or tile. -/
def unitDetail (addr step unit : Nat) : BitVec 96 :=
  BitVec.ofNat 96 (addr % 2 ^ 72 + (step % 256) * 2 ^ 72 + (unit % 8) * 2 ^ 80)

/-- STRUCT_ALIGN (R401) at an address. -/
def structAlign (addr log2 : Nat) : Effect := .trap (cause 4 2) (alignDetail addr log2 0)

/-- Whether a 72-bit address is aligned. -/
def aligned (addr n : Nat) : Bool := addr % n == 0

end Sys2Proof.Machine
end

