-- ==== Sys2Proof/Machine/Operands.lean ====
section
/-! DEFINITION. Operand forms: what an operand field reads in a lane, its jamb, and the checks on its format tag
(R131, R133, R195 to R200, R217). -/

namespace Sys2Proof.Machine

/-! ### Format tags (R131) -/

def Tag.code : Tag → Nat
  | .untyped => 0 | .i32 => 1 | .f32 => 2 | .f16x2 => 3 | .bf16x2 => 4 | .e4m3x4 => 5 | .e5m2x4 => 6 | .i8x4 => 7
  | .i4x8 => 8 | .e2m3x4 => 9 | .e3m2x4 => 10 | .e2m1x8 => 11 | .q4x => 12 | .e8m0x4 => 13 | .ue8m8x2 => 14
  | .vq8x4 => 15

def Tag.ofCode (c : Nat) : Tag :=
  match c % 16 with
  | 1 => .i32 | 2 => .f32 | 3 => .f16x2 | 4 => .bf16x2 | 5 => .e4m3x4 | 6 => .e5m2x4 | 7 => .i8x4 | 8 => .i4x8
  | 9 => .e2m3x4 | 10 => .e3m2x4 | 11 => .e2m1x8 | 12 => .q4x | 13 => .e8m0x4 | 14 => .ue8m8x2 | 15 => .vq8x4
  | _ => .untyped

/-- Group 6's detail (R402): tag found, tag expected, operand code. -/
def tagDetail (found want : Tag) (code : Nat) : BitVec 96 :=
  BitVec.ofNat 96 (found.code + want.code * 2 ^ 4 + (code % 1024) * 2 ^ 8)

/-- R133: a tagged operand read as a format. UNTYPED passes; only vector registers other than vz carry tags. -/
def Env.tagFails (e : Env) (want : Tag) (o : Operand) : Option Effect :=
  match o with
  | .vreg n =>
    let t := e.w.tag n
    if t == .untyped || t == want then none else some (.trap (cause 6 0) (tagDetail t want n))
  | _ => none

/-- The first failed tag check of several operands. -/
def Env.tagsFail (e : Env) (want : Tag) (os : List Operand) : Option Effect := os.findSome? (e.tagFails want)

/-! ### Special registers (R196) -/

/-- The low six bits of sr_weave: the slot (a hinge core reads slot 0, log 8). -/
def slotNumber (slot : Nat) : Nat := slot % 64

/-- A special register; sr_lane reads `k`. -/
def Env.special (e : Env) (code k : Nat) : Nat :=
  match code with
  | 0x140 => k
  | 0x141 => e.a.core * 64 + slotNumber e.a.slot
  | 0x142 => e.w.id.inst
  | 0x143 => e.a.core
  | 0x144 => e.s.tick % 2 ^ 64
  | 0x145 => e.rng.toNat
  | 0x146 => e.w.mode.toNat
  | 0x147 => e.w.role
  | 0x148 => e.w.laneCount
  | 0x149 => e.w.id.ctx
  | 0x14A => e.a.path
  | _ => 0

/-! ### Reading -/

/-- The low `w` bits that an operand gives in lane `k` (R195, R198, R217). -/
def Env.read (e : Env) (w : Nat) (o : Operand) (k : Nat) : Nat :=
  match o with
  | .vreg n => e.vlane n k % 2 ^ w
  | .sreg n => (e.sreg n).toNat % 2 ^ w
  | .special c => e.special c k % 2 ^ w
  | .wide => uwrap w e.wide
  | .small v => uwrap w v
  | _ => 0

/-- The operand read as a signed w-bit integer. -/
def Env.readInt (e : Env) (w : Nat) (o : Operand) (k : Nat) : Int := signed w (e.read w o k)

/-- A scalar operand or an immediate, read once as 64 bits. -/
def Env.scalar (e : Env) (o : Operand) : Nat := e.read 64 o e.lowLane

/-- The lanes of a predicate operand. -/
def Env.predOf (e : Env) (o : Operand) : LaneMask :=
  match o with
  | .pred n => e.pred n
  | .pT => BitVec.allOnes 1024
  | _ => 0

/-! ### Jambs of sources (R42, R47, R217) -/

/-- A 64-bit jamb read at width 32. -/
def Jamb.at32 (j : Jamb) : Jamb := if j.within 64 (minInt 32) (maxInt 32) then Jamb.mk 32 (j.lo 64) (j.hi 64) else .top

/-- The jamb of a source at width `w`. -/
def Env.jambAt (e : Env) (w : Nat) (o : Operand) : Jamb :=
  match o with
  | .vreg n => e.w.jambOf e.a.path n
  | .vz => .iv 0 0
  | .sreg n =>
    let j := e.scalarJamb n
    if w = 32 then j.at32 else j
  | .wide => let c := signed w (uwrap w e.wide); .iv c c
  | .small v => let c := signed w (uwrap w v); .iv c c
  | .special 0x140 => .iv 0 (e.w.laneCount - 1)
  | .special 0x142 => .iv 0 e.w.instm1
  | .special 0x143 => .iv 0 383
  | _ => .top

/-- The operand code of a register that a field names. -/
def Operand.code : Operand → Nat
  | .vreg n => n | .vz => 0xFF | .sreg n => 0x100 + n | .special c => c | .pred n => 0x200 + n | .pT => 0x20F
  | .areg n => 0x210 + n | .port n => 0x220 + n | .dc n => 0x230 + n | .shape n => 0x236 + n | .wide => 0x300
  | .small v => 0x300 + uwrap 8 v | .reserved => 0x1C0

/-! ### Array registers and indices (R52 to R55, R277) -/

/-- The fields of an array register (R52). -/
def aregBase (a : BitVec 128) : Nat := bits a.toNat 71 0
def aregExtent (a : BitVec 128) : Nat := bits a.toNat 111 72
def aregEsz (a : BitVec 128) : Nat := bits a.toNat 115 112
def aregChk (a : BitVec 128) : Nat := bits a.toNat 117 116
def aregSwz (a : BitVec 128) : Nat := bits a.toNat 119 118
def aregPlace (a : BitVec 128) : Bool := bitAt a.toNat 120

/-- R53: a non-zero reserved bit, CHK = 3 or ESZ above 12. -/
def aregBad (a : BitVec 128) : Bool := bits a.toNat 127 121 != 0 || aregChk a == 3 || 12 < aregEsz a

/-- R54: the range test of index i + o for a `width`-byte access. -/
def aregInRange (a : BitVec 128) (i o : Int) (width : Nat) : Bool :=
  0 ≤ i + o && (i + o) * (2 ^ aregEsz a : Nat) + width ≤ (aregExtent a * 2 ^ aregEsz a : Nat)

/-- An index or offset in lane `k`: a vector register is signed 32 bits, a scalar register signed 64 (R277). -/
def Env.index (e : Env) (o : Operand) (k : Nat) : Int :=
  match o with
  | .vreg n => signed 32 (e.vlane n k)
  | .sreg n => signed 64 (e.sreg n).toNat
  | .wide => e.wide
  | .small v => v
  | _ => 0

/-- The jamb of an index operand, at its own width. -/
def Env.indexJamb (e : Env) (o : Operand) : Int × Int :=
  match o with
  | .vreg n => let j := e.w.jambOf e.a.path n; (j.lo 32, j.hi 32)
  | .sreg n => let j := e.scalarJamb n; (j.lo 64, j.hi 64)
  | _ => (e.index o 0, e.index o 0)

/-- The signed constant o of IMM[13:0]. -/
def offset14 (f : Fields) : Int := signed 14 (bits f.immN 13 0)

/-! ### Writing -/

/-- A destination of width 32 (vector) or 64 (scalar) written: vector lanes by lane, a scalar once with the value of
the lowest acting lane; vz and pT discard (R200, R218). `vals` gives the value for a lane. -/
def Env.writeDst (e : Env) (w : Weave) (o : Operand) (vals : Nat → Nat) : Weave :=
  match o with
  | .vreg n => e.setLanes w n e.acting vals
  | .sreg n => e.setScalar w n (vals e.lowLane)
  | .pred n => e.setPred w n e.acting (LaneMask.ofLanes (e.lanes.filter (fun k => vals k % 2 == 1)))
  | _ => w

/-- The width of a destination or compared operand. -/
def Operand.width : Operand → Nat
  | .sreg _ => 64
  | _ => 32

/-- The tag of a vector destination written (R132). -/
def Weave.tagDst (w : Weave) (o : Operand) (t : Tag) : Weave :=
  match o with
  | .vreg n => w.writeTag n t
  | _ => w

end Sys2Proof.Machine
end

