-- ==== Sys2Proof/Machine/Flags.lean ====
section
/-! DEFINITION. Outcomes computed beside a result: the conditions of R207, and the result jambs of R47, R48 and R224
with the updates of R43, R44 and R49. -/

namespace Sys2Proof.Machine

/-! ### Conditions (R207) -/

/-- COND on two w-bit patterns. -/
def condHolds (w c a b : Nat) : Bool :=
  let sa := signed w a
  let sb := signed w b
  match c with
  | 0 => a == b
  | 1 => a != b
  | 2 => sa < sb
  | 3 => sa ≤ sb
  | 4 => sb < sa
  | 5 => sb ≤ sa
  | 6 => a < b
  | 7 => a ≤ b
  | 8 => b < a
  | 9 => b ≤ a
  | _ => false

/-! ### Result jambs (R47) -/

/-- Hull of the four products. -/
def mulHull (w : Nat) (a b : Jamb) : Int × Int :=
  let p := [a.lo w * b.lo w, a.lo w * b.hi w, a.hi w * b.lo w, a.hi w * b.hi w]
  (p.foldl min (a.lo w * b.lo w), p.foldl max (a.lo w * b.lo w))

/-- ⌊i ÷ 2^s⌋. -/
def floorShift (i : Int) (s : Nat) : Int := i / (2 ^ s : Nat)

namespace JambRule

def add (w : Nat) (a b : Jamb) : Int × Int := (a.lo w + b.lo w, a.hi w + b.hi w)
def sub (w : Nat) (a b : Jamb) : Int × Int := (a.lo w - b.hi w, a.hi w - b.lo w)
def neg (w : Nat) (a : Jamb) : Int × Int := (-(a.hi w), -(a.lo w))
def abs (w : Nat) (a : Jamb) : Int × Int :=
  if 0 ≤ a.lo w then (a.lo w, a.hi w)
  else if a.hi w ≤ 0 then (-(a.hi w), -(a.lo w))
  else (0, max (-(a.lo w)) (a.hi w))

/-- MAD: the product hull plus c, endpoint by endpoint. -/
def mad (w : Nat) (a b c : Jamb) : Int × Int :=
  let p := mulHull w a b
  (p.1 + c.lo w, p.2 + c.hi w)

def nonneg (w : Nat) (a b : Jamb) : Bool := 0 ≤ a.lo w && 0 ≤ b.lo w

def mulh (w : Nat) (isSigned : Bool) (a b : Jamb) : Jamb :=
  let p := mulHull w a b
  if isSigned || nonneg w a b then Jamb.mk w (floorShift p.1 w) (floorShift p.2 w) else .top

def min2 (w : Nat) (isSigned : Bool) (a b : Jamb) : Jamb :=
  if isSigned || nonneg w a b then Jamb.mk w (min (a.lo w) (b.lo w)) (min (a.hi w) (b.hi w)) else Jamb.hull w a b

def max2 (w : Nat) (isSigned : Bool) (a b : Jamb) : Jamb :=
  if isSigned || nonneg w a b then Jamb.mk w (max (a.lo w) (b.lo w)) (max (a.hi w) (b.hi w)) else Jamb.hull w a b

/-- AND: a constant m ≥ 0 in either source, the second when both are constants; else two registers. -/
def and (w : Nat) (a b : Jamb) : Jamb :=
  let byConst := fun (m : Int) (other : Jamb) => if 0 ≤ other.lo w then Jamb.mk w 0 m else .top
  match a.single w, b.single w with
  | _, some m =>
    if 0 ≤ m then byConst m a
    else match a.single w with
      | some m' => if 0 ≤ m' then byConst m' b else .top
      | none => .top
  | some m, none => if 0 ≤ m then byConst m b else .top
  | none, none => if nonneg w a b then Jamb.mk w 0 (min (a.hi w) (b.hi w)) else .top

def or (w : Nat) (a b : Jamb) : Jamb :=
  if nonneg w a b then Jamb.mk w 0 ((2 ^ bitLength 64 (max (a.hi w) (b.hi w)).toNat : Nat) - 1) else .top

def andn (w : Nat) (a : Jamb) : Jamb := if 0 ≤ a.lo w then Jamb.mk w 0 (a.hi w) else .top
def not (w : Nat) (a : Jamb) : Jamb := Jamb.mk w (-(a.hi w) - 1) (-(a.lo w) - 1)

/-- The reduced shift count when the count's jamb is a single value. -/
def count (w : Nat) (c : Jamb) : Option Nat := (c.single w).map (fun v => uwrap (if w = 32 then 5 else 6) v)

def shl (w : Nat) (a c : Jamb) : Jamb :=
  match count w c with
  | some s => Jamb.mk w (a.lo w * (2 ^ s : Nat)) (a.hi w * (2 ^ s : Nat))
  | none => .top

def shr (w : Nat) (a c : Jamb) : Jamb :=
  match count w c with
  | none => .top
  | some s =>
    if 0 ≤ a.lo w then Jamb.mk w (floorShift (a.lo w) s) (floorShift (a.hi w) s)
    else if a.hi w < 0 then Jamb.mk w (floorShift (uwrap w (a.lo w)) s) (floorShift (uwrap w (a.hi w)) s)
    else if s = 0 then a else Jamb.mk w 0 (floorShift ((2 ^ w : Nat) - 1) s)

def sar (w : Nat) (a c : Jamb) : Jamb :=
  match count w c with
  | some s => Jamb.mk w (floorShift (a.lo w) s) (floorShift (a.hi w) s)
  | none => .top

def rot (w : Nat) (a c : Jamb) : Jamb :=
  match count w c with
  | some 0 => a
  | _ => .top

/-- BFE with the jamb of its length operand; the length is its low 8 bits. -/
def bfe (w : Nat) (isSigned : Bool) (len : Jamb) : Jamb :=
  match len.single w with
  | none => .top
  | some v =>
    let n := uwrap 8 v
    if n = 0 then .iv 0 0 else if w ≤ n then .top
    else if isSigned then Jamb.mk w (minInt n) (maxInt n) else Jamb.mk w 0 ((2 ^ n : Nat) - 1)

/-- LEA: base + index × 2^s for the constant s (its low 6 bits, R228). -/
def lea (w : Nat) (base index shift : Jamb) (shiftWidth : Nat) : Jamb :=
  match shift.single shiftWidth with
  | some v =>
    let s := 2 ^ uwrap 6 v
    Jamb.mk w (base.lo w + index.lo w * (s : Nat)) (base.hi w + index.hi w * (s : Nat))
  | none => .top

/-- MOV and MOVS from width `ws` to width `wd`: kept when the interval fits. -/
def move (ws wd : Nat) (a : Jamb) : Jamb :=
  if a.within ws (minInt wd) (maxInt wd) then Jamb.mk wd (a.lo ws) (a.hi ws) else .top

/-- R224: the jamb of a .SAT form. -/
def sat (w : Nat) (isSigned : Bool) (sources : List Jamb) (i : Int × Int) : Jamb :=
  if isSigned then (if minInt w ≤ i.1 && i.2 ≤ maxInt w then Jamb.mk w i.1 i.2 else .top)
  else if sources.all (fun a => 0 ≤ a.lo w) && 0 ≤ i.1 && i.2 ≤ maxInt w then Jamb.mk w i.1 i.2 else .top

end JambRule

/-! ### Refinement by BCMP (R48, R49) -/

/-- An interval of a side, or none when there is no refinement or it would be empty. -/
def sideInterval (lo hi : Int) : Option (Int × Int) := if hi < lo then none else some (lo, hi)

/-- R48: the refinement of x on the taken side and on the fall-through side. -/
def refineBy (w c : Nat) (x b : Jamb) : Option (Int × Int) × Option (Int × Int) :=
  let l := x.lo w
  let h := x.hi w
  let bl := b.lo w
  let bh := b.hi w
  let lt := (sideInterval l (min h (bh - 1)), sideInterval (max l bl) h)
  let le := (sideInterval l (min h bh), sideInterval (max l (bl + 1)) h)
  let gt := (sideInterval (max l (bl + 1)) h, sideInterval l (min h bh))
  let ge := (sideInterval (max l bl) h, sideInterval l (min h (bh - 1)))
  let ne : Option (Int × Int) :=
    match b.single w with
    | some v => if v = l then sideInterval (l + 1) h else if v = h then sideInterval l (h - 1) else none
    | none => none
  let eq := sideInterval (max l bl) (min h bh)
  match c with
  | 0 => (eq, ne)
  | 1 => (ne, eq)
  | 2 => lt
  | 3 => le
  | 4 => gt
  | 5 => ge
  | 6 => (if 0 ≤ bl then sideInterval (max l 0) (min h (bh - 1)) else none, if 0 ≤ l && 0 ≤ bl then lt.2 else none)
  | 7 => if 0 ≤ l && 0 ≤ bl then le else (none, none)
  | 8 => if 0 ≤ l && 0 ≤ bl then gt else (none, none)
  | 9 => if 0 ≤ l && 0 ≤ bl then ge else (none, none)
  | _ => (none, none)

end Sys2Proof.Machine
end

