-- ==== Sys2Proof/Machine/Issue.lean ====
section
/-! DEFINITION. Issue: the checks and the bookkeeping that every instruction shares (R201 to R206, R210, R313, R412).
A form gives its result jambs and its own effect; `issue` does the rest. -/

namespace Sys2Proof.Machine

/-- The engines of R36. -/
inductive Engine where
  | none | copy | kv | matrix | shutter
deriving DecidableEq, Repr

/-- What a form adds to the shared issue: its engine, the jambs of the registers it writes (R47), and its effect. -/
structure Form where
  engine : Engine := .none
  jambs : Env → List (Nat × Jamb) := fun _ => []
  body : Env → Effect

/-- R36: the engines a role may command. -/
def roleAllows (role : Nat) (g : Engine) : Bool :=
  match g with
  | .none => true
  | .copy => role == 0 || role == 1 || role == 2
  | .kv => role == 0 || role == 1
  | .matrix => role == 0 || role == 2
  | .shutter => role == 0

/-! ### Which registers an instruction reads and writes (R205) -/

/-- The long-latency forms (R204). -/
def isLong : Instr → Bool
  | .ld f | .ldr f | .lds f | .atom f | .atoms f => f.xOp != .vz
  | .fill _ | .qpop _ | .frcp _ | .frsq _ | .fsqrt _ | .fexp2 _
  | .flog2 _ | .fsin _ | .fcos _ | .ftanh _ | .kvld _ | .vqscore _ | .csrr _ | .dbgrd _ => true
  | _ => false

/-- X is a source only. -/
def xIsSource : Instr → Bool
  | .st _ | .str _ | .sts _ | .red _ | .spill _ | .bcmp _ | .widen _ | .abinit _ | .abexp _ | .abarr _ | .cpy _
  | .gather _ | .scatter _ | .spawn _ | .qpush _ | .vqlut _ | .tlbinvVa _ | .tlbinvCtx _ | .icinvVa _
  | .icinvCtx _ => true
  | _ => false

/-- X is read as well as written (BFI, a narrowing CVT, .CAS). -/
def xIsBoth : Instr → Bool
  | .bfi _ => true
  | .cvt f | .cvtSat f | .cvtUns f | .cvtSatUns f => elemsPerWord (cvtSrc f) < elemsPerWord (cvtDst f)
  | .atom f | .atoms f => Fields_aop f == 9
  | _ => false

/-- W is a result predicate. -/
def wIsResult : Instr → Bool
  | .ld _ | .ldr _ | .lds _ | .shfl _ | .qpush _ | .qpop _ | .kvld _ | .vqscore _ => true
  | _ => false

/-- The code of a register that lookahead and interlock know (R205). -/
def Operand.owedCode : Operand → Option Nat
  | .vreg n => some n
  | .sreg n => some (0x100 + n)
  | .pred n => some (0x200 + n)
  | .shape n => some (0x236 + n)
  | _ => none

/-- The register codes that an operand field names, with the registers of a group (R281, R306, R329). -/
def namedCodes (g : Sig) (f : Fields) (field : Nat) : List Nat :=
  ((g.named f).filter (fun x => x.1 == field)).filterMap (fun x => x.2.owedCode)

/-- Z is a destination (R261). -/
def zIsResult : Instr → Bool
  | .quant _ => true
  | _ => false

/-- Registers read and registers written. BNDGET and BNDTOP touch the jamb of x alone (R231, R232). -/
def touches (i : Instr) (g : Sig) (f : Fields) : List Nat × List Nat :=
  let guard := if f.g == 15 then [] else [0x200 + f.g.toNat]
  match i with
  | .bndget _ => (guard, namedCodes g f 1)
  | .bndtop _ => ([], [])
  | _ =>
    let x := namedCodes g f 1
    let y := namedCodes g f 2
    let z := namedCodes g f 3
    let w := namedCodes g f 4
    let kvPred := match i with
      | .kvld _ | .vqscore _ => if bits f.immN 13 10 = 15 then [] else [0x200 + bits f.immN 13 10]
      | _ => []
    let nbPred := match i with
      | .abwait _ => if f.modN = 1 then [f.xN] else []
      | _ => []
    ((if xIsSource i || xIsBoth i then x else []) ++ y ++ (if zIsResult i then [] else z)
       ++ (if wIsResult i then [] else w) ++ guard,
     (if xIsSource i then [] else x) ++ (if zIsResult i then z else []) ++ (if wIsResult i then w else [])
       ++ kvPred ++ nbPred)

/-- A signature with the registers that a QPUSH or QPOP names for the entry size of its queue (R306). -/
def State.sized (s : State) (a : Actor) (w : Weave) (i : Instr) (g : Sig) : Sig :=
  let group := fun (field : Nat) (port o : Operand) =>
    match port with
    | .port n =>
      let d := match s.portDescriptor w.id.ctx n with
        | some d => d
        | none =>
          let arrived := ((s.path? a).map (fun (q : Path) => q.fetched)).getD []
          ((arrived.find? (fun x => x.1 == loadKey (s.portEntry w.id.ctx n % 2 ^ 72) 64)).map (fun x => ofBytes x.2)).getD 0
      { g with more := fun _ =>
        groupRest field o (if qEsz d < 3 || 4 < qEsz d then 1 else if o.isV then 2 ^ (qEsz d - 2) else 2 ^ (qEsz d - 3)) }
    | _ => g
  match i with
  | .qpush f => group 2 f.xOp f.yOp
  | .qpop f => group 1 f.yOp f.xOp
  | _ => g

/-- R338: a hinge core's forms name scalar registers and immediates only. -/
def hingeDefect (g : Sig) (f : Fields) : Option Defect :=
  match (g.uses f).find? (fun (_, u, c) =>
      match u with
      | .operand _ =>
        match Operand.ofCode c with
        | .vreg _ | .vz | .pred _ | .areg _ | .port _ | .dc _ | .shape _ => true
        | _ => false
      | _ => false) with
  | some (n, _, c) => some (.operandClass n c)
  | none => if f.g == 15 then none else some (.operandClass 0 (0x200 + f.g.toNat))

/-! ### Stops of a path as a whole -/

/-- The whole path stops before any effect (R210, R402). A group 7 check comes before the end of a step, which it takes away
(R412). -/
def State.trapPath (s : State) (a : Actor) (c : Cause) (detail : BitVec 96) (next : VAddr) : State :=
  let t := s.takeStop a c detail { kind := 0, next, resumesNext := false, captured := none } [] none true
  if c.group = 7 then t.modifyPath a (fun q => { q with stepping := 0 }) else t

/-- A halt for the debugger (R246, R412, R464): the path becomes HALTED and its stop is raised. -/
def State.haltPath (s : State) (a : Actor) (index tag : Nat) (pf atNext : Bool) (next : VAddr) : State :=
  match s.weave? a.core a.slot, s.path? a with
  | some w, some q =>
    let was := match q.cond with
      | .parked k => some k
      | _ => none
    let batches := match q.cond with
      | .blocked (.batches op _) => some op
      | _ => none
    let detail := BitVec.ofNat 96 (tag % 256 + bit01 pf * 2 ^ 8 + bit01 w.slicePending * 2 ^ 9)
    let s := s.modifyPath a (fun q => { q with
      cond := .halted { cause := cause 16 index, next, atNext, parked := was, token := 0, detail, batches }
      haltRequest := false, stepping := 0 })
    s.raiseStop a.core {
      slot := a.slot, path := a.path, weave := w.id, cause := cause 16 index, detail
      token := 0, lgrp := (LaneMask.lowGroup q.mask).1, lanes := (LaneMask.lowGroup q.mask).2, whole := true
      pf, pc := q.pc }
  | _, _ => s

/-! ### Issue -/

/-- How many operations a counter counts. -/
def Path.counted (p : Path) (i : Nat) : Nat := ((p.counters[i]?).getD []).length

/-- An instruction may not issue yet: a counter named by WAIT is above its wait level (R203). -/
def waitsOnCounter (w : Weave) (p : Path) (f : Fields) : Bool :=
  (List.range 6).any (fun i => bitAt f.waitMask i && bits w.mode.toNat (6 * i + 11) (6 * i + 6) < p.counted i)

/-- An instruction that would take its SET counter beyond 63 waits, when some lane acts (R14, R203). -/
def Env.counterFull (e : Env) : Bool :=
  e.acting != 0 && 1 ≤ e.f.setN && e.f.setN ≤ 6 && 63 ≤ e.p.counted (e.f.setN - 1)

/-- Owed writes to touched registers beyond the path's windows: local ones complete now, as if the wait were over
(R205); a remote one keeps the path waiting. Answers the weave, or none to wait. -/
def settleOwed (w : Weave) (p : Path) (codes : List Nat) : Option Weave :=
  let open_ := p.windows.map (fun x => x.op)
  let due := w.ops.filter (fun o => !open_.contains o.id && o.writes.any (fun x => codes.contains x.code))
  if due.any (fun o => match o.kind with
      | .remote => true
      | _ => false) then none
  else some (due.foldl (fun w o => w.completeOp o.id) w)

/-- R228: the shift that LEA reads from a scalar register, where it is above 31 with a 32-bit destination. One that is
still owed beyond the path's windows is judged once it is written. -/
def shiftDefect (w : Weave) (p : Path) (serial : Nat) (i : Instr) : Option Defect :=
  match i with
  | .lea f =>
    (match f.wOp with
    | .sreg n =>
      (match settleOwed w p [0x100 + n] with
      | some w =>
        let v := match p.captured with
          | some c => (c.sregs[n]?).getD 0
          | none => w.seenScalar serial n
        if !f.xOp.isS && 31 < v.toNat % 64 then some (.fieldReserved 4 f.wN) else none
      | none => none)
    | _ => none)
  | _ => none

/-- The first of the group 7 defects of a word where it issues, in the order of R210, a hinge core's among them (R338). -/
def issueDefect (s : State) (a : Actor) (w : Weave) (p : Path) (i : Instr) (g : Sig) (f : Fields) : Option Defect :=
  let hinge := if a.isHinge then hingeDefect g f else none
  let shift := shiftDefect w p s.serial i
  match firstDefect i s.present w.vregs.length w.scount w.acount with
  | some d => if d.index < 4 then some d else hinge <|> (if d.index ≤ 7 then some d else shift <|> some d)
  | none => hinge <|> shift

/-- R206: the first open window whose operation's destinations the instruction touches, whether it has completed or
not: index, window and code. -/
def windowViolation (p : Path) (reads writes : List Nat) : Option (Nat × Window × Nat) :=
  p.windows.findSome? (fun x =>
    match reads.find? x.dests.contains, writes.find? x.dests.contains with
    | some c, _ => some (0, x, c)
    | none, some c => some (1, x, c)
    | none, none => none)

/-- Jambs of the destinations updated at issue (R43). -/
def applyJambs (w : Weave) (p : Nat) (guarded : Bool) (js : List (Nat × Jamb)) : Weave :=
  js.foldl (fun w x => w.writeJamb p x.1 x.2 guarded) w

/-- The next word has been issued: windows count it (R205). -/
def Path.countIssue (q : Path) : Path :=
  { q with windows := (q.windows.map (fun x => { x with left := x.left - 1 })).filter (fun x => x.left != 0) }

/-- A path after an instruction that is done: READY at `pc`, no captured operands. -/
def Path.goOn (q : Path) (pc : VAddr) : Path := 
  { q with pc, pastEnd := q.runsOff pc, cond := .ready, captured := none, replayMask := none, fetched := [] }

/-- YIELD passes the turn as HINT.YLD does (R202, R304). -/
def yields : Instr → Bool
  | .yieldTurn _ => true
  | _ => false

/-- A path after its issue `serial`: rotation (R34) and, for a long-latency instruction that went on, a new lookahead
window over its destinations (R205). -/
def Path.stamp (q : Path) (i : Instr) (f : Fields) (serial tick : Nat) (pc : VAddr) (dests : List Nat) : Path :=
  { q with
    lastIssue := serial, readySince := tick, promoted := false, yielded := bitAt f.hintN 2 || yields i
    windows := if isLong i && f.la != 0 && !dests.isEmpty && (q.cond == .ready || q.cond == .blocked (.hold serial)) then
        q.windows ++ [{ op := serial, left := f.la, la := f.la, pc, dests }]
      else q.windows }

/-- Whether a path of a weave has parked since a state: the instruction's own faults, which come before a halt (R412). -/
def State.parkedSince (s before : State) (a : Actor) : Bool :=
  let parked := fun (s : State) (i : Nat) => (s.path? { a with path := i }).any (fun q => match q.cond with
    | .parked _ => true
    | _ => false)
  (List.range 8).any (fun i => parked s i && !parked before i)

/-- A step or a halt after an instruction (R345, R464): `pf` says that lanes of the path have parked with it, all of them when
the path itself has (R412). -/
def State.afterDebug (s : State) (a : Actor) (f : Fields) (serial stepping : Nat) (halt pf : Bool) : State :=
  match s.path? a with
  | none => s
  | some q =>
    let next := BitVec.ofNat 72 (q.pc.toNat + f.size)
    if halt then
      (match q.cond with
        | .ready | .parked _ => s.haltPath a 2 0 pf false next
        | _ => s)
    else if stepping = 0 then s
    else match q.cond with
      | .halted _ => s
      | .parked _ => s.haltPath a 1 0 pf false next
      | cond =>
        if stepping = 2 && q.issued.contains serial then
          (match cond with
            | .blocked (.batches ..) => s.modifyPath a (fun q => { q with stepping := 4 })
            | _ => s.modifyPath a (fun q => { q with cond := .blocked (.hold serial), stepping := 3 }))
        else
          (match cond with
            | .ready => s.haltPath a 1 0 pf false next
            | .blocked (.batches _ after) => s.haltPath a 1 0 pf true after
            | _ => s.modifyPath a (fun q => { q with stepping := 3 }))

/-- A path stopped whole by an instruction that has come as far as its own faults: a halt or the end of a step makes it HALTED
(R412). -/
def State.trapIssued (s : State) (a : Actor) (q : Path) (f : Fields) (c : Cause) (detail : BitVec 96) (next : VAddr) : State :=
  let t := s.trapPath a c detail next
  if c.group = 7 then t else t.afterDebug a f s.serial q.stepping q.haltRequest true

/-- What follows an instruction. -/
def State.afterIssue (s : State) (a : Actor) (i : Instr) (f : Fields) (serial : Nat) (pc : VAddr) (dests : List Nat)
    (stepping : Nat) (halt pf : Bool) : State :=
  let tick := s.tick
  (s.modifyPath a (fun q => q.stamp i f serial tick pc dests)).afterDebug a f serial stepping halt pf

/-- The issuing instruction with what it reads: its weave and path with the windows counted, the lanes it acts in
(R201), the wide operand (R198), and the random bits of R130. -/
def issueEnv (i : Instr) (g : Sig) (f : Fields) (s : State) (w : Weave) (q : Path) : Env :=
  let guardBits := w.seenPred s.serial f.g.toNat
  { s := { s.setWeave s.cur.core s.cur.slot w with serial := s.serial + 1 }
    a := s.cur
    w
    p := q
    f
    i
    wide := match f.lit with
      | some l => signed 64 (l.toNat % 2 ^ 64)
      | none => match g.imm with
        | .free => signed 24 f.immN
        | .fields _ => 0
    next := BitVec.ofNat 72 (q.pc.toNat + f.size)
    acting := q.mask &&& (if f.neg then ~~~guardBits else guardBits) &&& (q.replayMask.getD (BitVec.allOnes 1024))
    serial := s.serial
    rng := match q.captured with
      | some c => c.rng
      | none => w.rng
    guarded := !f.unguarded || isLong i
    dests := (touches i g f).2 }

/-- The checks of an issue in R210's order, with WAIT and SET, privilege, lookahead and interlock: the outcome of an
issue that goes no further, or the instruction with what it reads. -/
def issueGate (i : Instr) (s : State) : Except (Host.Outcome State Fault Refusal) Env :=
  let a := s.cur
  match sigOf i, s.weave? a.core a.slot, s.path? a with
  | some (g, f), some w, some p =>
    let ready := match p.cond with
      | .ready | .blocked (.stall _) => true
      | _ => false
    let next := BitVec.ofNat 72 (p.pc.toNat + f.size)
    let issued := p.held.isSome && p.cond != .ready
    let waits := fun (n : Nat) => Except.error (.next (s.modifyPath a (fun q => { q with cond := .blocked (.stall n), held := none })))
    if !ready then .error (.fault .noPath)
    else if p.haltRequest && !Config.haltLate s.serial then .error (.next (s.haltPath a 2 0 false false next))
    else match (if issued then none else issueDefect s a w p i g f) with
    | some d => .error (.next (s.trapPath a { group := 7, index := d.index } d.detail next))
    | none =>
    if waitsOnCounter w p f then waits 0
    else if g.privileged && !a.isHinge then .error (.next (s.trapIssued a p f (cause 8 0) (privDetail i 0) next))
    else
      let g := s.sized a w i g
      let (reads, writes) := touches i g f
      match (if bitAt w.mode.toNat 2 then windowViolation p reads writes else none) with
      | some (ix, x, c) =>
        .error (.next (s.trapIssued a p f (cause 18 ix)
          (BitVec.ofNat 96 (x.pc.toNat + x.la * 2 ^ 72 + c * 2 ^ 76)) next))
      | none =>
      match settleOwed w p (reads ++ writes) with
      | none => waits 1
      | some w =>
        let w := w.modifyPath a.path Path.countIssue
        match w.path? a.path with
        | none => .error (.fault .noPath)
        | some q =>
          let e := issueEnv i g f s w q
          if e.counterFull then waits 12
          else .ok e
  | _, _, _ => .error (.fault .noPath)

/-- When the instruction issued: with this attempt, or where it waits since (R11). -/
def Env.issuedAt (e : Env) : Nat := if e.p.cond != .ready && e.p.held.isSome then e.p.waitSince else e.serial

/-- An instruction that is done: its path goes on to next unless the effect has moved it, and what follows an issue. -/
def Env.finish (e : Env) (s : State) (moved pf : Bool) : State :=
  let s := if moved then s else s.modifyPath e.a (fun q => q.goOn e.next)
  s.afterIssue e.a e.i e.f e.serial e.p.pc (if e.acting = 0 then [] else e.dests) e.p.stepping e.p.haltRequest pf

/-- The lanes of a path as a state holds them. -/
def State.laneMask? (s : State) (a : Actor) : Option LaneMask := (s.path? a).map (fun q => q.mask)

/-- The effect of an instruction that has passed the checks: none without an acting lane (R201), the role's check
(R36), then the form's own. `s` is the state before the issue, which a trap returns to. An instruction that waits has
issued: it goes on with the scalar and array registers it has read, and is not fetched or judged again (R11, R233, R363). -/
def issueEffect (form : Form) (e : Env) (s : State) : Host.Outcome State Fault Refusal :=
  if e.acting = 0 then
    .next (e.finish (e.put e.s (applyJambs e.w e.a.path true (form.jambs e))) false false)
  else if !roleAllows e.w.role form.engine then
    .next (s.trapIssued e.a e.p e.f (cause 8 1) (privDetail e.i e.w.role) e.next)
  else match form.body e with
    | .done t =>
      .next (e.finish (t.modifyWeave e.a.core e.a.slot (fun w => applyJambs w e.a.path e.guarded (form.jambs e))) false
        (t.laneMask? e.a != some e.p.mask))
    | .moved t => .next (e.finish t true (t.parkedSince s e.a))
    | .trap c d => .next (s.trapIssued e.a e.p e.f c d e.next)
    | .wait t wt =>
      let windows := match s.path? e.a with
        | some q => q.windows
        | none => []
      .next (t.modifyPath e.a (fun q => { q with
        cond := .blocked wt, windows, captured := some e.capture, waitSince := e.issuedAt, held := some e.i }))
    | .stop x => .fault x

/-- One instruction of a path: the checks of its issue, then its effect. -/
def issue (i : Instr) (form : Form) (s : State) : Host.Outcome State Fault Refusal :=
  match issueGate i s with
  | .error r => r
  | .ok e => issueEffect form e s

end Sys2Proof.Machine
end

