-- ==== Sys2Proof/Machine/Translate.lean ====
section
/-! DEFINITION. Translation: permissions (R384), the frame table (R394), TLBs (R385, R386) and the tiers (R389). A hinge
core's addresses are physical (log 8). -/

namespace Sys2Proof.Machine

/-! ### Permissions -/

/-- What an access needs (R384). `device`: the Transom's own. `status`: POISON is a status and no fault (R382). `ahead`: the
shape-record engine's, through the walk-ahead TLB (R145, R173). -/
structure Need where
  r : Bool := false
  w : Bool := false
  x : Bool := false
  device : Bool := false
  status : Bool := false
  ahead : Bool := false
deriving DecidableEq, Repr

def needRead : Need := { r := true }
def needWrite : Need := { w := true }
def needBoth : Need := { r := true, w := true }
def needFetch : Need := { x := true }

/-- R384's fault. -/
def Leaf.denies (l : Leaf) (n : Need) : Option Cause :=
  if !l.user && !n.device then some (cause 2 3)
  else if n.r && !l.r then some (cause 2 0)
  else if n.w && !l.w then some (cause 2 1)
  else if n.x && !l.x then some (cause 2 2)
  else none

/-! ### Frames (R394) -/

/-- The key of a page's frame: HBM and CXL frames by PA[51:16], flash slots above them. -/
def frameKey (tier frame : Nat) : Nat := if tier = 2 then 2 ^ 36 + frame else frame

def State.frame (s : State) (key : Nat) : Frame := (Table.find? s.frames key).getD Frame.reset

def State.setFrame (s : State) (key : Nat) (f : Frame) : State := { s with frames := Table.set s.frames key f }

/-- A memory without the bytes of a range. -/
def Memory.clear (m : Memory) (base n : Nat) : Memory := m.filter (fun c => c.1 < base || base + n ≤ c.1)

/-- A cache without the lines of a range. -/
def dropLines (t : Table CacheLine) (base n : Nat) : Table CacheLine :=
  t.filter (fun l => l.1 * 128 + 128 ≤ base || base + n ≤ l.1 * 128)

/-- Every cached copy of a range dropped. -/
def State.dropCached (s : State) (base n : Nat) : State :=
  { s with
    cores := s.cores.map (fun (c, k) => (c, { k with l1 := dropLines k.l1 base n }))
    dies := s.dies.map (fun (d, k) => (d, { k with l2 := dropLines k.l2 base n })) }

/-- A frame of HBM or CXL memory zeroed by the Transom. -/
def State.zeroFrame (s : State) (frame : Nat) : State :=
  let base := frame * 65536
  { s.dropCached base 65536 with
    mem := s.mem.clear base 65536
    spoiled := s.spoiled.filter (fun x => x < base || base + 65536 ≤ x) }

/-- A flash slot's bytes, 64 KiB for each slot. -/
def State.zeroSlot (s : State) (slot : Nat) : State :=
  { s with flash := s.flash.clear (slot * 65536) 65536, integrity := Table.set s.integrity slot { crc := 0, itag := 0, blank := true } }

/-- R394 for the frame of a leaf: a FREE one is zeroed and taken; answers whether the context may use it. -/
def State.claimFrame (s : State) (ctx tier frame : Nat) : State × Bool :=
  let k := frameKey tier frame
  let f := s.frame k
  if f.free then
    let s := if tier = 2 then s.zeroSlot frame else s.zeroFrame frame
    (s.setFrame k { shared := f.shared, free := false, owner := ctx }, true)
  else (s, f.shared || f.owner == ctx)

/-! ### TLBs (R385, R386) -/

def TlbEntry.covers (e : TlbEntry) (ctx va : Nat) : Bool := e.ctx == ctx && e.base ≤ va && va < e.base + e.size

def findTlb (t : List TlbEntry) (ctx va : Nat) : Option TlbEntry := t.find? (fun e => e.covers ctx va)

/-- A TLB with an entry put first, at most `n` entries. -/
def putTlb (n : Nat) (t : List TlbEntry) (e : TlbEntry) : List TlbEntry :=
  (e :: t.filter (fun x => !(x.ctx == e.ctx && x.base == e.base && x.size == e.size))).take n

/-- A TLB without what covers an address. -/
def dropTlb (t : List TlbEntry) (ctx va : Nat) : List TlbEntry := t.filter (fun e => !e.covers ctx va)

def State.quadTlb (s : State) (c : Nat) : List TlbEntry := (Table.find? s.quadTlbs (quadOf c)).getD []

/-- A pointer entry, which only the L3 TLB caches. -/
def TlbEntry.isPointer (e : TlbEntry) : Bool := !e.sub && bits e.entry.toNat 10 9 == 0

/-- The translation that a TLB of the core, its quad's or its die's holds. -/
def State.cachedLeaf (s : State) (c ctx va : Nat) (ahead : Bool) : Option TlbEntry :=
  let k := s.core c
  findTlb (if ahead then k.walkAhead else k.tlb) ctx va <|> findTlb (s.quadTlb c) ctx va
    <|> findTlb ((s.die (dieOf c)).l3.filter (fun e => !e.isPointer)) ctx va

/-- A translation put into the TLBs that its access went through. -/
def State.fillTlbs (s : State) (c : Nat) (ahead : Bool) (e : TlbEntry) : State :=
  let s := s.modifyCore c (fun k =>
    if ahead then { k with walkAhead := putTlb 128 k.walkAhead e } else { k with tlb := putTlb 512 k.tlb e })
  let s := { s with quadTlbs := Table.set s.quadTlbs (quadOf c) (putTlb 4096 (s.quadTlb c) e) }
  s.modifyDie (dieOf c) (fun d => { d with l3 := putTlb 16384 d.l3 e })

/-- Pointer entries put into the die's L3 TLB. -/
def State.fillPointers (s : State) (c : Nat) (es : List TlbEntry) : State :=
  s.modifyDie (dieOf c) (fun d => { d with l3 := es.foldl (putTlb 16384) d.l3 })

/-- Where a walk of core `c` begins: at the root, or at the lowest node to which its L3 TLB holds the pointer; the levels
below it, and the node. -/
def State.walkStart (s : State) (c ctx va : Nat) : List Nat × Nat :=
  let held := (s.die (dieOf c)).l3.filter (fun e => e.isPointer && e.covers ctx va)
  match held with
  | [] => (levelShifts, s.ctxRoot ctx)
  | x :: l =>
    let p := l.foldl (fun (best : TlbEntry) y => if y.size < best.size then y else best) x
    (levelShifts.filter (fun sh => 2 ^ sh < p.size), bits p.entry.toNat 55 20 * 65536)

/-- The walk of core `c`, and the pointer entries that it follows. -/
def State.walkFrom (s : State) (c ctx va : Nat) : Walk :=
  let (levels, node) := s.walkStart c ctx va
  walkLevels s va levels node

def State.pointersFrom (s : State) (c ctx va : Nat) : List TlbEntry :=
  let (levels, node) := s.walkStart c ctx va
  walkPointers s ctx va levels node

/-- R386: a fault drops the translation, so that the replay walks. -/
def State.dropTlbs (s : State) (c ctx va : Nat) : State :=
  let s := s.modifyCore c (fun k => { k with
    tlb := dropTlb k.tlb ctx va, walkAhead := dropTlb k.walkAhead ctx va })
  let s := { s with quadTlbs := Table.set s.quadTlbs (quadOf c) (dropTlb (s.quadTlb c) ctx va) }
  s.modifyDie (dieOf c) (fun d => { d with l3 := dropTlb d.l3 ctx va })

/-- Every translation that `hit` picks removed from every TLB of the module, and the walks in progress discarded that could
install one (R342). -/
def State.purgeTlbs (s : State) (hit : TlbEntry → Bool) : State :=
  let keep := fun (t : List TlbEntry) => t.filter (fun e => !hit e)
  { s with
    walks := s.walks.filter (fun x => !hit { ctx := x.ctx, base := x.page * 65536, size := 65536, entry := 0, sub := false })
    cores := s.cores.map (fun (c, k) => (c, { k with tlb := keep k.tlb, walkAhead := keep k.walkAhead }))
    quadTlbs := s.quadTlbs.map (fun (q, t) => (q, keep t))
    dies := s.dies.map (fun (d, k) => (d, { k with l3 := keep k.l3 })) }

/-- TLBINV.VA of one page (R341, R391). -/
def State.purgePage (s : State) (ctx va : Nat) : State :=
  let base := va - va % 65536
  s.purgeTlbs (fun e => e.ctx == ctx && e.base < base + 65536 && base < e.base + e.size)

/-! ### Translation of an access -/

/-- The outcome of translating one access. `busy`: a walk waits for a node (R382, check 5). `nowhere`: a hinge core's
address at which nothing lies. -/
inductive Xlate where
  | phys (pa : Nat)
  | remote (module ctx : Nat)
  | fault (c : Cause) (va : Nat)
  | busy
  | nowhere (a : Nat)
deriving DecidableEq, Repr

/-- A promotion is bringing a page up, or is to do so. -/
def State.bringingUp (s : State) (ctx va : Nat) : Bool :=
  s.planned.any (fun p => p.ctx == ctx && p.va == va && (p.toTier == 0 || p.through))
    || s.moves.any (fun m => m.ctx == ctx && m.va == va && (m.toTier == 0 || m.through))

/-- A page is to be promoted to HBM of a die (R182, R389): one promotion for a page, which comes after a move down that is
in progress and in place of one that has not begun (R188). -/
def State.planPromotion (s : State) (ctx va die : Nat) : State :=
  let base := va - va % 65536
  if s.bringingUp ctx base then s
  else { s with planned := s.planned.filter (fun p => !(p.ctx == ctx && p.va == base)) ++ [
    { ctx, va := base, toTier := 0, die, through := false, stack := none : PlannedMove }] }

/-- Checks 7 to 12 of R382 on a leaf. -/
def State.accept (s : State) (die ctx va : Nat) (n : Need) (l : Leaf) (sub : Bool) (size : Nat) : State × Xlate :=
  if l.frameBad sub size then (s, .fault (cause 1 3) va)
  else if l.w && l.x then (s, .fault (cause 2 4) va)
  else match l.denies n with
    | some c => (s, .fault c va)
    | none =>
      let pa := l.pa sub size va
      let (s, owned) := if sub || l.tier = 3 then (s, true)
        else s.claimFrame ctx l.tier (if l.tier = 2 then l.frame else pa / 65536)
      if !owned then (s, .fault (cause 2 5) va)
      else if l.poison then (s, .fault (cause 20 0) va)
      else if l.migr then (s, .fault tierWait va)
      else if l.tier = 2 then (s.planPromotion ctx va die, .fault tierWait va)
      else if l.tier = 3 then (s, .remote (l.frame % 2 ^ 12) (bits l.frame 17 12))
      else (s, .phys pa)

/-! ### Walks that wait (R382) -/

/-- 64 µs of sr_tick (R4). -/
def walkLimit : Nat := 64 * 2100

def WalkWait.isFor (x : WalkWait) (c ctx va : Nat) : Bool := x.core == c && x.ctx == ctx && x.page == va / 65536

/-- A walk that ends waits no longer. -/
def State.walkOver (s : State) (c ctx va : Nat) : State :=
  if s.walks.any (fun x => x.isFor c ctx va) then { s with walks := s.walks.filter (fun x => !x.isFor c ctx va) } else s

/-- A walk meets a node with MIGR = 1: it waits, and after 64 µs it fails with TABLE_NODE_BUSY at the node's address. Walks
of one agent to one page are one walk (log 17). -/
def State.walkBusy (s : State) (c ctx va node : Nat) : State × Xlate :=
  match s.walks.find? (fun x => x.isFor c ctx va) with
  | none => ({ s with walks := s.walks ++ [{ core := c, ctx, page := va / 65536, since := s.tick }] }, .busy)
  | some x => if x.since + walkLimit ≤ s.tick then (s.walkOver c ctx va, .fault (cause 1 2) node) else (s, .busy)

/-- Whether a TLB may keep the translation that an access found: it faulted on nothing (R385, R386). -/
def Xlate.kept (n : Need) (migr : Bool) : Xlate → Bool
  | .phys _ | .remote .. => true
  | .fault c _ => n.status && c == cause 20 0 && !migr
  | _ => false

/-- A fresh walk for core `c`. -/
def State.freshWalk (s : State) (c ctx va : Nat) (n : Need) : State × Xlate :=
  match s.walkFrom c ctx va with
  | .fault f v => ((s.walkOver c ctx va).dropTlbs c ctx va, .fault f v)
  | .busy node => s.walkBusy c ctx va node
  | .leaf e at_ size sub =>
    let l := Leaf.of e sub
    let (t, r) := (s.walkOver c ctx va).accept (dieOf c) ctx va n l sub size
    if !r.kept n l.migr then (t.dropTlbs c ctx va, r)
    else
      let entry : TlbEntry := match if sub || size != 65536 then none else s.contiguous at_ e with
        | some first => { ctx, base := va - va % 2 ^ 21, size := 2 ^ 21, entry := BitVec.ofNat 64 first, sub }
        | none => { ctx, base := va - va % size, size, entry := BitVec.ofNat 64 e, sub }
      ((t.fillPointers c (s.pointersFrom c ctx va)).fillTlbs c n.ahead entry, r)

/-- Translation for an access of core `c` in a context. -/
def State.translate (s : State) (c ctx va : Nat) (n : Need) : State × Xlate :=
  match s.cachedLeaf c ctx va n.ahead with
  | none => s.freshWalk c ctx va n
  | some t =>
    let l := Leaf.of t.entry.toNat t.sub
    let (s, r) := s.accept (dieOf c) ctx va n l t.sub t.size
    if !r.kept n l.migr then (s.dropTlbs c ctx va, r)
    else if (findTlb (if n.ahead then (s.core c).walkAhead else (s.core c).tlb) ctx va).isSome then (s, r)
    else (s.fillTlbs c n.ahead t, r)

/-- Translation for the issuing actor: a hinge core's address is physical. -/
def State.translateFor (s : State) (a : Actor) (ctx va : Nat) (n : Need) : State × Xlate :=
  if a.isHinge then (s, if physExists va then .phys va else .nowhere va)
  else s.translate a.core ctx va n

/-- The number of an agent of a die that has no TLB. -/
def agentOf (die : Nat) : Nat := 1024 + die

/-- A read by an agent that has no TLB and takes no fault (R190, R429): where an address lies, when it is mapped,
readable with USER, not poisoned, and in tier 0 or 1; else the cause. -/
def State.agentRead (s : State) (die ctx va : Nat) (n : Need) : State × Xlate :=
  match s.walk ctx va with
  | .fault f v => (s.walkOver (agentOf die) ctx va, .fault f v)
  | .busy node => s.walkBusy (agentOf die) ctx va node
  | .leaf e _ size sub => (s.walkOver (agentOf die) ctx va).accept die ctx va n (Leaf.of e sub) sub size

/-- Whether a path parked for a tier may run again (R389, R391): its page is mapped and not moving, and either it is not in
flash, or it has gone there with no promotion asked for, so that the replay asks. -/
def State.landed (s : State) (ctx va : Nat) : Bool :=
  match s.walk ctx va with
  | .leaf e _ _ sub =>
    let l := Leaf.of e sub
    let base := va - va % 65536
    !l.migr && (l.tier != 2 || !(s.planned.any (fun p => p.ctx == ctx && p.va == base)))
  | .busy _ => false
  | .fault _ _ => true

end Sys2Proof.Machine
end

