-- ==== Sys2Proof/Machine/Farno.lean ====
section
/-! DEFINITION. Farno code (R351, R355, R356, R364): the ranges that hold it, the translated image cache, and the
translation that a path runs in. -/

namespace Sys2Proof.Machine

/-- Whether an address lies in a valid range of a context's table (R351, R434). -/
def State.inFarnoRange (s : State) (ctx va : Nat) : Bool :=
  let base := s.field (serviceBlock ctx) 207 168 * 4096
  (List.range 16).any (fun i =>
    let e := s.readHomeNat (base + 16 * i) 16
    bitAt e 120 && bits e 55 0 ≤ va / 65536 && va / 65536 ≤ bits e 111 56)

/-- The bytes of a section as the device reads them, page by page; none where one cannot be read. -/
def State.sectionBytes (s : State) (ctx base size : Nat) : State × Option (List Byte) :=
  (pieces 4096 base size).foldl (fun (acc : State × Option (List Byte)) x =>
    match acc.2 with
    | none => acc
    | some l =>
      match acc.1.agentRead 0 ctx x.1 needFetch with
      | (s, .phys pa) => (s.touch pa, some (l ++ s.mem.readBytes pa x.2))
      | (s, _) => (s, none)) (s, some [])

/-- The section has the bytes that a translation's key stands for. -/
def State.keyMatches (s : State) (t : Translation) : Bool :=
  match (s.sectionBytes t.ctx t.base t.size).2 with
  | some l => BitVec.ofNat 512 (ofBytes (sha512 l)) == t.key
  | none => false

/-- Every errata bit that a translation consulted has its recorded value. -/
def State.errataMatch (s : State) (t : Translation) : Bool :=
  t.errata.all (fun x => x.1 < 256 && s.errata.getLsbD x.1 == x.2)

/-- An entry of the cache can be entered: its key matches, bytes and present mask, and so does every errata bit (R364). -/
def State.translationUsable (s : State) (t : Translation) : Bool :=
  t.present == s.present && s.errataMatch t && s.keyMatches t

/-- A translation holds native code for an address. -/
def CachedTranslation.holds (t : CachedTranslation) (ctx pc : Nat) : Bool :=
  t.entry.ctx == ctx && t.entry.base ≤ pc && pc < t.entry.base + t.entry.size

/-- The translation that a path of a context runs in; none: it decodes directly. One that has been removed from the cache
is left at the path's next instruction, and so is one whose code the path has run off (R356, log 68). -/
def State.codeOf (s : State) (ctx : Nat) (q : Path) : Option CachedTranslation :=
  match q.code with
  | none => none
  | some id => s.translations.find? (fun t => t.id == id && t.holds ctx q.pc.toNat)

/-- A path whose translation has no native counterpart for its PC goes on in direct decode (R355). -/
def State.leaveCode (s : State) (a : Actor) : State :=
  match s.weave? a.core a.slot, s.path? a with
  | some w, some q =>
    if q.code.isSome && (s.codeOf w.id.ctx q).isNone then s.modifyPath a (fun q => { q with code := none }) else s
  | _, _ => s

/-- A safe point of a path that is its weave's only live one (R355): it enters the usable entry for its PC, and with none
stays as it is. -/
def State.enterCode (s : State) (a : Actor) : State :=
  match s.weave? a.core a.slot, s.path? a with
  | some w, some q =>
    if a.isHinge || w.livePaths != [a.path] then s
    else match s.translations.find? (fun t => t.holds w.id.ctx q.pc.toNat && s.translationUsable t.entry) with
      | some t => s.modifyPath a (fun q => { q with code := some t.id })
      | none => s
  | _, _ => s

/-- A branch taken from `pc`: a backward one is a safe point, to the branch itself or before it (R355, log 68). -/
def State.branched (s : State) (a : Actor) (pc : VAddr) : State :=
  let s := s.leaveCode a
  match s.path? a with
  | some q => if q.pc.toNat ≤ pc.toNat && !q.pastEnd then s.enterCode a else s
  | none => s

/-- Whether an invalidation meets a range of a context. -/
def CodePurge.meets (p : CodePurge) (ctx base size : Nat) : Bool :=
  match p.ctx with
  | none => true
  | some c => c == ctx && p.base < base + size && base < p.base + p.size

/-- One invalidation covers what another did. -/
def CodePurge.covers (p x : CodePurge) : Bool :=
  p.ctx.isNone || (p.ctx == x.ctx && p.base ≤ x.base && x.base + x.size ≤ p.base + p.size)

/-- Translations that `code` picks leave the cache. -/
def State.dropCode (s : State) (code : CachedTranslation → Bool) : State :=
  { s with translations := s.translations.filter (fun t => !code t) }

/-- The page-table entry that an address is translated by: its first byte and its size. -/
def State.entrySpan (s : State) (ctx va : Nat) : Nat × Nat :=
  match s.walk ctx va with
  | .leaf _ _ size _ => (va - va % size, size)
  | _ => (va - va % 65536, 65536)

/-- The entries that a section's bytes are read through. -/
def State.sectionSpans (s : State) (ctx base size : Nat) : List (Nat × Nat) :=
  (pieces 4096 base size).map (fun x => s.entrySpan ctx x.1)

/-- An invalidation of fetched bytes, against which builds in progress are held (R356): an older one that it covers goes. -/
def State.notePurge (s : State) (p : CodePurge) : State :=
  { s with purges := s.purges.filter (fun x => !p.covers x) ++ [p] }

/-- A build begun at a tick has met no invalidation of its section's bytes since. -/
def State.buildStands (s : State) (t : Translation) : Bool :=
  !s.purges.any (fun p => t.begun ≤ p.tick && p.meets t.ctx t.base t.size)

end Sys2Proof.Machine
end

