-- ==== Sys2Proof/Machine/Paths.lean ====
section
/-! DEFINITION. Splitting, reconvergence and merging of paths (R15 to R18, R236). -/

namespace Sys2Proof.Machine

/-- Lanes `t` go to the target and the others to next (R15). `refine` is applied to the weave after a split, with the
fall-through and the taken path (R49). A full stack traps with DEFER_OVERFLOW. Answers the weave and the path that
holds the lanes of `t`; `none` for the trap. -/
def Weave.branch (w : Weave) (p : Nat) (t : LaneMask) (target next : VAddr) (rid serial : Nat)
    (refine : Weave → Nat → Nat → Weave) : Option (Weave × Nat) :=
  match w.path? p with
  | none => none
  | some q =>
    let t := q.mask &&& t
    let f := q.mask &&& ~~~t
    if t = 0 then some (w.modifyPath p (fun q => q.goOn next), p)
    else if f = 0 then some (w.modifyPath p (fun q => q.goOn target), p)
    else if 16 ≤ q.stack.length then none
    else match w.freePath with
      | some n =>
        let e := StackEntry.split rid serial
        let q := { q with stack := e :: q.stack }
        let w := w.putPath p (some ({ q with mask := f }.goOn next))
        let w := w.putPath n (some ({ q with mask := t, haltRequest := false, stepping := 0 }.goOn target))
        some (refine w p n, n)
      | none =>
        let e := StackEntry.defer rid f next 0 false 0 0 w.youngest
        some (w.modifyPath p (fun q => { q with mask := t, stack := e :: q.stack }.goOn target), p)

/-- The identifier of a stack entry. -/
def StackEntry.rid : StackEntry → Nat
  | .split r _ => r
  | .defer r .. => r

/-- The trap of DEFER_OVERFLOW, RECONV_ORDER and RECONV_MISMATCH (R401): group 9 with the address and rid. -/
def pathTrap (index : Nat) (pc : VAddr) (rid : Nat) : Effect := .trap (cause 9 index) (syncDetail pc.toNat rid)

/-- RECONV rid on the top of the stack (R16). -/
def reconvEffect (e : Env) (rid : Nat) : Effect :=
  let put := fun (q : Path) => Effect.moved (e.put e.s (e.w.putPath e.a.path (some q)))
  let merge := fun (q : Path) => Effect.moved ((e.put e.s (e.w.putPath e.a.path (some q))).enterCode e.a)
  match e.p.stack with
  | [] => .done e.s
  | top :: rest =>
    if top.rid != rid then
      (if e.p.stack.any (fun x => x.rid == rid) then pathTrap 1 e.p.pc rid else .done e.s)
    else match top with
      | .split r serial =>
        -- R17: every arrival must be at the same RECONV
        let elsewhere := e.w.livePaths.any (fun i => match e.w.path? i with
          | some q => (match q.cond with
            | .arrived _ n _ => n == serial && q.pc != e.p.pc
            | _ => false)
          | none => false)
        if elsewhere then pathTrap 2 e.p.pc rid
        else put { e.p with cond := .arrived r serial e.next, captured := none, replayMask := none }
      | .defer r deferred resume merged arrived _ _ age =>
        if !arrived then
          put { (e.p.dropSince age).goOn resume with
            mask := deferred
            stack := .defer r 0 resume e.p.mask true e.p.pc e.next age :: rest }
        else
          merge { (e.p.dropSince age).goOn e.next with mask := merged ||| e.p.mask, stack := rest }

/-- Arrivals at a SPLIT entry. -/
def Weave.arrivals (w : Weave) (serial : Nat) : List Nat :=
  w.livePaths.filter (fun i => match w.path? i with
    | some q => (match q.cond with
      | .arrived _ n _ => n == serial
      | _ => false)
    | none => false)

/-- Whether the paths bearing a SPLIT entry merge now (R17): only arrivals bear it, and no union of counters exceeds
63. -/
def Weave.mayMerge (w : Weave) (serial : Nat) : Bool :=
  let arr := w.arrivals serial
  let bearers := w.livePaths.filter (fun i => match w.path? i with
    | some q => q.stack.any (fun e => match e with
      | .split _ n => n == serial
      | .defer .. => false)
    | none => false)
  let unions := (List.range 6).map (fun d =>
    (arr.flatMap (fun i => match w.path? i with
      | some q => (q.counters[d]?).getD []
      | none => [])).eraseDups.length)
  !arr.isEmpty && bearers.all arr.contains && unions.all (fun n => n ≤ 63)

/-- R17: the merge of the arrivals at a SPLIT entry. -/
def Weave.mergeAt (w : Weave) (serial : Nat) : Weave :=
  let arr := w.arrivals serial
  let qs := arr.filterMap w.path?
  match arr, qs with
  | m :: _, q :: _ =>
    let union := fun (f : Path → List Nat) => (qs.flatMap f).eraseDups
    let next := match q.cond with
      | .arrived _ _ n => n
      | _ => q.pc
    let windows := qs.flatMap (fun x => x.windows)
    let merged : Path := { q.goOn next with
      mask := qs.foldl (fun m x => m ||| x.mask) 0
      counters := (List.range 6).map (fun d => union (fun x => (x.counters[d]?).getD []))
      issued := union (fun x => x.issued)
      history := union (fun x => x.history)
      refinements := []
      stack := q.stack.drop 1
      windows := windows.foldl (fun l (x : Window) =>
        if l.any (fun y => y.op == x.op) then
          l.map (fun y => if y.op == x.op then { y with left := min y.left x.left } else y)
        else l ++ [x]) []
      haltRequest := qs.any (fun x => x.haltRequest) }
    let cleared := arr.foldl (fun w i => w.putPath i none) w
    (Weave.mergeJambs w arr m (cleared.putPath m (some merged))).handOver arr m
  | _, _ => w

end Sys2Proof.Machine
end

