-- ==== Sys2Proof/Machine/Integer.lean ====
section
/-! DEFINITION. Class 0: integer arithmetic, bit operations, shifts, fields and predicates (R217 to R229). -/

namespace Sys2Proof.Machine

/-! ### The shared shape of a class 0 form -/

/-- The jamb update of a destination: nothing for vz, predicates and special registers. -/
def dstJamb (o : Operand) (j : Jamb) : List (Nat × Jamb) :=
  match o with
  | .vreg n => [(n, j)]
  | .sreg n => [(0x100 + n, j)]
  | _ => []

/-- A form with a destination X and integer sources: `checked` sources are checked for I32, the destination takes
`tag`; `value` and `jamb` are given the width and the sources (R217, R218, R220). -/
def intForm (srcs : List (Fields → Operand)) (checked : Bool) (tag : Tag)
    (value : Fields → Nat → List Nat → Nat) (jamb : Fields → Nat → List Jamb → Jamb) : Form :=
  { jambs := fun e => dstJamb e.f.xOp (jamb e.f e.f.xOp.width (srcs.map (fun o => e.jambAt e.f.xOp.width (o e.f))))
    body := fun e =>
      let w := e.f.xOp.width
      match (if checked then e.tagsFail .i32 (srcs.map (fun o => o e.f)) else none) with
      | some t => t
      | none =>
        let out := e.writeDst e.w e.f.xOp (fun k => value e.f w (srcs.map (fun o => e.read w (o e.f) k)))
        .done (e.put e.s (out.tagDst e.f.xOp tag)) }

def srcY : List (Fields → Operand) := [Fields.yOp]
def srcYZ : List (Fields → Operand) := [Fields.yOp, Fields.zOp]
def srcYZW : List (Fields → Operand) := [Fields.yOp, Fields.zOp, Fields.wOp]

/-- The signed types of IT: .S32 and .S64 (R207). -/
def Fields.signedIt (f : Fields) : Bool := f.it % 2 == 0

/-- A source pattern as the number its type reads (R222). -/
def asNumber (isSigned : Bool) (w v : Nat) : Int := if isSigned then signed w v else (v : Int)

/-- R223: the exact result fitted to w bits. -/
def fit (r : Int) (w : Nat) (isSigned sat : Bool) : Nat :=
  if !sat then uwrap w r
  else if isSigned then uwrap w (clampInt r (minInt w) (maxInt w))
  else uwrap w (clampInt r 0 ((2 ^ w : Nat) - 1))

/-- An arithmetic form of R222: `exact` on unbounded integers, `hull` the interval of R47. -/
def arithForm (srcs : List (Fields → Operand)) (exact : List Int → Int) (hull : Nat → List Jamb → Int × Int) : Form :=
  intForm srcs true .i32
    (fun f w vs => fit (exact (vs.map (asNumber (Fields.signedIt f) w))) w (Fields.signedIt f) f.sat)
    (fun f w js => if f.sat then JambRule.sat w (Fields.signedIt f) js (hull w js)
      else Jamb.mk w (hull w js).1 (hull w js).2)

def arg (l : List Int) (i : Nat) : Int := (l[i]?).getD 0
def argN (l : List Nat) (i : Nat) : Nat := (l[i]?).getD 0
def argJ (l : List Jamb) (i : Nat) : Jamb := (l[i]?).getD .top

/-! ### Arithmetic (R222 to R224) -/

def execIadd (f : Fields) (s : State) : Host.Outcome State Fault Refusal :=
  issue (.iadd f) (arithForm srcYZ (fun l => arg l 0 + arg l 1) (fun w j => JambRule.add w (argJ j 0) (argJ j 1))) s

def execIsub (f : Fields) (s : State) : Host.Outcome State Fault Refusal :=
  issue (.isub f) (arithForm srcYZ (fun l => arg l 0 - arg l 1) (fun w j => JambRule.sub w (argJ j 0) (argJ j 1))) s

def execImul (f : Fields) (s : State) : Host.Outcome State Fault Refusal :=
  issue (.imul f) (arithForm srcYZ (fun l => arg l 0 * arg l 1) (fun w j => mulHull w (argJ j 0) (argJ j 1))) s

/-- IMULH: ⌊x · y ÷ 2^w⌋. -/
def execImulh (f : Fields) (s : State) : Host.Outcome State Fault Refusal :=
  issue (.imulh f) (intForm srcYZ true .i32
    (fun f w vs => uwrap w (floorShift
      (asNumber (Fields.signedIt f) w (argN vs 0) * asNumber (Fields.signedIt f) w (argN vs 1)) w))
    (fun f w j => JambRule.mulh w (Fields.signedIt f) (argJ j 0) (argJ j 1))) s

def execImad (f : Fields) (s : State) : Host.Outcome State Fault Refusal :=
  issue (.imad f) (arithForm srcYZW (fun l => arg l 0 * arg l 1 + arg l 2)
    (fun w j => JambRule.mad w (argJ j 0) (argJ j 1) (argJ j 2))) s

def execImin (f : Fields) (s : State) : Host.Outcome State Fault Refusal :=
  issue (.imin f) (intForm srcYZ true .i32
    (fun f w vs => uwrap w (min (asNumber (Fields.signedIt f) w (argN vs 0)) (asNumber (Fields.signedIt f) w (argN vs 1))))
    (fun f w j => JambRule.min2 w (Fields.signedIt f) (argJ j 0) (argJ j 1))) s

def execImax (f : Fields) (s : State) : Host.Outcome State Fault Refusal :=
  issue (.imax f) (intForm srcYZ true .i32
    (fun f w vs => uwrap w (max (asNumber (Fields.signedIt f) w (argN vs 0)) (asNumber (Fields.signedIt f) w (argN vs 1))))
    (fun f w j => JambRule.max2 w (Fields.signedIt f) (argJ j 0) (argJ j 1))) s

def execIabs (f : Fields) (s : State) : Host.Outcome State Fault Refusal :=
  issue (.iabs f) (arithForm srcY (fun l => (arg l 0).natAbs) (fun w j => JambRule.abs w (argJ j 0))) s

def execIneg (f : Fields) (s : State) : Host.Outcome State Fault Refusal :=
  issue (.ineg f) (arithForm srcY (fun l => -(arg l 0)) (fun w j => JambRule.neg w (argJ j 0))) s

/-! ### Compare and select (R225) -/

def icmpForm : Form :=
  { body := fun e =>
      let w := if e.f.it = 2 then 64 else 32
      match e.tagsFail .i32 [e.f.yOp, e.f.zOp] with
      | some t => t
      | none =>
        .done (e.put e.s (e.writeDst e.w e.f.xOp (fun k =>
          bit01 (condHolds w e.f.cond (e.read w e.f.yOp k) (e.read w e.f.zOp k))))) }

def execIcmp (f : Fields) (s : State) : Host.Outcome State Fault Refusal := issue (.icmp f) icmpForm s

/-- ISEL: a where ps is true, b where it is false. -/
def iselForm : Form :=
  { jambs := fun e => dstJamb e.f.xOp
      (Jamb.hull e.f.xOp.width (e.jambAt e.f.xOp.width e.f.yOp) (e.jambAt e.f.xOp.width e.f.zOp))
    body := fun e =>
      let w := e.f.xOp.width
      match e.tagsFail .i32 [e.f.yOp, e.f.zOp] with
      | some t => t
      | none =>
        let ps := e.predOf e.f.wOp
        .done (e.put e.s ((e.writeDst e.w e.f.xOp (fun k =>
          if ps.has k then e.read w e.f.yOp k else e.read w e.f.zOp k)).tagDst e.f.xOp .i32)) }

def execIsel (f : Fields) (s : State) : Host.Outcome State Fault Refusal := issue (.isel f) iselForm s

/-! ### Bitwise forms, shifts and ROT (R226) -/

def bitForm (srcs : List (Fields → Operand)) (value : Nat → List Nat → Nat) (jamb : Nat → List Jamb → Jamb) : Form :=
  intForm srcs false .untyped (fun _ w vs => value w vs) (fun _ w js => jamb w js)

/-- The ones' complement of a w-bit pattern. -/
def complement (w v : Nat) : Nat := 2 ^ w - 1 - v % 2 ^ w

def execAndB (f : Fields) (s : State) : Host.Outcome State Fault Refusal :=
  issue (.andB f) (bitForm srcYZ (fun _ v => argN v 0 &&& argN v 1) (fun w j => JambRule.and w (argJ j 0) (argJ j 1))) s

def execOrB (f : Fields) (s : State) : Host.Outcome State Fault Refusal :=
  issue (.orB f) (bitForm srcYZ (fun _ v => argN v 0 ||| argN v 1) (fun w j => JambRule.or w (argJ j 0) (argJ j 1))) s

def execXorB (f : Fields) (s : State) : Host.Outcome State Fault Refusal :=
  issue (.xorB f) (bitForm srcYZ (fun _ v => argN v 0 ^^^ argN v 1) (fun w j => JambRule.or w (argJ j 0) (argJ j 1))) s

def execAndn (f : Fields) (s : State) : Host.Outcome State Fault Refusal :=
  issue (.andn f) (bitForm srcYZ (fun w v => argN v 0 &&& complement w (argN v 1))
    (fun w j => JambRule.andn w (argJ j 0))) s

def execNotB (f : Fields) (s : State) : Host.Outcome State Fault Refusal :=
  issue (.notB f) (bitForm srcY (fun w v => complement w (argN v 0)) (fun w j => JambRule.not w (argJ j 0))) s

/-- The reduced count: its low 5 or 6 bits, read unsigned. -/
def shiftCount (w v : Nat) : Nat := v % w

def execShl (f : Fields) (s : State) : Host.Outcome State Fault Refusal :=
  issue (.shl f) (bitForm srcYZ (fun w v => argN v 0 * 2 ^ shiftCount w (argN v 1) % 2 ^ w)
    (fun w j => JambRule.shl w (argJ j 0) (argJ j 1))) s

def execShr (f : Fields) (s : State) : Host.Outcome State Fault Refusal :=
  issue (.shr f) (bitForm srcYZ (fun w v => argN v 0 / 2 ^ shiftCount w (argN v 1))
    (fun w j => JambRule.shr w (argJ j 0) (argJ j 1))) s

def execSar (f : Fields) (s : State) : Host.Outcome State Fault Refusal :=
  issue (.sar f) (bitForm srcYZ
    (fun w v => uwrap w (floorShift (signed w (argN v 0)) (shiftCount w (argN v 1))))
    (fun w j => JambRule.sar w (argJ j 0) (argJ j 1))) s

def execRot (f : Fields) (s : State) : Host.Outcome State Fault Refusal :=
  issue (.rot f) (bitForm srcYZ
    (fun w v =>
      let n := shiftCount w (argN v 1)
      argN v 0 * 2 ^ n % 2 ^ w + argN v 0 / 2 ^ (w - n))
    (fun w j => JambRule.rot w (argJ j 0) (argJ j 1))) s

/-! ### Fields and counts (R227) -/

/-- BFE of a w-bit pattern: start and length are the low 8 bits, a length above w acts as w. -/
def bfeValue (w : Nat) (isSigned : Bool) (a start len : Nat) : Nat :=
  let n := min (len % 256) w
  let f := a / 2 ^ (start % 256) % 2 ^ n
  if n = 0 then 0 else if isSigned then uwrap w (signed n f) else f

def execBfe (f : Fields) (s : State) : Host.Outcome State Fault Refusal :=
  issue (.bfe f) (intForm srcYZW false .i32
    (fun f w v => bfeValue w (Fields.signedIt f) (argN v 0) (argN v 1) (argN v 2))
    (fun f w j => JambRule.bfe w (Fields.signedIt f) (argJ j 2))) s

/-- BFI of `ins` into `d`. -/
def bfiValue (w d ins start len : Nat) : Nat :=
  let n := min (len % 256) w
  let st := start % 256
  let m := (2 ^ n - 1) * 2 ^ st % 2 ^ w
  (d &&& complement w m) ||| (ins * 2 ^ st &&& m)

def bfiForm : Form :=
  intForm ([Fields.xOp, Fields.yOp, Fields.zOp, Fields.wOp]) false .untyped
    (fun _ w v => bfiValue w (argN v 0) (argN v 1) (argN v 2) (argN v 3)) (fun _ _ _ => .top)

def execBfi (f : Fields) (s : State) : Host.Outcome State Fault Refusal := issue (.bfi f) bfiForm s

/-- The jamb [0, w] of POPC and CLZ. -/
def countJamb (w : Nat) : Jamb := Jamb.mk w 0 w

def execPopc (f : Fields) (s : State) : Host.Outcome State Fault Refusal :=
  issue (.popc f) (intForm srcY false .i32 (fun _ w v => popCount w (argN v 0)) (fun _ w _ => countJamb w)) s

def execClz (f : Fields) (s : State) : Host.Outcome State Fault Refusal :=
  issue (.clz f) (intForm srcY false .i32 (fun _ w v => w - bitLength w (argN v 0)) (fun _ w _ => countJamb w)) s

/-- Bit i at w − 1 − i. -/
def reverseBits (w v : Nat) : Nat :=
  (List.range w).foldl (fun a i => if bitAt v i then a + 2 ^ (w - 1 - i) else a) 0

def execBrev (f : Fields) (s : State) : Host.Outcome State Fault Refusal :=
  issue (.brev f) (bitForm srcY (fun w v => reverseBits w (argN v 0)) (fun _ _ => .top)) s

/-! ### LEA (R228; its shift is judged with the word) and PLOP (R229) -/

/-- LEA's jamb; every source is read at the destination's width (R217). -/
def leaJamb (e : Env) : Jamb :=
  let w := e.f.xOp.width
  JambRule.lea w (e.jambAt w e.f.yOp) (e.jambAt w e.f.zOp) (e.jambAt w e.f.wOp) w

def leaForm : Form :=
  { jambs := fun e => dstJamb e.f.xOp (leaJamb e)
    body := fun e =>
      let w := e.f.xOp.width
      let n := e.scalar e.f.wOp % 64
      match e.tagsFail .i32 [e.f.yOp, e.f.zOp] with
        | some t => t
        | none =>
          .done (e.put e.s ((e.writeDst e.w e.f.xOp (fun k =>
            uwrap w (e.readInt w e.f.yOp k + e.readInt w e.f.zOp k * (2 ^ n : Nat)))).tagDst e.f.xOp .i32)) }

def execLea (f : Fields) (s : State) : Host.Outcome State Fault Refusal := issue (.lea f) leaForm s

def plopForm : Form :=
  { body := fun e =>
      let a := e.predOf e.f.yOp
      let b := e.predOf e.f.zOp
      let c := e.predOf e.f.wOp
      .done (e.put e.s (e.writeDst e.w e.f.xOp (fun k =>
        bit01 (bitAt e.f.immN (4 * bit01 (a.has k) + 2 * bit01 (b.has k) + bit01 (c.has k)))))) }

def execPlop (f : Fields) (s : State) : Host.Outcome State Fault Refusal := issue (.plop f) plopForm s

end Sys2Proof.Machine
end

