-- ==== Sys2Proof/Machine/Numeric.lean ====
section
/-! DEFINITION. Number formats, values and rounding (R115 to R130): exact dyadic values, and one rounding of a ratio
to a format. -/

namespace Sys2Proof.Machine

/-! ### Formats (R115) -/

/-- How a format spends its top exponent: infinities and NaNs, E4M3's single NaN, or neither. -/
inductive TopCode where
  | ieee | e4m3 | finite
deriving DecidableEq, Repr

/-- A floating-point element format: exponent and fraction bits, bias, the exponent and fraction of the largest
finite value, its top codes and its canonical NaN. -/
structure FloatFmt where
  eb : Nat
  mb : Nat
  bias : Nat
  emax : Nat
  fmax : Nat
  top : TopCode
  nan : Nat
deriving DecidableEq, Repr

def fp32 : FloatFmt := { eb := 8, mb := 23, bias := 127, emax := 254, fmax := 2 ^ 23 - 1, top := .ieee, nan := 0x7FC00000 }
def fp16 : FloatFmt := { eb := 5, mb := 10, bias := 15, emax := 30, fmax := 1023, top := .ieee, nan := 0x7E00 }
def bf16 : FloatFmt := { eb := 8, mb := 7, bias := 127, emax := 254, fmax := 127, top := .ieee, nan := 0x7FC0 }
def e4m3 : FloatFmt := { eb := 4, mb := 3, bias := 7, emax := 15, fmax := 6, top := .e4m3, nan := 0x7F }
def e5m2 : FloatFmt := { eb := 5, mb := 2, bias := 15, emax := 30, fmax := 3, top := .ieee, nan := 0x7E }
def e3m2 : FloatFmt := { eb := 3, mb := 2, bias := 3, emax := 7, fmax := 3, top := .finite, nan := 0 }
def e2m3 : FloatFmt := { eb := 2, mb := 3, bias := 1, emax := 3, fmax := 7, top := .finite, nan := 0 }
def e2m1 : FloatFmt := { eb := 2, mb := 1, bias := 1, emax := 3, fmax := 1, top := .finite, nan := 0 }

/-- A value: NaN, an infinity, or ± mag × 2^exp with its sign (zeros are signed). -/
inductive FVal where
  | nan
  | inf (neg : Bool)
  | fin (neg : Bool) (mag : Nat) (exp : Int)
deriving DecidableEq, Repr

/-- The sign bit of a format. -/
def FloatFmt.signBit (f : FloatFmt) : Nat := f.eb + f.mb

/-- The value of a pattern (R115). -/
def FloatFmt.decode (f : FloatFmt) (v : Nat) : FVal :=
  let neg := bitAt v f.signBit
  let e := bits v (f.signBit - 1) f.mb
  let m := v % 2 ^ f.mb
  if f.top = .ieee ∧ e = 2 ^ f.eb - 1 then (if m = 0 then .inf neg else .nan)
  else if f.top = .e4m3 ∧ e = 15 ∧ m = 7 then .nan
  else if e = 0 then .fin neg m (1 - (f.bias : Int) - f.mb)
  else .fin neg (m + 2 ^ f.mb) ((e : Int) - f.bias - f.mb)

/-- FTZ on an input: a subnormal pattern becomes a zero of its sign (R116). -/
def FloatFmt.flushIn (f : FloatFmt) (ftz : Bool) (v : Nat) : Nat :=
  if ftz && bits v (f.signBit - 1) f.mb == 0 then v - v % 2 ^ f.mb else v

/-! ### Rounding (R128 to R130) -/

/-- A magnitude n ÷ d rounded to an integer: 0 RNE, 1 RZ, 2 RU, 3 RD, 4 RS with the random bits `r`. -/
def roundInt (mode : Nat) (neg : Bool) (n d r : Nat) : Nat :=
  let lo := n / d
  let rem := n % d
  if rem = 0 then lo
  else
    let up := match mode with
      | 0 => d < 2 * rem || (2 * rem == d && lo % 2 == 1)
      | 1 => false
      | 2 => !neg
      | 3 => neg
      | _ => r < rem * 2 ^ 32 / d
    if up then lo + 1 else lo

/-- ⌊log2(n ÷ d)⌋ of a positive ratio. -/
def ratioLog (n d : Nat) : Int :=
  let e : Int := (Nat.log2 n : Int) - Nat.log2 d
  if n * 2 ^ (-e).toNat < d * 2 ^ e.toNat then e - 1 else e

/-- The sign, exponent field and fraction of a pattern joined. -/
def FloatFmt.join (f : FloatFmt) (neg : Bool) (e m : Nat) : Nat := bit01 neg * 2 ^ f.signBit + e * 2 ^ f.mb + m

def FloatFmt.largest (f : FloatFmt) (neg : Bool) : Nat := f.join neg f.emax f.fmax

/-- An infinity, or what R127 puts in its place. -/
def FloatFmt.infinity (f : FloatFmt) (neg sat : Bool) : Nat :=
  if sat then f.largest neg
  else match f.top with
    | .ieee => f.join neg (2 ^ f.eb - 1) 0
    | .e4m3 => f.nan
    | .finite => f.largest neg

/-- A ratio ± n ÷ d rounded once to a format (R129), with R127 on overflow and FTZ on the result (R116). -/
def FloatFmt.round (f : FloatFmt) (mode : Nat) (sat ftz : Bool) (r : Nat) (neg : Bool) (n d : Nat) : Nat :=
  if n = 0 then f.join neg 0 0
  else
    let e := max (ratioLog n d) (1 - (f.bias : Int))
    let q := e - f.mb
    let m := roundInt mode neg (n * 2 ^ (-q).toNat) (d * 2 ^ q.toNat) r
    let carry := 2 ^ (f.mb + 1) ≤ m
    let m := if carry then m / 2 else m
    let e := if carry then e + 1 else e
    let field := if m < 2 ^ f.mb then 0 else (e + f.bias).toNat
    let frac := m % 2 ^ f.mb
    if f.emax < field || (field == f.emax && f.fmax < frac) then
      (if mode == 1 || (mode == 2 && neg) || (mode == 3 && !neg) then f.largest neg else f.infinity neg sat)
    else if ftz && field == 0 then f.join neg 0 0
    else f.join neg field frac

/-- A dyadic magnitude as a ratio. -/
def dyadic (mag : Nat) (exp : Int) : Nat × Nat := (mag * 2 ^ exp.toNat, 2 ^ (-exp).toNat)

/-- A value encoded in a format, rounded once. -/
def FloatFmt.encode (f : FloatFmt) (mode : Nat) (sat ftz : Bool) (r : Nat) (v : FVal) : Nat :=
  match v with
  | .nan => f.nan
  | .inf neg => f.infinity neg sat
  | .fin neg mag exp => f.round mode sat ftz r neg (dyadic mag exp).1 (dyadic mag exp).2

/-- sr_hash (R130): the random bits of a lane's rounded value e under counter c. -/
def srHash (c lane e : Nat) : Nat :=
  let z := (c * 0x9E3779B97F4A7C15 + lane * 0xBF58476D1CE4E5B9 + e) % 2 ^ 64
  let z := (z ^^^ (z / 2 ^ 30)) * 0xBF58476D1CE4E5B9 % 2 ^ 64
  let z := (z ^^^ (z / 2 ^ 27)) * 0x94D049BB133111EB % 2 ^ 64
  (z ^^^ (z / 2 ^ 31)) % 2 ^ 32

/-! ### Exact arithmetic on values -/

def FVal.isNan : FVal → Bool
  | .nan => true
  | _ => false

/-- A finite value as ± mag × 2^exp brought to the exponent `e` ≤ exp. -/
def atExp (neg : Bool) (mag : Nat) (exp e : Int) : Int :=
  let m : Int := (mag * 2 ^ (exp - e).toNat : Nat)
  if neg then -m else m

/-- A signed integer times 2^e; `zeroNeg` is the sign of zero. -/
def ofInt (zeroNeg : Bool) (i e : Int) : FVal := if i = 0 then .fin zeroNeg 0 e else .fin (i < 0) i.natAbs e

/-- The exact sum, with the zero signs of R116 under the rounding mode. -/
def FVal.add (mode : Nat) : FVal → FVal → FVal
  | .nan, _ | _, .nan => .nan
  | .inf a, .inf b => if a = b then .inf a else .nan
  | .inf a, _ => .inf a
  | _, .inf b => .inf b
  | .fin na ma ea, .fin nb mb eb =>
    let e := min ea eb
    let zeroNeg := if ma = 0 ∧ mb = 0 ∧ na = nb then na else mode == 3
    ofInt zeroNeg (atExp na ma ea e + atExp nb mb eb e) e

/-- The exact product; ∞ × 0 is NaN. -/
def FVal.mul : FVal → FVal → FVal
  | .nan, _ | _, .nan => .nan
  | .inf a, .inf b => .inf (a != b)
  | .inf a, .fin b m _ => if m = 0 then .nan else .inf (a != b)
  | .fin a m _, .inf b => if m = 0 then .nan else .inf (a != b)
  | .fin na ma ea, .fin nb mb eb => .fin (na != nb) (ma * mb) (ea + eb)

def FVal.neg : FVal → FVal
  | .nan => .nan
  | .inf a => .inf (!a)
  | .fin a m e => .fin (!a) m e

/-- The order of two values that are not NaN: less, equal (−0 equals +0), greater as −1, 0, 1. -/
def FVal.compare : FVal → FVal → Int
  | .nan, _ | _, .nan => 0
  | .inf a, .inf b => if a = b then 0 else if a then -1 else 1
  | .inf a, .fin _ _ _ => if a then -1 else 1
  | .fin _ _ _, .inf b => if b then 1 else -1
  | .fin na ma ea, .fin nb mb eb =>
    let e := min ea eb
    let x := atExp na ma ea e
    let y := atExp nb mb eb e
    if x < y then -1 else if y < x then 1 else 0

/-- The sign of a value. -/
def FVal.isNeg : FVal → Bool
  | .nan => false
  | .inf a => a
  | .fin a _ _ => a

def FVal.isZero : FVal → Bool
  | .fin _ 0 _ => true
  | _ => false

/-- An integer's value. -/
def FVal.ofInteger (i : Int) : FVal := ofInt false i 0

/-- A value rounded to an integer and clamped into a w-bit range; NaN gives 0 (R127, R259). -/
def FVal.toInteger (mode r w : Nat) (uns : Bool) (v : FVal) : Int :=
  let lo : Int := if uns then 0 else -(2 ^ (w - 1) : Nat)
  let hi : Int := if uns then (2 ^ w : Nat) - 1 else (2 ^ (w - 1) : Nat) - 1
  match v with
  | .nan => 0
  | .inf neg => if neg then lo else hi
  | .fin neg mag exp =>
    let i : Int := roundInt mode neg (dyadic mag exp).1 (dyadic mag exp).2 r
    clampInt (if neg then -i else i) lo hi

/-! ### Scales (R119, R121) -/

/-- An E8M0 scale; 0xFF is NaN. -/
def e8m0 (x : Nat) : FVal := if x % 256 = 255 then .nan else .fin false 1 ((x % 256 : Nat) - 127 : Int)

/-- A UE8M8 scale, exponent 255 excluded (`none`). -/
def ue8m8 (x : Nat) : Option FVal :=
  let e := bits x 15 8
  let f := x % 256
  if e = 255 then none
  else if e = 0 then some (.fin false f (-134))
  else some (.fin false (256 + f) ((e : Int) - 135))

/-! ### Elements by tag code (R117, R131) -/

/-- The floating-point format of a tag code's elements. -/
def tagFloat (c : Nat) : Option FloatFmt :=
  match c with
  | 2 => some fp32 | 3 => some fp16 | 4 => some bf16 | 5 => some e4m3 | 6 => some e5m2 | 9 => some e2m3
  | 10 => some e3m2 | 11 => some e2m1 | _ => none

/-- Bits of an element of a tag code, as its value uses them (6-bit codes lie in a byte). -/
def elemBits (c : Nat) : Nat :=
  match c with
  | 0 | 1 | 2 => 32
  | 3 | 4 | 14 => 16
  | 9 | 10 => 6
  | 8 | 11 | 12 => 4
  | _ => 8

/-- Bits that an element takes in a lane word. -/
def slotBits (c : Nat) : Nat :=
  match c with
  | 0 | 1 | 2 => 32
  | 3 | 4 | 14 => 16
  | 8 | 11 | 12 => 4
  | _ => 8

/-- Element `e` of a lane word. -/
def elemAt (c v e : Nat) : Nat := v / 2 ^ (slotBits c * e) % 2 ^ elemBits c

/-- A lane word with element `e` replaced, its unused bits zero. -/
def setElem (c v e x : Nat) : Nat :=
  withBits v (slotBits c * e + slotBits c - 1) (slotBits c * e) (x % 2 ^ elemBits c)

end Sys2Proof.Machine
end

