-- ==== Sys2Proof/Machine/Special.lean ====
section
/-! DEFINITION. The special functions of R256: an approximation far finer than their bounds, and the choice among the
results that the bounds allow (Config.ulpOffset, log 15). -/

namespace Sys2Proof.Machine

/-- ln 2 × 2^256 and π × 2^512, rounded down. -/
def ln2Fixed : Nat := 0xb17217f7d1cf79abc9e3b39803f2f6af40f343267298b62d8a0d175b8baafa2b
def piFixed : Nat := 0x3243f6a8885a308d313198a2e03707344a4093822299f31d0082efa98ec4e6c89452821e638d01377be5466cf34e90c6cc0ac29b7c97c50dd3f84d5b5b5470917

/-- ⌊√n⌋ by bits, from 2^i down. -/
def isqrtFrom : (i n r : Nat) → Nat
  | 0, n, r => if (r + 1) * (r + 1) ≤ n then r + 1 else r
  | i + 1, n, r => isqrtFrom i n (if (r + 2 ^ (i + 1)) * (r + 2 ^ (i + 1)) ≤ n then r + 2 ^ (i + 1) else r)

def isqrt (n : Nat) : Nat := isqrtFrom (Nat.log2 n / 2) n 0

/-- Fraction bits of the fixed-point approximations. -/
def fixBits : Nat := 400

/-- Σ of y^k ÷ k! from k = i on, as fixed point: `t` is the term y^(i−1) ÷ (i−1)!. -/
def expSeries : (fuel i : Nat) → (y t : Int) → Int
  | 0, _, _, _ => 0
  | fuel + 1, i, y, t =>
    let t := t * y / (2 ^ fixBits : Nat) / i
    t + expSeries fuel (i + 1) y t

/-- e^y − 1 for a fixed-point y. -/
def expm1Fixed (y : Int) : Int := expSeries 260 1 y (2 ^ fixBits : Nat)

/-- Σ of ± y^k ÷ k! over every second k from i on; sine starts at 1, cosine at 2. -/
def trigSeries : (fuel i : Nat) → (y2 t : Int) → Int
  | 0, _, _, t => t
  | fuel + 1, i, y2, t => t + trigSeries fuel (i + 2) y2 (-(t * y2 / (2 ^ fixBits : Nat) / ((i + 1) * (i + 2) : Nat)))

/-- sin y and cos y for a fixed-point y in [0, π ÷ 2]. -/
def sinFixed (y : Int) : Int := trigSeries 80 1 (y * y / (2 ^ fixBits : Nat)) y
def cosFixed (y : Int) : Int := trigSeries 80 0 (y * y / (2 ^ fixBits : Nat)) (2 ^ fixBits : Nat)

/-- Σ of z^k ÷ k over odd k: `p` is z^i. -/
def atanhSeries : (fuel i : Nat) → (z2 p : Int) → Int
  | 0, _, _, _ => 0
  | fuel + 1, i, z2, p => p / i + atanhSeries fuel (i + 2) z2 (p * z2 / (2 ^ fixBits : Nat))

/-- ln 2 in fixed point. -/
def ln2Fix : Int := (ln2Fixed * 2 ^ (fixBits - 256) : Nat)

/-- log2 of a positive dyadic, in fixed point. -/
def log2Fixed (mag : Nat) (exp : Int) : Int :=
  let k := Nat.log2 mag
  let m : Int := (mag * 2 ^ fixBits / 2 ^ k : Nat)
  let one : Int := (2 ^ fixBits : Nat)
  let z := (m - one) * one / (m + one)
  let ln := 2 * atanhSeries 140 1 (z * z / one) z
  (exp + k) * one + ln * one / ln2Fix

/-- 2^x for a fixed-point fraction x in [0, 1). -/
def exp2Frac (x : Int) : Int := expm1Fixed (x * ln2Fix / (2 ^ fixBits : Nat)) + (2 ^ fixBits : Nat)

/-- The quadrant and the fixed-point remainder of |x| modulo π ÷ 2, for a dyadic x (exponent at least −149). -/
def reduceHalfPi (mag : Nat) (exp : Int) : Nat × Int :=
  let x : Nat := mag * 2 ^ (exp + 513).toNat
  let q := x / piFixed
  (q % 4, ((x - q * piFixed) * 2 ^ fixBits / 2 ^ 513 : Nat))

/-- What a special function gives before the choice: a pattern that the spec fixes, or the exact result as a
fixed-point approximation num × 2^exp with its sign. -/
inductive Approx where
  | exact (bits : Nat)
  | near (neg : Bool) (num : Nat) (exp : Int)
deriving DecidableEq, Repr

/-- The unit in the last place of an exact result, as the exponent of 2 (FP32). -/
def ulpExp (num : Nat) (exp : Int) : Int := max ((Nat.log2 num : Int) + exp) (-126) - 23

/-- Whether FP32 pattern `c` lies within 2^boundExp × bound of ± num × 2^exp. -/
def withinBound (c : Nat) (neg : Bool) (num : Nat) (exp : Int) (bound : Nat) (boundExp : Int) : Bool :=
  match fp32.decode c with
  | .fin cn cm ce =>
    let e := min ce (min exp boundExp)
    let d := atExp cn cm ce e - atExp neg num exp e
    d.natAbs ≤ (atExp false bound boundExp e).natAbs
  | _ => false

/-- The result: the one the spec fixes; else the correctly rounded one moved by the part's own offset, where the
bound allows that. `ulps` is the bound in ulps, or 0 for the absolute bound 2^absExp. -/
def choose (form : Nat) (input : Nat) (ftz : Bool) (ulps : Nat) (absExp : Int) (a : Approx) : Nat :=
  match a with
  | .exact b => fp32.flushIn ftz b
  | .near neg num exp =>
    let rne := fp32.encode 0 false false 0 (.fin neg num exp)
    let c := uwrap 32 ((rne : Int) + Config.ulpOffset form (BitVec.ofNat 32 input))
    let ok := if ulps = 0 then withinBound c neg num exp 1 absExp
      else withinBound c neg num exp ulps (ulpExp num exp)
    fp32.flushIn ftz (if ok then c else rne)

def f32Zero (neg : Bool) : Nat := fp32.join neg 0 0
def f32Inf (neg : Bool) : Nat := fp32.infinity neg false
def f32One (neg : Bool) : Nat := fp32.join neg 127 0

/-- FRCP (R256, R257): 1 ÷ a, correctly rounded with `rn`, else within 1 ulp. -/
def frcpValue (rn ftz : Bool) (v : Nat) : Nat :=
  let v := fp32.flushIn ftz v
  match fp32.decode v with
  | .nan => fp32.nan
  | .inf neg => f32Zero neg
  | .fin neg mag exp =>
    if mag = 0 then f32Inf neg
    else
      let r := dyadic mag exp
      if rn then fp32.round 0 false ftz 0 neg r.2 r.1
      else choose 0x90 v ftz 1 0 (.near neg (r.2 * 2 ^ fixBits / r.1) (-(fixBits : Int)))

/-- FRSQ: 1 ÷ √a within 2 ulp. -/
def frsqValue (ftz : Bool) (v : Nat) : Nat :=
  let v := fp32.flushIn ftz v
  match fp32.decode v with
  | .nan => fp32.nan
  | .inf neg => if neg then fp32.nan else f32Zero false
  | .fin neg mag exp =>
    if mag = 0 then f32Inf neg
    else if neg then fp32.nan
    else
      let r := dyadic mag exp
      choose 0x91 v ftz 2 0 (.near false (isqrt (r.2 * 2 ^ (2 * fixBits) / r.1)) (-(fixBits : Int)))

/-- FSQRT: √a correctly rounded under RND 0 to 3. -/
def fsqrtValue (mode : Nat) (ftz : Bool) (v : Nat) : Nat :=
  let v := fp32.flushIn ftz v
  match fp32.decode v with
  | .nan => fp32.nan
  | .inf neg => if neg then fp32.nan else f32Inf false
  | .fin neg mag exp =>
    if mag = 0 then f32Zero neg
    else if neg then fp32.nan
    else
      let r := dyadic mag exp
      let n := r.1 * 2 ^ (2 * fixBits) / r.2
      let m := isqrt n
      let sticky := if m * m = n ∧ r.1 * 2 ^ (2 * fixBits) % r.2 = 0 then 0 else 1
      fp32.round mode false ftz 0 false (2 * m + sticky) (2 ^ (fixBits + 1))

/-- FEXP2: 2^a within 2 ulp, exact for an integer a with a representable result. -/
def fexp2Value (ftz : Bool) (v : Nat) : Nat :=
  let v := fp32.flushIn ftz v
  match fp32.decode v with
  | .nan => fp32.nan
  | .inf neg => if neg then f32Zero false else f32Inf false
  | .fin neg mag exp =>
    let r := dyadic mag exp
    let x : Int := if neg then -(r.1 * 2 ^ fixBits / r.2 : Nat) else (r.1 * 2 ^ fixBits / r.2 : Nat)
    let one : Int := (2 ^ fixBits : Nat)
    let n := x / one
    let f := x % one
    if 128 ≤ n then f32Inf false
    else if n < -200 then choose 0x93 v ftz 2 0 (.near false 1 (-200))
    else if f = 0 ∧ -149 ≤ n then fp32.encode 0 false ftz 0 (.fin false 1 n)
    else choose 0x93 v ftz 2 0 (.near false (exp2Frac f).toNat (n - fixBits))

/-- FLOG2: absolute error 2^−22 in [0.5, 2], within 2 ulp elsewhere; exact for a power of 2. -/
def flog2Value (ftz : Bool) (v : Nat) : Nat :=
  let v := fp32.flushIn ftz v
  match fp32.decode v with
  | .nan => fp32.nan
  | .inf neg => if neg then fp32.nan else f32Inf false
  | .fin neg mag exp =>
    if mag = 0 then f32Inf true
    else if neg then fp32.nan
    else
      let k := Nat.log2 mag
      let top : Int := exp + k
      if mag = 2 ^ k then fp32.encode 0 false ftz 0 (.ofInteger top)
      else
        let l := log2Fixed mag exp
        let inner := top = -1 ∨ top = 0
        choose 0x94 v ftz (if inner then 0 else 2) (-22) (.near (l < 0) l.natAbs (-(fixBits : Int)))

/-- sin or cos of a quadrant and remainder. -/
def trigOf (cosine : Bool) (q : Nat) (y : Int) : Int :=
  match (if cosine then q + 1 else q) % 4 with
  | 0 => sinFixed y
  | 1 => cosFixed y
  | 2 => -(sinFixed y)
  | _ => -(cosFixed y)

/-- FSIN and FCOS: absolute error 2^−21, the argument reduced exactly. -/
def ftrigValue (cosine ftz : Bool) (v : Nat) : Nat :=
  let v := fp32.flushIn ftz v
  match fp32.decode v with
  | .nan => fp32.nan
  | .inf _ => fp32.nan
  | .fin neg mag exp =>
    if mag = 0 then (if cosine then f32One false else f32Zero neg)
    else
      let r := reduceHalfPi mag exp
      let t := trigOf cosine r.1 r.2
      let t := if neg && !cosine then -t else t
      choose (if cosine then 0x96 else 0x95) v ftz 0 (-21) (.near (t < 0) t.natAbs (-(fixBits : Int)))

/-- FTANH: within 2 ulp; ±1.0 from 9.1 on. -/
def ftanhValue (ftz : Bool) (v : Nat) : Nat :=
  let v := fp32.flushIn ftz v
  match fp32.decode v with
  | .nan => fp32.nan
  | .inf neg => f32One neg
  | .fin neg mag exp =>
    let r := dyadic mag exp
    if mag = 0 then f32Zero neg
    else if 91 * r.2 ≤ 10 * r.1 then f32One neg
    else
      let m := expm1Fixed (2 * r.1 * 2 ^ fixBits / r.2 : Nat)
      let one : Int := (2 ^ fixBits : Nat)
      choose 0x97 v ftz 2 0 (.near neg (m * one / (m + 2 * one)).toNat (-(fixBits : Int)))

end Sys2Proof.Machine
end

