-- ==== Sys2Proof/Machine/Float.lean ====
section
/-! DEFINITION. Class 1: floating-point arithmetic and the special functions (R249 to R257). -/

namespace Sys2Proof.Machine

/-- The element format of an FT code, and the tag of its operands (R252, R253). -/
def ftFmt (ft : Nat) : FloatFmt := if ft = 0 then fp32 else if ft = 1 then fp16 else bf16
def ftTag (ft : Nat) : Tag := if ft = 0 then .f32 else if ft = 1 then .f16x2 else .bf16x2

/-- Elements in a lane word. -/
def ftElems (ft : Nat) : Nat := if ft = 0 then 1 else 2

/-- Element `e` of a lane word of an FT format. -/
def ftElem (ft v e : Nat) : Nat := if ft = 0 then v else v / 2 ^ (16 * e) % 2 ^ 16

/-- The lane word of a list of elements. -/
def ftJoin (ft : Nat) (es : List Nat) : Nat :=
  if ft = 0 then es.headD 0 else es.headD 0 % 2 ^ 16 + (es.drop 1).headD 0 % 2 ^ 16 * 2 ^ 16

/-- A floating-point source as a lane word (R198, R249): an 8-bit immediate is the integer it holds, in every element;
anything else is a bit pattern. -/
def Env.readFloat (e : Env) (ft : Nat) (o : Operand) (k : Nat) : Nat :=
  match o with
  | .small v =>
    let b := (ftFmt ft).encode 0 false false 0 (.ofInteger v)
    ftJoin ft [b, b]
  | _ => e.read 32 o k

/-- The random bits of element `i` in lane `k` (R130). -/
def Env.random (e : Env) (k i : Nat) : Nat := srHash e.rng.toNat k i

/-- The jamb of a vector result: TOP, whatever its tag (R251). -/
def topJamb (e : Env) : List (Nat × Jamb) := dstJamb e.f.xOp .top

/-- A class 1 form on elements: `elem` is given the mode, SAT, FTZ, the random bits and the source patterns. -/
def floatForm (srcs : List (Fields → Operand))
    (elem : FloatFmt → (mode : Nat) → (sat ftz : Bool) → (r : Nat) → List Nat → Nat) : Form :=
  { jambs := topJamb
    body := fun e =>
      let ft := e.f.ft
      match e.tagsFail (ftTag ft) (srcs.map (fun o => o e.f)) with
      | some t => t
      | none =>
        let val := fun (k : Nat) => ftJoin ft ((List.range (ftElems ft)).map (fun i =>
          elem (ftFmt ft) e.f.rnd e.f.sat e.f.ftz (e.random k i)
            (srcs.map (fun o => (ftFmt ft).flushIn e.f.ftz (ftElem ft (e.readFloat ft (o e.f) k) i)))))
        let w := (e.writeDst e.w e.f.xOp val).tagDst e.f.xOp (ftTag ft)
        .done (e.put e.s (e.drawn w e.f.rnd)) }

/-! ### Arithmetic (R253) -/

def faddElem (f : FloatFmt) (mode : Nat) (sat ftz : Bool) (r : Nat) (v : List Nat) : Nat :=
  f.encode mode sat ftz r (FVal.add mode (f.decode (argN v 0)) (f.decode (argN v 1)))

def fsubElem (f : FloatFmt) (mode : Nat) (sat ftz : Bool) (r : Nat) (v : List Nat) : Nat :=
  f.encode mode sat ftz r (FVal.add mode (f.decode (argN v 0)) (f.decode (argN v 1)).neg)

def fmulElem (f : FloatFmt) (mode : Nat) (sat ftz : Bool) (r : Nat) (v : List Nat) : Nat :=
  f.encode mode sat ftz r (FVal.mul (f.decode (argN v 0)) (f.decode (argN v 1)))

def ffmaElem (f : FloatFmt) (mode : Nat) (sat ftz : Bool) (r : Nat) (v : List Nat) : Nat :=
  f.encode mode sat ftz r (FVal.add mode (FVal.mul (f.decode (argN v 0)) (f.decode (argN v 1))) (f.decode (argN v 2)))

def execFadd (f : Fields) (s : State) : Host.Outcome State Fault Refusal := issue (.fadd f) (floatForm srcYZ faddElem) s
def execFsub (f : Fields) (s : State) : Host.Outcome State Fault Refusal := issue (.fsub f) (floatForm srcYZ fsubElem) s
def execFmul (f : Fields) (s : State) : Host.Outcome State Fault Refusal := issue (.fmul f) (floatForm srcYZ fmulElem) s
def execFfma (f : Fields) (s : State) : Host.Outcome State Fault Refusal := issue (.ffma f) (floatForm srcYZW ffmaElem) s

/-! ### Selection and signs (R254) -/

/-- Whether `a` is chosen before `b`: −0 counts as less than +0. -/
def fpLess (a b : FVal) : Bool :=
  if a.isZero && b.isZero then a.isNeg && !b.isNeg else a.compare b == -1

/-- FMIN and FMAX on patterns. -/
def fpSelect (f : FloatFmt) (wantMin : Bool) (x y : Nat) : Nat :=
  let a := f.decode x
  let b := f.decode y
  if a.isNan && b.isNan then f.nan
  else if a.isNan then y
  else if b.isNan then x
  else if wantMin then (if fpLess b a then y else x) else (if fpLess a b then y else x)

/-- FABS and FNEG on a pattern. -/
def fpSign (f : FloatFmt) (negate : Bool) (x : Nat) : Nat :=
  if (f.decode x).isNan then f.nan
  else
    let m := x % 2 ^ f.signBit
    if negate && !bitAt x f.signBit then m + 2 ^ f.signBit else m

def execFmin (f : Fields) (s : State) : Host.Outcome State Fault Refusal :=
  issue (.fmin f) (floatForm srcYZ (fun f _ _ _ _ v => fpSelect f true (argN v 0) (argN v 1))) s
def execFmax (f : Fields) (s : State) : Host.Outcome State Fault Refusal :=
  issue (.fmax f) (floatForm srcYZ (fun f _ _ _ _ v => fpSelect f false (argN v 0) (argN v 1))) s
def execFabs (f : Fields) (s : State) : Host.Outcome State Fault Refusal :=
  issue (.fabs f) (floatForm srcY (fun f _ _ _ _ v => fpSign f false (argN v 0))) s
def execFneg (f : Fields) (s : State) : Host.Outcome State Fault Refusal :=
  issue (.fneg f) (floatForm srcY (fun f _ _ _ _ v => fpSign f true (argN v 0))) s

/-! ### FCMP (R255) -/

/-- The conditions of FCMP on FP32 values. -/
def fcmpHolds (c : Nat) (a b : FVal) : Bool :=
  let un := a.isNan || b.isNan
  let o := a.compare b
  match c with
  | 0 => !un && o == 0
  | 1 => un || o != 0
  | 2 => !un && o == -1
  | 3 => !un && o != 1
  | 4 => !un && o == 1
  | 5 => !un && o != -1
  | 6 => !un
  | _ => un

def fcmpForm : Form :=
  { body := fun e =>
      match e.tagsFail .f32 [e.f.yOp, e.f.zOp] with
      | some t => t
      | none =>
        let v := fun (o : Operand) (k : Nat) => fp32.decode (fp32.flushIn e.f.ftz (e.readFloat 0 o k))
        .done (e.put e.s (e.writeDst e.w e.f.xOp (fun k =>
          bit01 (fcmpHolds e.f.fcond (v e.f.yOp k) (v e.f.zOp k))))) }

def execFcmp (f : Fields) (s : State) : Host.Outcome State Fault Refusal := issue (.fcmp f) fcmpForm s

/-! ### FDOT2 (R253) -/

def fdot2Form : Form :=
  { jambs := topJamb
    body := fun e =>
      let ft := e.f.ft
      match (e.tagsFail (ftTag ft) [e.f.yOp, e.f.zOp]) <|> (e.tagsFail .f32 [e.f.wOp]) with
      | some t => t
      | none =>
        let h := fun (o : Operand) (k i : Nat) =>
          (ftFmt ft).decode ((ftFmt ft).flushIn e.f.ftz (ftElem ft (e.readFloat ft o k) i))
        let val := fun (k : Nat) =>
          let p := fun (i : Nat) => FVal.mul (h e.f.yOp k i) (h e.f.zOp k i)
          let c := fp32.decode (fp32.flushIn e.f.ftz (e.readFloat 0 e.f.wOp k))
          fp32.encode e.f.rnd e.f.sat e.f.ftz (e.random k 0)
            (FVal.add e.f.rnd (FVal.add e.f.rnd (p 0) (p 1)) c)
        let w := (e.writeDst e.w e.f.xOp val).tagDst e.f.xOp .f32
        .done (e.put e.s (e.drawn w e.f.rnd)) }

def execFdot2 (f : Fields) (s : State) : Host.Outcome State Fault Refusal := issue (.fdot2 f) fdot2Form s

/-! ### Special functions (R256, R257): long-latency -/

def specialForm (value : Fields → Bool → Nat → Nat) : Form :=
  { jambs := topJamb
    body := fun e =>
      match e.tagsFail .f32 [e.f.yOp] with
      | some t => t
      | none =>
        let w := e.w.tagDst e.f.xOp .f32
        .done (e.put e.s (e.owe w none .result (oweLanes e.f.xOp.code e.acting e.w.laneCount (fun k =>
          value e.f e.f.ftz (e.readFloat 0 e.f.yOp k))))) }

def execFrcp (f : Fields) (s : State) : Host.Outcome State Fault Refusal :=
  issue (.frcp f) (specialForm (fun f ftz v => frcpValue (f.fcond == 1) ftz v)) s
def execFrsq (f : Fields) (s : State) : Host.Outcome State Fault Refusal :=
  issue (.frsq f) (specialForm (fun _ ftz v => frsqValue ftz v)) s
def execFsqrt (f : Fields) (s : State) : Host.Outcome State Fault Refusal :=
  issue (.fsqrt f) (specialForm (fun f ftz v => fsqrtValue f.rnd ftz v)) s
def execFexp2 (f : Fields) (s : State) : Host.Outcome State Fault Refusal :=
  issue (.fexp2 f) (specialForm (fun _ ftz v => fexp2Value ftz v)) s
def execFlog2 (f : Fields) (s : State) : Host.Outcome State Fault Refusal :=
  issue (.flog2 f) (specialForm (fun _ ftz v => flog2Value ftz v)) s
def execFsin (f : Fields) (s : State) : Host.Outcome State Fault Refusal :=
  issue (.fsin f) (specialForm (fun _ ftz v => ftrigValue false ftz v)) s
def execFcos (f : Fields) (s : State) : Host.Outcome State Fault Refusal :=
  issue (.fcos f) (specialForm (fun _ ftz v => ftrigValue true ftz v)) s
def execFtanh (f : Fields) (s : State) : Host.Outcome State Fault Refusal :=
  issue (.ftanh f) (specialForm (fun _ ftz v => ftanhValue ftz v)) s

end Sys2Proof.Machine
end

