-- ==== Sys2Proof/Machine/JambForms.lean ====
section
/-! DEFINITION. Class 0: the jamb forms (R50, R51, R230 to R232) and the array register forms (R53, R233 to R235). -/

namespace Sys2Proof.Machine

/-- Group 3's detail (R402): the value tested, the operand code, o, the array register, the lowest failing lane. -/
def boundsDetail (value : Int) (code : Nat) (o : Int) (areg lane : Nat) : BitVec 96 :=
  BitVec.ofNat 96 (uwrap 32 value + (code % 1024) * 2 ^ 32 + uwrap 14 o * 2 ^ 42 + (areg % 16) * 2 ^ 56
    + (lane % 1024) * 2 ^ 60)

/-! ### WIDEN (R50, R51) -/

/-- The lanes of WIDEN whose value lies outside [lo, hi]. -/
def widenFailures (e : Env) (lo hi : Int) : List Nat :=
  match e.f.xOp with
  | .sreg n =>
    let v := signed 64 (e.sreg n).toNat
    if lo ≤ v && v ≤ hi then [] else e.lanes
  | .vreg n => e.lanes.filter (fun k => let v := signed 32 (e.vlane n k); !(lo ≤ v && v ≤ hi))
  | _ => []

/-- The value of x in a lane. -/
def widenValue (e : Env) (k : Nat) : Int := e.readInt e.f.xOp.width e.f.xOp k

/-- R50 with the check modes of R51. -/
def widenForm : Form :=
  { body := fun e =>
      let x := e.f.xOp
      let w := x.width
      let code := x.code
      let clampTo := fun (o : Operand) => clampInt (e.readInt 64 o e.lowLane) (minInt w) (maxInt w)
      let lo := clampTo e.f.yOp
      let hi := clampTo e.f.zOp
      let narrowed := fun (s : State) =>
        s.modifyWeave e.a.core e.a.slot (fun v => v.narrowJamb e.a.path code (Jamb.mk w lo hi))
      if hi < lo then .trap (cause 3 4) (BitVec.ofNat 96 (uwrap 32 lo + (code % 1024) * 2 ^ 32))
      else if (e.jambAt w x).within w lo hi then .done (narrowed e.s)
      else match e.tagsFail .i32 [x] with
        | some t => t
        | none =>
          match widenFailures e lo hi with
          | [] => .done (narrowed e.s)
          | k :: ks =>
            let detail := fun (j : Nat) => boundsDetail (widenValue e j) code 0 0 j
            match bits e.w.mode.toNat 1 0 with
            | 0 =>
              let lanes := LaneMask.ofLanes (k :: ks)
              let w1 := e.w.removeLanes e.a.path lanes e.next
              let s1 := e.put e.s w1
              if e.p.mask &&& ~~~lanes = 0 then .moved s1 else .done (narrowed s1)
            | 1 =>
              let fs := (k :: ks).map (fun j => { lane := j, cause := cause 3 2, va := 0, detail := detail j : LaneFault })
              let (s1, whole) := e.s.parkLanes e.a (e.site 0) fs
              if whole then .moved s1 else .done (narrowed s1)
            | _ => .trap (cause 3 3) (detail k) }

def execWiden (f : Fields) (s : State) : Host.Outcome State Fault Refusal := issue (.widen f) widenForm s

/-! ### BNDGET and BNDTOP (R231, R232) -/

/-- What BNDGET reads: an endpoint, or whether the jamb is TOP. -/
def bndgetValue (e : Env) : Int :=
  let w := e.f.yOp.width
  let j := e.jambAt w e.f.yOp
  match e.f.modN with
  | 0 => j.lo w
  | 1 => j.hi w
  | _ => bit01 (j == .top)

def bndgetForm : Form :=
  { jambs := fun e => dstJamb e.f.xOp (.iv (bndgetValue e) (bndgetValue e))
    body := fun e => .done (e.put e.s (e.writeDst e.w e.f.xOp (fun _ => uwrap 64 (bndgetValue e)))) }

def execBndget (f : Fields) (s : State) : Host.Outcome State Fault Refusal := issue (.bndget f) bndgetForm s

def bndtopForm : Form :=
  { body := fun e => .done (e.put e.s (e.w.resetJamb e.f.xOp.code .top)) }

def execBndtop (f : Fields) (s : State) : Host.Outcome State Fault Refusal := issue (.bndtop f) bndtopForm s

/-! ### ARSET, ARGET, ARCHK (R53, R233 to R235) -/

def arsetForm : Form :=
  { body := fun e =>
      match e.f.xOp with
      | .areg n =>
        let v := BitVec.ofNat 128 (e.scalar e.f.yOp + e.scalar e.f.zOp * 2 ^ 64)
        if aregBad v then .trap (cause 3 6) (boundsDetail 0 0 0 n 0)
        else .done (e.put e.s (e.w.writeAreg n v))
      | _ => .done e.s }

def execArset (f : Fields) (s : State) : Host.Outcome State Fault Refusal := issue (.arset f) arsetForm s

/-- Half of an array register, as ARGET reads it. -/
def argetValue (e : Env) : Nat :=
  match e.f.yOp with
  | .areg n => (e.areg n).toNat / 2 ^ (64 * (e.f.modN % 2)) % 2 ^ 64
  | _ => 0

def argetForm : Form :=
  { jambs := fun e => dstJamb e.f.xOp (.iv (signed 64 (argetValue e)) (signed 64 (argetValue e)))
    body := fun e => .done (e.put e.s (e.writeDst e.w e.f.xOp (fun _ => argetValue e))) }

def execArget (f : Fields) (s : State) : Host.Outcome State Fault Refusal := issue (.arget f) argetForm s

/-- R55: the access issues unchecked. -/
def Env.unchecked (e : Env) (a : BitVec 128) (o : Int) (width : Nat) : Bool :=
  let (l, h) := e.indexJamb e.f.zOp
  let esz : Int := (2 ^ aregEsz a : Nat)
  0 ≤ l + o && (h + o) * esz + width ≤ (aregExtent a : Int) * esz

/-- Lane `k` may access an indexed operand (R54, R55). -/
def Env.inRange (e : Env) (a : BitVec 128) (o : Int) (width k : Nat) : Bool :=
  e.unchecked a o width || aregInRange a (e.index e.f.zOp k) o width

/-- R235: the index's jamb puts every lane out of range. -/
def Env.allOut (e : Env) (a : BitVec 128) (o : Int) : Bool :=
  let (l, h) := e.indexJamb e.f.zOp
  h + o < 0 || (aregExtent a : Int) ≤ l + o

/-- ARCHK: each acting lane's range test with W = E, unless the index's jamb decides it for every lane. -/
def archkForm : Form :=
  { body := fun e =>
      match e.tagsFail .i32 [e.f.zOp], e.f.yOp with
      | some t, _ => t
      | none, .areg n =>
        let a := e.areg n
        .done (e.put e.s (e.writeDst e.w e.f.xOp (fun k =>
          bit01 (e.inRange a (offset14 e.f) (2 ^ aregEsz a) k && !e.allOut a (offset14 e.f)))))
      | none, _ => .done e.s }

def execArchk (f : Fields) (s : State) : Host.Outcome State Fault Refusal := issue (.archk f) archkForm s

end Sys2Proof.Machine
end

