-- ==== Sys2Proof/Machine/Cache.lean ====
section
/-! DEFINITION. Caches and points of scope (R69, R93 to R107): a core's L1, a die's L2 for lines homed elsewhere,
releases and acquires. A line lies at 128 times its key. -/

namespace Sys2Proof.Machine

/-! ### Lines -/

def CacheLine.empty : CacheLine := { bytes := [], valid := 0, dirty := 0 }

/-- Byte `i` of a line. -/
def CacheLine.byte (l : CacheLine) (i : Nat) : Byte := (l.bytes[i]?).getD 0

/-- Bytes [i, i + n) of a line. -/
def CacheLine.slice (l : CacheLine) (i n : Nat) : List Byte := (List.range n).map (fun j => l.byte (i + j))

/-- A line with byte `i` held. -/
def CacheLine.put (l : CacheLine) (i : Nat) (b : Byte) (dirty : Bool) : CacheLine :=
  let m : BitVec 128 := BitVec.ofNat 128 (2 ^ i)
  { bytes := putAt 0 l.bytes i b, valid := l.valid ||| m, dirty := if dirty then l.dirty ||| m else l.dirty }

/-- Consecutive bytes put. -/
def CacheLine.putAll (l : CacheLine) (i : Nat) (dirty : Bool) : List Byte → CacheLine
  | [] => l
  | b :: bs => (l.put i b dirty).putAll (i + 1) dirty bs

/-- Fetched bytes, where the line holds none. -/
def CacheLine.fillAll (l : CacheLine) (i : Nat) : List Byte → CacheLine
  | [] => l
  | b :: bs => (if l.valid.getLsbD i then l else l.put i b false).fillAll (i + 1) bs

/-- A line holds bytes [i, i + n). -/
def CacheLine.holds (l : CacheLine) (i n : Nat) : Bool := (List.range n).all (fun j => l.valid.getLsbD (i + j))

/-- A line without bytes [i, i + n). -/
def CacheLine.forget (l : CacheLine) (i n : Nat) : CacheLine :=
  let m : BitVec 128 := BitVec.ofNat 128 ((2 ^ n - 1) * 2 ^ i)
  { l with valid := l.valid &&& ~~~m, dirty := l.dirty &&& ~~~m }

/-- A line with only its dirty bytes kept. -/
def CacheLine.keepDirty (l : CacheLine) : CacheLine := { l with valid := l.dirty }

/-- The dirty bytes of a line, with their places. -/
def CacheLine.dirtyBytes (l : CacheLine) : List (Nat × Byte) :=
  (List.range 128).filterMap (fun i => if l.dirty.getLsbD i then some (i, l.byte i) else none)

/-- A cache table with a line set; one that holds nothing is not listed. -/
def setLine (t : Table CacheLine) (k : Nat) (l : CacheLine) : Table CacheLine :=
  if l.valid = 0 then Table.erase t k else Table.set t k l

def getLine (t : Table CacheLine) (k : Nat) : CacheLine := (Table.find? t k).getD CacheLine.empty

/-- The clean bytes of every line dropped. -/
def dropClean (t : Table CacheLine) : Table CacheLine :=
  (t.map (fun (k, l) => (k, l.keepDirty))).filter (fun l => l.2.valid != 0)

/-! ### L2: a die's copy of a line homed on another die -/

/-- Bytes as the die's slice holds them, [pa, pa + n) within one line: its own copy, filled from home. -/
def State.readL2 (s : State) (d pa n : Nat) : State × List Byte :=
  if homeDie pa = d then (s.touch pa, s.mem.readBytes pa n)
  else
    let k := pa / 128
    let old := getLine (s.die d).l2 k
    let s := if old.holds (pa % 128) n then s else s.touch pa
    let l := old.fillAll (pa % 128) (s.mem.readBytes pa n)
    (s.modifyDie d (fun x => { x with l2 := setLine x.l2 k l }), l.slice (pa % 128) n)

/-- Bytes written at the die's slice. -/
def State.writeL2 (s : State) (d pa : Nat) (bytes : List Byte) : State :=
  if homeDie pa = d then s.writeHome pa bytes
  else
    let k := pa / 128
    s.modifyDie d (fun x => { x with l2 := setLine x.l2 k ((getLine x.l2 k).putAll (pa % 128) true bytes) })

/-- Some bytes of line `k` written at the die's slice as one write. -/
def State.pickL2 (s : State) (d k : Nat) (bytes : List (Nat × Byte)) : State :=
  if homeDie (k * 128) = d then s.writePicked (k * 128) bytes
  else if bytes.isEmpty then s
  else s.modifyDie d (fun x => { x with
    l2 := setLine x.l2 k (bytes.foldl (fun l y => l.put y.1 y.2 true) (getLine x.l2 k)) })

/-- The dirty bytes of a line of the L2 written home. -/
def State.flushL2Line (s : State) (d k : Nat) : State :=
  let l := getLine (s.die d).l2 k
  let s := s.writePicked (k * 128) l.dirtyBytes
  s.modifyDie d (fun x => { x with l2 := setLine x.l2 k { l with dirty := 0 } })

def State.flushL2 (s : State) (d : Nat) : State :=
  (s.die d).l2.foldl (fun s (k, l) => if l.dirty = 0 then s else s.flushL2Line d k) s

/-! ### L1 -/

/-- The dirty bytes of a line of the L1 written to the die's slice. -/
def State.flushL1Line (s : State) (c k : Nat) : State :=
  let l := getLine (s.core c).l1 k
  let s := s.pickL2 (dieOf c) k l.dirtyBytes
  s.modifyCore c (fun x => { x with l1 := setLine x.l1 k { l with dirty := 0 } })

def State.flushL1 (s : State) (c : Nat) : State :=
  (s.core c).l1.foldl (fun s (k, l) => if l.dirty = 0 then s else s.flushL1Line c k) s

/-- A class L read of [pa, pa + n), within one line: a miss fetches the missing sectors (R69). -/
def State.readL1 (s : State) (c pa n : Nat) : State × List Byte :=
  let k := pa / 128
  let i := pa % 128
  let l := getLine (s.core c).l1 k
  if l.holds i n then (s, l.slice i n)
  else
    let lo := i - i % 32
    let len := i + n - lo + (32 - (i + n) % 32) % 32
    let (s, bytes) := s.readL2 (dieOf c) (k * 128 + lo) len
    let l := l.fillAll lo bytes
    (s.modifyCore c (fun x => { x with l1 := setLine x.l1 k l }), l.slice i n)

/-- The core's bytes [pa, pa + n) brought to the die's slice and dropped from its L1. -/
def State.evictL1Bytes (s : State) (c pa n : Nat) : State :=
  let k := pa / 128
  let l := getLine (s.core c).l1 k
  let s := s.pickL2 (dieOf c) k (l.dirtyBytes.filter (fun x => pa % 128 ≤ x.1 && x.1 < pa % 128 + n))
  s.modifyCore c (fun x => { x with l1 := setLine x.l1 k (l.forget (pa % 128) n) })

/-- The die's bytes [pa, pa + n) brought home and dropped from its L2. -/
def State.evictL2Bytes (s : State) (d pa n : Nat) : State :=
  let k := pa / 128
  let l := getLine (s.die d).l2 k
  let s := s.writePicked (k * 128) (l.dirtyBytes.filter (fun x => pa % 128 ≤ x.1 && x.1 < pa % 128 + n))
  s.modifyDie d (fun x => { x with l2 := setLine x.l2 k (l.forget (pa % 128) n) })

/-- The core's copies of bytes [pa, pa + n) brought home and dropped. -/
def State.bringHome (s : State) (c pa n : Nat) : State :=
  (pieces 128 pa n).foldl (fun s x => (s.evictL1Bytes c x.1 x.2).evictL2Bytes (dieOf c) x.1 x.2) s

/-- Bytes performed at home, the core keeping no older copy: within it a fence then orders its loads after them (R110). -/
def State.performHome (s : State) (c pa : Nat) (bytes : List Byte) : State :=
  (s.bringHome c pa bytes.length).writeHome pa bytes

/-- A class L write, performed at the L1 (R93). One to host memory is issued on the host link at once: it is complete then,
and no asynchronous store is left outstanding (R114, R285, R431; log 7). -/
def State.writeL1 (s : State) (c pa : Nat) (bytes : List Byte) : State :=
  if isHost pa then s.performHome c pa bytes
  else
    let k := pa / 128
    s.modifyCore c (fun x => { x with l1 := setLine x.l1 k ((getLine x.l1 k).putAll (pa % 128) true bytes) })

/-! ### Releases and acquires (R98, R99, R101, R102) -/

/-- The release of writes held in the core at a scope code (R23, R98): nothing to write at .co or narrower. -/
def State.release (s : State) (c scope : Nat) : State :=
  if scope ≤ 2 then s
  else if scope ≤ 4 then s.flushL1 c
  else (s.flushL1 c).flushL2 (dieOf c)

/-- The acquire at a scope: clean bytes of the L1, and from .pk up of the die's L2, are dropped. -/
def State.acquire (s : State) (c scope : Nat) : State :=
  if scope ≤ 2 then s
  else
    let s := s.modifyCore c (fun x => { x with l1 := dropClean x.l1 })
    if scope ≤ 4 then s else s.modifyDie (dieOf c) (fun x => { x with l2 := dropClean x.l2 })

/-- Codes of the scopes that engines, weave starts and ends use (R91). -/
def scopeMd : Nat := 6
def scopeSy : Nat := 7

/-! ### Atomics (R103, R104) -/

/-- Exclusive ownership of a line passed to core `c` among its quad's L1s (R104): the others' dirty bytes reach the
slice and their copies go. -/
def State.ownInQuad (s : State) (c pa : Nat) : State :=
  let k := pa / 128
  (List.range 4).foldl (fun s j =>
    let o := quadOf c * 4 + j
    if o = c then s
    else
      let s := s.flushL1Line o k
      s.modifyCore o (fun x => { x with l1 := Table.erase x.l1 k, exclusive := x.exclusive.filter (fun y => y != k) })) s

/-- An indivisible update of a location at the point of a scope (R104). Answers the state and the old bytes. -/
def State.atomicAt (s : State) (c scope pa n : Nat) (update : List Byte → List Byte) : State × List Byte :=
  if scope ≤ 2 then
    let (s, old) := s.readL1 c pa n
    (s.writeL1 c pa (update old), old)
  else if scope = 3 then
    let s := (s.ownInQuad c pa).evictL1Bytes c pa n
    let (s, old) := s.readL1 c pa n
    ((s.writeL1 c pa (update old)).modifyCore c (fun x =>
      if x.exclusive.contains (pa / 128) then x else { x with exclusive := x.exclusive ++ [pa / 128] }), old)
  else
    let s := s.evictL1Bytes c pa n
    if scope = 4 then
      let (s, old) := s.readL2 (dieOf c) pa n
      (s.writeL2 (dieOf c) pa (update old), old)
    else
      let s := s.evictL2Bytes (dieOf c) pa n
      let old := s.mem.readBytes pa n
      (s.writeHome pa (update old), old)

/-! ### Engines (R107) -/

/-- A class C or M read, served at the home slice. -/
def State.engineRead (s : State) (pa n : Nat) : List Byte := s.mem.readBytes pa n

/-- R391: every dirty copy of a range written home and every copy dropped, in the L1s and L2s of the module. -/
def State.recall (s : State) (base n : Nat) : State :=
  let inRange := fun (k : Nat) => base < k * 128 + 128 && k * 128 < base + n
  let s := s.cores.foldl (fun s (c, k) =>
    (k.l1.filter (fun l => inRange l.1)).foldl (fun s (j, _) => s.flushL1Line c j) s) s
  let s := s.dies.foldl (fun s (d, k) =>
    (k.l2.filter (fun l => inRange l.1)).foldl (fun s (j, _) => s.flushL2Line d j) s) s
  s.dropCached base n

end Sys2Proof.Machine
end

