-- ==== Sys2Proof/Machine/Remote.lean ====
section
/-! DEFINITION. Requests to other modules (R431, R438 to R442): routing, credits, and what is kept until the reply. -/

namespace Sys2Proof.Machine

/-- The port that the route table gives a module (R441). -/
def State.routeTo (s : State) (m : Nat) : Option Nat :=
  let r := (s.routes.read m).toNat
  if bitAt r 7 && r % 8 < 6 then some (r % 8) else none

def State.portUp (s : State) (p : Nat) : Bool := s.field (portBlock p) 2 2 == 1

/-- The virtual channel of a request (R438). -/
def vcOf : RemoteOp → Nat
  | .load _ | .atomic .. | .queuePush .. | .queuePop .. | .append .. | .watch .. => 0
  | .store _ | .sector .. => 2
  | _ => 3

def State.credit (s : State) (p vc : Nat) : Nat := s.field (portBlock p) (79 + 16 * vc) (64 + 16 * vc)

def State.setCredit (s : State) (p vc n : Nat) : State := s.setField (portBlock p) (79 + 16 * vc) (64 + 16 * vc) n

/-- Whether a request to a module can leave, or fails, now: R442's index, or `none` for going ahead. -/
def State.routeFails (s : State) (m : Nat) : Option Nat :=
  match s.routeTo m with
  | none => some 4
  | some p => if s.portUp p then none else some 2

/-- Bytes of data that a request carries. -/
def dataBytes : RemoteOp → Nat
  | .store b => b.length
  | .sector .. => 32
  | .queuePush _ entries => (entries.map List.length).sum
  | .append _ _ _ _ keys values => keys.length + values.length
  | _ => 0

/-- Flits of a message that carries `n` bytes of data: each has a payload of 240 bytes (R437, log 74). -/
def flitsFor (n : Nat) : Nat := max 1 ((n + 239) / 240)

/-- Flits of a reply. -/
def replyFlits : FabricReply → Nat
  | .data b => flitsFor b.length
  | .failed .. => 1

/-- A message's flits. Credits returned ride in a header, and need no flit of their own. -/
def flitsOf : Message → Nat
  | .request r => flitsFor (dataBytes r.op)
  | .response r => replyFlits r.reply
  | .credit .. => 0
  | _ => 1

/-- Whether a request to a module must wait for the credits of its flits (R438). -/
def State.awaitsCredit (s : State) (m : Nat) (op : RemoteOp) : Bool :=
  match s.routeTo m with
  | none => false
  | some p => s.portUp p && s.credit p (vcOf op) < flitsFor (dataBytes op)

/-- Remote signals count on OSIG and asynchronous stores on OAS (R431). -/
def isSignal (op : RemoteOp) : Bool :=
  match op with
  | .woken .. => false
  | _ => vcOf op == 3

/-- A store, or an atomic that answers nothing to a register. -/
def RemoteRequest.isAsyncStore (r : RemoteRequest) : Bool :=
  match r.what with
  | .store _ | .sector .. => true
  | .atomic .. => r.dest == .none
  | _ => false

/-- Outstanding asynchronous stores and remote signals of a core (R431): of those that its weaves, and the dispatcher for it,
have issued. A store to host memory is complete when its instruction is (log 7), and is never outstanding. -/
def State.oas (s : State) (c : Nat) : Nat := (s.requests.filter (fun r => r.core == c && r.isAsyncStore)).length
def State.osig (s : State) (c : Nat) : Nat := (s.requests.filter (fun r => r.core == c && isSignal r.what)).length

/-- A weave has left its core with its save record. -/
def State.isSaved (s : State) (id : WeaveId) : Bool := s.saved.any (fun x => x.2.weave.id == id)

/-- Requests beyond the boundary of a core that its own weaves have sent, and that await replies (R419, R420). -/
def State.outstanding (s : State) (core : Nat) : Nat :=
  (s.requests.filter (fun r => r.core == core && r.slot < hingeSlot && !r.waiting && !s.isSaved r.weave)).length

def State.countOutstanding (s : State) (d core : Nat) : State := s.setField (latchBlock d) 447 416 (s.outstanding core)

/-- This module's number (R440). -/
def State.moduleNumber (s : State) : Nat := s.field fabricBlock 11 0

/-- DOMAIN of a context (R433). -/
def State.ctxDomain (s : State) (ctx : Nat) : Nat := s.field (serviceBlock ctx) 127 112

def State.port (s : State) (p : Nat) : Port := (Table.find? s.ports p).getD Port.reset

def State.setPort (s : State) (p : Nat) (x : Port) : State := { s with ports := Table.set s.ports p x }

/-- Credits that a port owes its partner for flits it has taken (R438). -/
def State.owe (s : State) (p vc n : Nat) : State :=
  let x := s.port p
  s.setPort p { x with owed := Table.set x.owed vc ((Table.find? x.owed vc).getD 0 + n) }

/-- The credits that a port starts with, and never exceeds, for each virtual channel (R438). -/
def initialCredits (vc : Nat) : Nat :=
  match vc with
  | 0 => 64
  | 1 => 128
  | 2 => 64
  | _ => 32

/-- An event after those that are already to come. -/
def State.queueEvent (s : State) (i : Instr) : State := { s with agenda := s.agenda ++ [.event i] }

/-- A gang message for this module is its event; one for another waits for the port of its route (R441), and one with no hops
left, or with no route that is UP, is dropped. -/
def State.gangArrives (s : State) (dest : Nat) (event : Instr) (onward : Option Message) : State :=
  if dest = s.moduleNumber then s.queueEvent event
  else match onward, s.routeTo dest with
    | some m, some p =>
      if s.portUp p then s.setPort p { s.port p with queued := (s.port p).queued ++ [(3, m)] } else s
    | _, _ => s

/-- A message passed on by the route table, where it has hops left (R441): the hops it goes on with. -/
def hopsLeft (hops : Nat) : Option Nat := if hops ≤ 1 then none else some (hops - 1)

/-- A message that has come whole by a port: the event that it is, or, of the gang's for another module, what is sent on. -/
def State.arrive (s : State) (p : Nat) (m : Message) : State :=
  match m with
  | .request r => s.queueEvent (.fabricRequestReceive p r)
  | .response r => s.queueEvent (.fabricResponseReceive p r)
  | .time t => s.queueEvent (.fabricTimeFlit p t)
  | .gangReady m d h => (s.owe p 3 1).gangArrives d (.gangReadyReceive m) ((hopsLeft h).map (fun h => .gangReady m d h))
  | .gangGo d h => (s.owe p 3 1).gangArrives d .gangGoReceive ((hopsLeft h).map (fun h => .gangGo d h))
  | .gangAbort d h => (s.owe p 3 1).gangArrives d .gangAbortReceive ((hopsLeft h).map (fun h => .gangAbort d h))
  | .credit vc n => s.setCredit p vc (min (initialCredits vc) (s.credit p vc + n))

/-- The flits of a message numbered, and kept in the replay buffer of the last 256 (R437). -/
def Port.sendFlits (x : Port) (m : Message) : Port :=
  let l := x.sentFlits ++ (List.range (flitsOf m)).map (fun i => ((x.sendSeq + i) % 4096, m))
  { x with sendSeq := (x.sendSeq + flitsOf m) % 4096, sentFlits := l.drop (l.length - 256) }

/-- A message sent on a port now, for one credit of its virtual channel per flit (R438). A port in loopback receives it
itself (R439). -/
def State.emit (s : State) (p vc : Nat) (m : Message) : State :=
  let s := (s.setCredit p vc (s.credit p vc - flitsOf m)).setPort p ((s.port p).sendFlits m)
  if s.field (portBlock p) 1 1 = 1 then s.arrive p m else { s with sentMessages := s.sentMessages ++ [(p, m)] }

/-- The queued messages of a port sent, in order on each virtual channel, while the channel has credits; answers the others.
`held` are the channels on which a message waits. -/
def State.sendQueued (s : State) (p : Nat) (held : List Nat) : List (Nat × Message) → State × List (Nat × Message)
  | [] => (s, [])
  | (vc, m) :: l =>
    if held.contains vc || s.credit p vc < flitsOf m then
      let (s, rest) := State.sendQueued s p (vc :: held) l
      (s, (vc, m) :: rest)
    else State.sendQueued (s.emit p vc m) p held l

def State.flushPort (s : State) (p : Nat) (queued : List (Nat × Message)) : State :=
  let (s, rest) := s.sendQueued p [] queued
  s.setPort p { s.port p with queued := rest }

/-- A message put on a port: sent, or queued until credits come. -/
def State.post (s : State) (p vc : Nat) (m : Message) : State := s.flushPort p ((s.port p).queued ++ [(vc, m)])

/-- The hop count that a message starts with (R441). -/
def firstHops : Nat := 15

/-- The message of a request. -/
def State.requestMessage (s : State) (r : RemoteRequest) : Message :=
  .request { id := r.id, source := s.moduleNumber, dest := r.module, hops := firstHops, ctx := r.ctx,
             domain := s.ctxDomain r.weave.ctx, va := r.va, op := r.what }

/-- Bytes of data that the reply to a request may carry. -/
def replyBytes : RemoteOp → Nat
  | .load n => n
  | .atomic _ n _ _ => n
  | .queuePop _ count => 4 + 16 * count
  | _ => 8

/-- Reply slots of 128 bytes that a request holds (R417, R421): one for each 128 bytes of its reply (log 74). -/
def RemoteRequest.slots (r : RemoteRequest) : Nat := max 1 ((replyBytes r.what + 127) / 128)

/-- Reply slots of a core that its requests beyond its boundary hold. The dispatcher's and the Transoms' are no core's. -/
def State.slotsTaken (s : State) (c : Nat) : Nat :=
  ((s.requests.filter (fun r => r.core == c && r.slot < hingeSlot && !r.waiting)).map RemoteRequest.slots).sum

/-- A request finds no slot free of its core's 512 (R421), or one of the core waits before it. -/
def State.lacksSlot (s : State) (r : RemoteRequest) : Bool :=
  r.slot < hingeSlot && (512 < s.slotsTaken r.core + r.slots
    || s.requests.any (fun x => x.core == r.core && x.waiting && x.id < r.id && s.isSaved x.weave == s.isSaved r.weave))

/-- A request sent: numbered. One that finds no slot stays within the core until it does (R421). -/
def State.send (s : State) (r : RemoteRequest) : State :=
  let p := (s.routeTo r.module).getD 0
  let r := { r with id := s.serial, port := p, sent := s.tick }
  let r := { r with waiting := s.lacksSlot r }
  let s := if r.waiting then s else s.post p (vcOf r.what) (s.requestMessage r)
  { s with serial := s.serial + 1, requests := s.requests ++ [r] }

/-- Group 19's detail (R402). -/
def remoteDetail (va module port : Nat) : BitVec 96 :=
  BitVec.ofNat 96 (va % 2 ^ 72 + (module % 4096) * 2 ^ 72 + (port % 8) * 2 ^ 84)

/-- The same for a request that has not left, with the port of its route. -/
def State.routeDetail (s : State) (va module : Nat) : BitVec 96 := remoteDetail va module ((s.routeTo module).getD 0)

/-- The request of an instruction for bytes at a remote page. -/
def Env.request (e : Env) (lane module ctx va : Nat) (what : RemoteOp) (dest : RemoteDest) : RemoteRequest :=
  { id := 0, weave := e.w.id, core := e.a.core, slot := e.a.slot, path := e.a.path, lane, op := e.serial, port := 0,
    module, sent := 0, ctx, va, what, dest, pc := e.p.pc, next := e.next,
    captured := e.capture,
    whole := !memHasVector (memFormsOf e.i) e.f && !e.f.xOp.isV, waiting := false }

/-- A lane's failure on a remote page before anything is sent. -/
def State.remoteFault (s : State) (lane va module index : Nat) : LaneFault :=
  { lane, cause := cause 19 index, va, detail := s.routeDetail va module }

/-- Bytes that a request reads or writes at its address. -/
def opBytes : RemoteOp → Nat
  | .load n => n
  | .store b => b.length
  | .atomic _ n _ _ => n
  | .sector .. => 32
  | .decrement => 4
  | .wake _ | .watch .. | .woken .. => 8
  | .append .. => 65536
  | .hoop _ | .push _ | .queuePush .. | .queuePop .. => 64

/-- An access of a path at a remote address waits for the path's earlier ones that it overlaps (R93, R94). -/
def State.overlapsRemote (s : State) (id : WeaveId) (issued : List Nat) (op m ctx va n : Nat) : Bool :=
  s.requests.any (fun r => r.op != op && r.weave == id && issued.contains r.op && r.module == m && r.ctx == ctx
    && r.va < va + n && va < r.va + opBytes r.what)

/-! ### Looks of the dispatcher and the Transoms (R66, R389, R415) -/

/-- The pseudo-slot of these requests. -/
def glanceSlot : Nat := 67

/-- What a look has found, once its reply has come. -/
def State.glimpse (s : State) (who ctx va n : Nat) : Option FabricReply :=
  (s.glances.find? (fun g => g.who == who && g.ctx == ctx && g.va == va && g.n == n)).bind (fun g => g.reply)

/-- A look at `n` bytes of another module, unless it is under way: one that cannot leave fails at once. -/
def State.glance (s : State) (who module rctx ctx va n : Nat) : State :=
  if s.glances.any (fun g => g.who == who && g.ctx == ctx && g.va == va && g.n == n) then s
  else match s.routeFails module with
    | some i => { s with glances := s.glances ++ [{ who, ctx, va, n, reply := some (.failed i 0) }] }
    | none =>
      if s.awaitsCredit module (.load n) then s
      else { s.send {
        id := 0, weave := { ctx, record := 0, inst := 0, gen := 0 }, core := 0, slot := glanceSlot, path := 0, lane := 0
        op := who, port := 0, module, sent := 0, ctx := rctx, va, what := .load n, dest := .none, pc := 0, next := 0
        captured := { sregs := [], aregs := [], rng := 0 }, whole := true, waiting := false } with
          glances := s.glances ++ [{ who, ctx, va, n, reply := none }] }

/-- Looks that are over: what they found is used no more. -/
def State.endGlances (s : State) (pick : Glance → Bool) : State :=
  { s with glances := s.glances.filter (fun g => g.reply.isNone || !pick g) }

/-- The reply to a look. -/
def State.glanceReply (s : State) (r : RemoteRequest) (reply : FabricReply) : State :=
  { s with glances := s.glances.map (fun g =>
      if g.who = r.op && g.ctx = r.weave.ctx && g.va = r.va && r.what == .load g.n then { g with reply := some reply } else g) }

/-! ### Details of failures (R402, R442) -/

/-- Detail of groups 1, 2 and 20 (R402), but for the token: an address and KIND of R396. -/
def ringDetail (va kind : Nat) : BitVec 96 := BitVec.ofNat 96 (va % 2 ^ 72 + kind % 8 * 2 ^ 72)

/-- Group 19's detail of a request that failed; REMOTE_FAULT carries the owner's cause where R402 has TOKEN (log 24). -/
def failDetail (index owner va kind module port : Nat) : BitVec 96 :=
  if index = 0 then ringDetail va kind ||| BitVec.ofNat 96 (owner % 512 * 2 ^ 75) else remoteDetail va module port

/-- The key under which a path keeps that the fill of a stash sector has failed (R79), and what it then keeps. -/
def fillKey (off : Nat) : Nat := 2 ^ 110 + off
def fillFailure (index owner module port : Nat) : List Byte :=
  toBytes 1 index ++ toBytes 2 owner ++ toBytes 2 module ++ toBytes 1 port

end Sys2Proof.Machine
end

