-- ==== Sys2Proof/Machine/Spad.lean ====
section
/-! DEFINITION. The scratchpad and its stash windows (R70 to R85), and what engines and lanes see of each other's
unfenced writes there (R109). -/

namespace Sys2Proof.Machine

/-! ### Reaching memory -/

/-- A part of an access that may fault, or wait and be tried again. -/
inductive Got (α : Type) where
  | ok (s : State) (v : α)
  | fault (s : State) (c : Cause) (va : Nat) (detail : BitVec 96)
  | wait (s : State)
  | nowhere (a : Nat)

/-- The next part, after one that went well. -/
def Got.andThen {α β : Type} (g : Got α) (f : State → α → Got β) : Got β :=
  match g with
  | .ok s v => f s v
  | .fault s c va d => .fault s c va d
  | .wait s => .wait s
  | .nowhere a => .nowhere a

/-- A fold over parts. -/
def Got.foldl {α β : Type} (f : State → β → α → Got β) : State → β → List α → Got β
  | s, b, [] => .ok s b
  | s, b, x :: l =>
    match f s b x with
    | .ok s b => Got.foldl f s b l
    | r => r

/-- A translation as a part of an access. -/
def Got.ofXlate : State × Xlate → Got Place
  | (s, .phys pa) => .ok s (.phys pa)
  | (s, .remote m c) => .ok s (.remote m c)
  | (s, .fault c va) => .fault s c va (BitVec.ofNat 96 va)
  | (s, .busy) => .wait s
  | (_, .nowhere a) => .nowhere a

/-- The translation of an address for the instruction. -/
def Env.reach (e : Env) (s : State) (va : Nat) (n : Need) : Got Place :=
  Got.ofXlate (s.translateFor e.a e.w.id.ctx va n)

/-- A step of a path's instruction at another module: its reply once it has come, or a request and a wait. -/
def State.remoteStep (s : State) (q : Path) (r : RemoteRequest) (key : Nat) : Got (List Byte) :=
  match q.fetched.find? (fun x => x.1 == key) with
  | some x => .ok s x.2
  | none =>
    if s.requests.any (fun y => y.weave == r.weave && y.path == r.path && y.dest == .path key) then .wait s
    else match s.routeFails r.module with
      | some i => .fault s (cause 19 i) r.va (s.routeDetail r.va r.module)
      | none => if s.awaitsCredit r.module r.what then .wait s else .wait (s.send { r with dest := .path key })

/-- The same for the issuing instruction. -/
def Env.remoteStep (e : Env) (s : State) (key m ctx va : Nat) (what : RemoteOp) : Got (List Byte) :=
  s.remoteStep e.p (e.request 0 m ctx va what .none) key

/-! ### Swizzles (R74, R75) -/

def swizzle (u mode : Nat) : Nat :=
  match mode with
  | 1 => u / 128 * 128 + (u / 32 % 4 ^^^ u / 128 % 4) * 32 + u % 32
  | 2 => u / 256 * 256 + (u / 32 % 8 ^^^ u / 256 % 8) * 32 + u % 32
  | 3 => u / 192 * 192 + (u / 4 % 48 + 16 * (u / 192 % 3)) % 48 * 4 + u % 4
  | _ => u

/-- The alignment of a swizzle's origin, as log2. -/
def originLog2 (mode : Nat) : Nat := match mode with
  | 1 => 7 | 2 => 8 | 3 => 6 | _ => 0

/-! ### Stash windows (R76 to R85) -/

def winValid (r : BitVec 128) : Bool := bitAt r.toNat 97
def winWr (r : BitVec 128) : Bool := bitAt r.toNat 96
def winBase (r : BitVec 128) : Nat := bits r.toNat 95 84 * 128
def winLen (r : BitVec 128) : Nat := bits r.toNat 83 72 * 128
def winGlobal (r : BitVec 128) : Nat := bits r.toNat 71 0

/-- The valid window that holds a scratchpad offset. -/
def Weave.windowAt (w : Weave) (off : Nat) : Option (Nat × BitVec 128) :=
  ((List.range w.windows.length).zip w.windows).find? (fun (_, r) =>
    winValid r && winBase r ≤ off && off < winBase r + winLen r)

/-- A sector that is not INVALID. -/
def Weave.sector? (w : Weave) (n ix : Nat) : Option Sector :=
  w.sectors.find? (fun x => x.window == n && x.index == ix)

def Weave.setSector (w : Weave) (x : Sector) : Weave :=
  { w with sectors := w.sectors.filter (fun y => !(y.window == x.window && y.index == x.index)) ++ [x] }

/-- A fill's bytes in the scratchpad: the sector is CLEAN, and what stood there before is seen by nothing (R78, R79). -/
def Weave.putSector (w : Weave) (n ix off : Nat) (bytes : List Byte) : Weave :=
  { w.setSector { window := n, index := ix, written := 0 } with
    spad := w.spad.writeBytes off bytes
    spadStores := w.spadStores.filter (fun x => x.offset + x.new.length ≤ off || off + 32 ≤ x.offset)
    engineWrites := w.engineWrites.filter (fun x => x.sector != off / 32) }

/-- A page whose translation an accepted transfer holds. -/
def heldPlace (held : Table Place) (va : Nat) : Option Place :=
  (Table.find? held (va / 4096)).map (fun p => match p with
    | .phys pa => .phys (pa + va % 4096)
    | p => p)

/-- A stash sector's address translated, or as an accepted transfer holds it (R145). -/
def State.stashPlace (s : State) (c ctx va : Nat) (n : Need) (held : Table Place) : Got Place :=
  match heldPlace held va with
  | some p => .ok s p
  | none => Got.ofXlate (s.translate c ctx va n)

/-- The fill of a sector that failed for an instruction of a path: the fault of the lanes that need it (R21, R79). -/
def Path.fillFault (q : Path) (off va : Nat) : Option (Cause × BitVec 96) :=
  (q.fetched.find? (fun x => x.1 == fillKey off)).map (fun x =>
    let part := fun (i n : Nat) => ofBytes ((x.2.drop i).take n)
    (cause 19 (part 0 1), failDetail (part 0 1) (part 1 2) va 0 (part 3 2) (part 5 1)))

/-- An INVALID sector filled from global memory through the L1 (R79). A remote sector is fetched first, for the lanes of an
instruction, or for the engine's operation `op`. -/
def fillSector (s : State) (a : Actor) (op n : Nat) (r : BitVec 128) (ix : Nat) (held : Table Place) : Got Unit :=
  match s.weave? a.core a.slot with
  | none => .ok s ()
  | some w =>
    let va := winGlobal r + 32 * ix
    let off := winBase r + 32 * ix
    if (w.sector? n ix).isSome then .ok s ()
    else if let some (c, d) := if op = 0 then (w.path? a.path).bind (fun q => q.fillFault off va) else none then
      .fault s c va d
    else
      (s.stashPlace a.core w.id.ctx va needRead held).andThen (fun s pl =>
        match pl with
        | .phys pa =>
          let (s, bytes) := s.readL1 a.core pa 32
          .ok (s.modifyWeave a.core a.slot (fun w => w.putSector n ix off bytes)) ()
        | .remote m c =>
          if s.requests.any (fun q => q.weave == w.id && q.dest == .spad off) then .wait s
          else match s.routeFails m with
            | some i => .fault s (cause 19 i) va (s.routeDetail va m)
            | none =>
              if s.awaitsCredit m (.load 32) then .wait s
              else .wait (s.send {
                id := 0, weave := w.id, core := a.core, slot := a.slot, path := a.path, lane := 0, op, port := 0
                module := m, sent := 0, ctx := c, va, what := .load 32, dest := .spad off, pc := 0, next := 0
                captured := { sregs := [], aregs := [], rng := 0 }, whole := true, waiting := false }))

/-- Every INVALID sector of the 128-byte lines under some offsets filled (R79). -/
def fillLines (s : State) (a : Actor) (offs : List Nat) (held : Table Place := []) (op : Nat := 0) : Got Unit :=
  match s.weave? a.core a.slot with
  | none => .ok s ()
  | some w =>
    let lines := if w.windows.any winValid then sortNat (offs.map (fun o => o / 128)) else []
    Got.foldl (fun s _ line =>
      match w.windowAt (line * 128) with
      | none => .ok s ()
      | some (n, r) =>
        let first := (line * 128 - winBase r) / 32
        Got.foldl (fun s _ j => fillSector s a op n r (first + j) held) s () [0, 1, 2, 3]) s () lines

/-- The first global address that a store to some offsets would write through a read-only window (R80). -/
def Weave.readOnlyAt (w : Weave) (offs : List Nat) : Option Nat :=
  (sortNat (offs.map (fun o => o / 32))).findSome? (fun sec =>
    match w.windowAt (sec * 32) with
    | some (_, r) => if winWr r then none else some (winGlobal r + (sec * 32 - winBase r))
    | none => none)

/-- Each page whose sector a store makes DIRTY now may be written (R80). -/
def dirtyCheck (s : State) (a : Actor) (offs : List Nat) (held : Table Place) : Got Unit :=
  match s.weave? a.core a.slot with
  | none => .ok s ()
  | some w =>
    Got.foldl (fun s _ sec =>
      match w.windowAt (sec * 32) with
      | none => .ok s ()
      | some (n, r) =>
        let ix := (sec * 32 - winBase r) / 32
        let va := winGlobal r + 32 * ix
        if (w.sector? n ix).any (fun x => x.written != 0) then .ok s ()
        else (s.stashPlace a.core w.id.ctx va needWrite held).andThen (fun s _ => .ok s ()))
      s () (sortNat (offs.map (fun o => o / 32)))

/-- What comes before a store to some offsets (R79, R80): STASH_RO, the fills, and the pages' permission. -/
def stashStore (s : State) (a : Actor) (offs : List Nat) (held : Table Place := []) (op : Nat := 0) : Got Unit :=
  match (s.weave? a.core a.slot).bind (fun w => w.readOnlyAt offs) with
  | some va => .fault s (cause 2 11) va (BitVec.ofNat 96 va)
  | none => (fillLines s a offs held op).andThen (fun s _ => dirtyCheck s a offs held)

/-- The global ranges behind the 128-byte lines of stash windows that some offsets touch. -/
def Weave.stashRanges (w : Weave) (offs : List Nat) : List (Nat × Nat) :=
  (sortNat (offs.map (fun o => o / 128))).filterMap (fun line =>
    (w.windowAt (line * 128)).map (fun (_, r) => (winGlobal r + (line * 128 - winBase r), 128)))

/-- A byte in a stash window marked as written. -/
def Weave.markDirty (w : Weave) (off : Nat) : Weave :=
  match w.windowAt off with
  | none => w
  | some (n, r) =>
    let ix := (off - winBase r) / 32
    let old := match w.sector? n ix with
      | some x => x.written
      | none => 0
    w.setSector { window := n, index := ix, written := old ||| BitVec.ofNat 32 (2 ^ (off % 32)) }

/-! ### Lane and engine views (R109) -/

/-- The engine writes of a list, each with whether lane reads of instruction `n` see it: one seen before, one of whose
transfer an earlier instruction has seen a later sector (R110), or one chosen new (R109). -/
def visibleTo (n : Nat) : List EngineWrite → List (EngineWrite × Bool)
  | [] => []
  | x :: l => (x, x.seen != 0 || l.any (fun y => y.serial == x.serial && y.seen != 0 && y.seen != n)
      || Config.sectorNew n x.serial x.sector) :: visibleTo n l

/-- The oldest write of a sector that lane reads of instruction `n` do not see. -/
def Weave.hidden (w : Weave) (n sec : Nat) : Option EngineWrite :=
  (visibleTo n w.engineWrites).foldl (fun (acc : Option EngineWrite) x =>
    if x.1.sector != sec then acc else if x.2 then none else acc <|> some x.1) none

/-- A lane's read of scratchpad bytes: a sector that an engine wrote, not yet fenced, is old or new as a whole. -/
def Weave.laneSpadRead (w : Weave) (serial : Nat) (offs : List Nat) : List Byte :=
  offs.map (fun o =>
    match w.hidden serial (o / 32) with
    | some x => (x.old[o % 32]?).getD 0
    | none => w.spad.read o)

/-- The engine writes of some sectors that instruction `n` has read new stay new for every lane (R93); `all`: it read the
newest. -/
def Weave.observe (w : Weave) (n : Nat) (offs : List Nat) (all : Bool) : Weave :=
  if w.engineWrites.isEmpty then w
  else
    let secs := offs.map (fun o => o / 32)
    { w with engineWrites := (visibleTo n w.engineWrites).map (fun x =>
        if (x.2 || all) && x.1.seen = 0 && secs.contains x.1.sector then { x.1 with seen := n } else x.1) }

/-- Lane `k`'s store of bytes at consecutive offsets by path `p`. -/
def Weave.laneSpadWrite (w : Weave) (p serial k : Nat) (offs : List Nat) (bytes : List Byte) : Weave :=
  let pairs := offs.zip bytes
  let old := offs.map w.spad.read
  let w := { w with
    spad := pairs.foldl (fun m (o, b) => m.write o b) w.spad
    spadStores := w.spadStores ++
      [{ offset := offs.headD 0, old, new := bytes, serial, lane := k, unfenced := [.C, .M, .S, .F] }]
    engineWrites := w.engineWrites.map (fun x => pairs.foldl (fun x (o, b) =>
      if x.sector = o / 32 then { x with old := setAt x.old (o % 32) b } else x) x) }
  let w := offs.foldl Weave.markDirty w
  w.modifyPath p (fun q => if q.history.contains serial then q else { q with history := q.history ++ [serial] })

/-- The byte at an offset as an engine of a class sees it: the newest store that a fence has ordered before it, or that it
sees, or what stood before the oldest one. -/
def Weave.engineByte (w : Weave) (cls : AccessClass) (read : Nat) (o : Nat) : Byte :=
  let covering := w.spadStores.filter (fun x => x.offset ≤ o && o < x.offset + x.new.length)
  match covering.reverse.find? (fun x => !x.unfenced.contains cls || Config.storeSeen read x.serial x.lane), covering with
  | some x, _ => (x.new[o - x.offset]?).getD 0
  | none, x :: _ => (x.old[o - x.offset]?).getD 0
  | none, [] => w.spad.read o

/-- An engine's read of `n` bytes from an offset. -/
def Weave.engineSpadRead (w : Weave) (cls : AccessClass) (read off n : Nat) : List Byte :=
  (List.range n).map (fun i => w.engineByte cls read (off + i))

/-- An engine's write of bytes, all in one sector, for an operation of a class; `status`: of a copy status word. -/
def Weave.engineSpadWrite (w : Weave) (cls : AccessClass) (op off : Nat) (bytes : List Byte) (status : Bool := false) : Weave :=
  let sec := off / 32
  let w := { w with
    engineWrites := w.engineWrites
      ++ [{ sector := sec, old := w.spad.readBytes (sec * 32) 32, cls, serial := op, status, seen := 0 }]
    spadStores := w.spadStores.filter (fun x => x.offset + x.new.length ≤ off || off + bytes.length ≤ x.offset)
    spad := w.spad.writeBytes off bytes }
  (List.range bytes.length).foldl (fun w i => w.markDirty (off + i)) w

/-- Engine writes ordered before every later lane load leave the list, with the older ones of their sectors. -/
def settleWrites (settled : EngineWrite → Bool) : List EngineWrite → List EngineWrite
  | [] => []
  | x :: l =>
    if settled x || l.any (fun y => y.sector == x.sector && settled y) then settleWrites settled l
    else x :: settleWrites settled l

/-- Lane stores that are ordered before every engine leave the list, oldest first, but for one above an older store that is
not: an engine that does not see the older one sees it. -/
def settleStores (l : List SpadStore) : List SpadStore :=
  l.foldl (fun kept x =>
    if x.unfenced.isEmpty && kept.all (fun y => y.offset + y.new.length ≤ x.offset || x.offset + x.new.length ≤ y.offset)
    then kept else kept ++ [x]) []

/-- What a fence of path `q` over classes orders (R106, R108): its lane stores before those engines, and the writes of
those engines' operations that it has issued, or whose completion it has observed at a barrier, before lanes. -/
def Weave.fenceSpad (w : Weave) (q : Path) (classes : List AccessClass) : Weave :=
  if !classes.contains .L then w
  else
    let left := settleWrites (fun x => classes.contains x.cls && q.history.contains x.serial) w.engineWrites
    { w with
      spadStores := settleStores (w.spadStores.map (fun x =>
        if q.history.contains x.serial then { x with unfenced := x.unfenced.filter (fun c => !classes.contains c) } else x))
      engineWrites := left
      credited := w.credited.filter (fun x => left.any (fun y => y.serial == x.2)) }

/-- The final credit of a copy given to a barrier word. -/
def Weave.creditOver (w : Weave) (off op : Nat) : Weave :=
  if w.engineWrites.any (fun x => x.serial == op) then { w with credited := w.credited ++ [(off, op)] } else w

/-- Path `i` has seen a barrier word pass: the copies that gave it their final credit are complete for it (R108), and
their status words are seen (R176). -/
def Weave.passAb (w : Weave) (i off : Nat) : Weave :=
  let ops := (w.credited.filter (fun x => x.1 == off)).map (fun x => x.2)
  if ops.isEmpty then w
  else
    { w.modifyPath i (fun q => { q with history := (q.history ++ ops).eraseDups }) with
      engineWrites := settleWrites (fun x => x.status && ops.contains x.serial) w.engineWrites }

/-! ### Write-backs (R81, R83) -/

/-- The masked bytes of a DIRTY sector written to global memory at home, once translated, or sent to their owner as one
transfer; the sector becomes CLEAN. The core keeps no older copy (R84). -/
def writeBackSector (s : State) (a : Actor) (op occasion : Nat) (x : Sector) : Got Unit :=
  match s.weave? a.core a.slot with
  | none => .ok s ()
  | some w =>
    match w.windows[x.window]? with
    | none => .ok s ()
    | some r =>
      let va := winGlobal r + 32 * x.index
      let off := winBase r + 32 * x.index
      let runs := (List.range 32).filter (fun i => x.written.getLsbD i)
      let clean := fun (s : State) => s.modifyWeave a.core a.slot (fun w => w.setSector { x with written := 0 })
      (Got.ofXlate (s.translate a.core w.id.ctx va needWrite)).andThen (fun s pl =>
        match pl with
        | .phys pa =>
          let s := runs.foldl (fun s i => s.bringHome a.core (pa + i) 1) s
          .ok (clean (s.writePicked (pa - pa % 128) (runs.map (fun i => (pa % 128 + i, w.spad.read (off + i)))))) ()
        | .remote m c =>
          match s.routeFails m with
          | some i => .fault s (cause 19 i) va (s.routeDetail va m)
          | none =>
            let what := RemoteOp.sector x.written 0 (w.spad.readBytes off 32)
            if s.awaitsCredit m what then .wait s
            else .ok (clean (s.send {
              id := 0, weave := w.id, core := a.core, slot := a.slot, path := a.path, lane := 0, op, port := 0
              module := m, sent := 0, ctx := c, va, what, dest := .writeBack x.window x.index occasion
              pc := 0, next := 0, captured := { sregs := [], aregs := [], rng := 0 }, whole := true, waiting := false })) ())

/-- The DIRTY sectors of the windows that `pick` names, by window and place. -/
def Weave.dirtySectors (w : Weave) (pick : Nat → Bool) : List Sector :=
  (List.range 16).flatMap (fun n =>
    if pick n then
      (sortNat ((w.sectors.filter (fun x => x.window == n && x.written != 0)).map (fun x => x.index))).filterMap (w.sector? n)
    else [])

/-- A write-back of one of these windows is on its way to another module. -/
def State.writingBack (s : State) (id : WeaveId) (pick : Nat → Bool) : Bool :=
  s.requests.any (fun r => r.weave == id && (match r.dest with
    | .writeBack n _ _ => pick n
    | _ => false))

/-- Every DIRTY sector of some windows written back; every page is translated before any is written, and it waits until
other modules have acknowledged theirs (R81). -/
def writeBackAll (s : State) (a : Actor) (op occasion : Nat) (pick : Nat → Bool) : Got Unit :=
  match s.weave? a.core a.slot with
  | none => .ok s ()
  | some w =>
    let ds := w.dirtySectors pick
    (Got.foldl (fun s _ (x : Sector) =>
      match w.windows[x.window]? with
      | none => .ok s ()
      | some r => (Got.ofXlate (s.translate a.core w.id.ctx (winGlobal r + 32 * x.index) needWrite)).andThen
          (fun s _ => .ok s ())) s () ds).andThen (fun s _ =>
        (Got.foldl (fun s _ x => writeBackSector s a op occasion x) s () ds).andThen (fun s _ =>
          if s.writingBack w.id pick then .wait s else .ok s ()))

/-- R82: every CLEAN sector becomes INVALID. -/
def Weave.dropCleanSectors (w : Weave) : Weave := { w with sectors := w.sectors.filter (fun x => x.written != 0) }

end Sys2Proof.Machine
end

