-- ==== Sys2Proof/Machine/Access.lean ====
section
/-! DEFINITION. A lane's access to memory: its address (R277 to R279), its checks in their order (R283), and the
performing of its read, write or atomic update. -/

namespace Sys2Proof.Machine

/-! ### Addresses (R277, R278) -/

/-- What the address of a lane comes to, before translation. -/
inductive LaneAddr where
  | masked
  | bad (f : LaneFault)
  | global (va : Nat)
  | spad (offs : List Nat)

/-- The memory operand's array register, when it has one. -/
def Env.memAreg (e : Env) : Option Nat :=
  match e.f.yOp with
  | .areg n => some n
  | _ => none

/-- Group 3's fault of a lane that is out of range. -/
def Env.boundsFault (e : Env) (n : Nat) (o : Int) (index k : Nat) : LaneFault :=
  { lane := k, cause := cause 3 index, va := 0, detail := boundsDetail (e.index e.f.zOp k + o) e.f.zN o n k }

/-- log2 of a width. -/
def widthLog2 (width : Nat) : Nat := Nat.log2 width

/-- A global address after the checks of R278 and R68. -/
def globalAddr (k : Nat) (a : Int) (raw : Bool) (width : Nat) : LaneAddr :=
  if a < 0 || (if raw then (2 ^ 64 : Int) else 2 ^ 72) ≤ a then
    .bad { lane := k, cause := cause 1 7, va := uwrap 72 a, detail := BitVec.ofNat 96 (uwrap 72 a) }
  else if a.toNat % width != 0 then
    .bad { lane := k, cause := cause 4 0, va := a.toNat, detail := alignDetail a.toNat (widthLog2 width) k }
  else .global a.toNat

/-- Scratchpad offsets after the checks of R71: `at0` is the first byte, `offs` all of them. -/
def spadAddr (w : Weave) (k : Nat) (at0 : Int) (offs : List Int) (width : Nat) : LaneAddr :=
  if at0 % (width : Int) != 0 then
    .bad { lane := k, cause := cause 4 0, va := uwrap 72 at0, detail := alignDetail (uwrap 72 at0) (widthLog2 width) k }
  else if offs.all (fun x => 0 ≤ x && x < (w.spadBytes : Int)) then .spad (offs.map Int.toNat)
  else .bad { lane := k, cause := cause 2 8, va := uwrap 72 at0, detail := BitVec.ofNat 96 (uwrap 72 at0) }

/-- The address of lane `k` for a global form. A CHK of 3 acts as TRAP (log 65). -/
def Env.globalLane (e : Env) (o : Int) (width k : Nat) : LaneAddr :=
  match e.memAreg with
  | some n =>
    let a := e.areg n
    if !e.inRange a o width k then (if aregChk a = 0 then .masked else .bad (e.boundsFault n o 0 k))
    else globalAddr k ((aregBase a : Int) + (e.index e.f.zOp k + o) * (2 ^ aregEsz a : Nat)) false width
  | none => globalAddr k ((e.scalar e.f.yOp : Int) + e.index e.f.zOp k + o) true width

/-- The offsets of lane `k` for a scratchpad form. A CHK of 3 acts as TRAP (log 65). -/
def Env.spadLane (e : Env) (o : Int) (width k : Nat) : LaneAddr :=
  match e.memAreg with
  | some n =>
    let a := e.areg n
    if !e.inRange a o width k then (if aregChk a = 0 then .masked else .bad (e.boundsFault n o 0 k))
    else
      let u := (e.index e.f.zOp k + o) * (2 ^ aregEsz a : Nat)
      let offs : List Int := (List.range width).map (fun (i : Nat) => (aregBase a : Int) +
        (if u < 0 then u + (i : Int) else ((swizzle (u.toNat + i) (aregSwz a) : Nat) : Int)))
      spadAddr e.w k (offs.headD 0) offs width
  | none =>
    let at0 := e.index e.f.yOp k + o
    spadAddr e.w k at0 ((List.range width).map (fun (i : Nat) => at0 + (i : Int))) width

/-- TRAPALL: the lowest out-of-range lane, when the array register's CHK is 2 (R56). -/
def Env.trapAll (e : Env) (o : Int) (width : Nat) : Option Effect :=
  match e.memAreg with
  | none => none
  | some n =>
    let a := e.areg n
    if aregChk a != 2 then none
    else (e.lanes.find? (fun k => !e.inRange a o width k)).map (fun k =>
      .trap (cause 3 1) (e.boundsFault n o 1 k).detail)

/-- A misaligned swizzle origin (R75). -/
def Env.originTrap (e : Env) : Option Effect :=
  match e.memAreg with
  | none => none
  | some n =>
    let a := e.areg n
    let g := originLog2 (aregSwz a)
    if aregBase a % 2 ^ g = 0 then none else some (.trap (cause 4 4) (alignDetail (aregBase a) g 0))

/-- The I32 check of an index or offset in a vector register (R279). -/
def Env.indexTag (e : Env) : Option Effect :=
  let z := if memZUnused (memFormsOf e.i) e.f then none else e.tagFails .i32 e.f.zOp
  if e.memAreg.isSome then z else (e.tagFails .i32 e.f.yOp) <|> z

/-! ### Translation of the lanes -/

/-- A lane whose access will be performed, or is masked out. -/
inductive Target where
  | masked
  | phys (pa : Nat)
  | remote (module ctx va : Nat)
  | spad (offs : List Nat)
deriving DecidableEq, Repr

/-- The lanes found good, and those that fault, both ascending. -/
abbrev Judged := List (Nat × Target) × List LaneFault

/-- One lane judged after its address, for `width` bytes. `store`: the access writes. -/
def Env.judge (e : Env) (need : Need) (store : Bool) (op : RemoteOp) (width : Nat) (s : State) (j : Judged) (k : Nat)
    (a : LaneAddr) : Got Judged :=
  let bad := fun (f : LaneFault) => (j.1, j.2 ++ [f])
  let good := fun (t : Target) => (j.1 ++ [(k, t)], j.2)
  match a with
  | .masked => .ok s (good .masked)
  | .bad f => .ok s (bad f)
  | .global va =>
    (match e.reach s va need with
    | .ok s (.phys pa) => .ok s (good (.phys pa))
    | .ok s (.remote m c) =>
      (match s.routeFails m with
        | some i => .ok s (bad (s.remoteFault k va m i))
        | none =>
          if s.awaitsCredit m op || s.overlapsRemote e.w.id e.p.issued e.serial m c va width then .wait s
          else .ok s (good (.remote m c va)))
    | .fault s c v d => .ok s (bad { lane := k, cause := c, va := v, detail := d, acc := some va })
    | .wait s => .wait s
    | .nowhere x => .nowhere x)
  | .spad offs =>
    match (if store then stashStore s e.a offs else fillLines s e.a offs) with
    | .ok s _ => .ok s (good (.spad offs))
    | .fault s c v d => .ok s (bad { lane := k, cause := c, va := v, detail := d })
    | .wait s => .wait s
    | .nowhere x => .nowhere x

/-- Every acting lane judged, in ascending order. -/
def Env.judgeAll (e : Env) (need : Need) (store : Bool) (op : RemoteOp) (width : Nat) (addr : Nat → LaneAddr) :
    Got Judged :=
  Got.foldl (fun s j k => e.judge need store op width s j k (addr k)) e.s ([], []) e.lanes

/-- What a part of an access that does not go well does to the instruction: the path stops, waits, or the machine. -/
def Got.effect {α : Type} (e : Env) (kind : Nat) (f : State → α → Effect) : Got α → Effect
  | .ok s v => f s v
  | .fault s c va d =>
    let fs := e.lanes.map (fun k => { lane := k, cause := c, va, detail := d : LaneFault })
    let (s, whole) := s.parkLanes e.a (e.site kind) fs
    if whole then .moved s else .done s
  | .wait s => .wait s (.stall 3)
  | .nowhere a => .stop (.hingeAddress a)

/-- A form that acts once for the path: a fault parks the whole path with no lane marked apart (R145, R173). -/
def Got.whole {α : Type} (e : Env) (kind : Nat) (f : State → α → Effect) : Got α → Effect
  | .ok s v => f s v
  | .fault s c _ d => .moved (s.takeStop e.a c d (e.site kind) [] none true)
  | .wait s => .wait s (.stall 3)
  | .nowhere a => .stop (.hingeAddress a)

/-- R279: the access is made once for the path. -/
def Env.uniform (e : Env) (data : List Operand) : Bool :=
  !(memHasVector (memFormsOf e.i) e.f) && data.all (fun o => !o.isV)

/-! ### Formats and data (R280, R281) -/

/-- A value of `n` bytes extended to 64 bits. -/
def extendTo64 (isSigned : Bool) (n v : Nat) : Nat := if isSigned then uwrap 64 (signed (8 * n) v) else v % 2 ^ (8 * n)

/-- Word `j` that a lane receives from the bytes of an access of `width` bytes. -/
def loadedWord (isSigned : Bool) (width : Nat) (bytes : List Byte) (j : Nat) : Nat :=
  if width ≤ 4 then extendTo64 isSigned width (ofBytes bytes) % 2 ^ 32 else ofBytes ((bytes.drop (4 * j)).take 4)

/-- The registers of the group that X names: their numbers. -/
def groupOf (o : Operand) (width : Nat) : List Nat :=
  match o with
  | .vreg n => (List.range (if width ≤ 4 then 1 else width / 4)).map (fun j => n + j)
  | _ => []

/-- The bytes that a store writes for lane `k`. -/
def Env.storeBytes (e : Env) (o : Operand) (width k : Nat) : List Byte :=
  match o with
  | .vreg _ => ((groupOf o width).flatMap (fun n => toBytes 4 (e.vlane n k))).take width
  | .vz => List.replicate width 0
  | _ => toBytes width (e.read 64 o k)

/-- A typed access checks each data register (R280). -/
def Env.groupTags (e : Env) (t : Tag) (o : Operand) (width : Nat) : Option Effect :=
  (groupOf o width).findSome? (fun n => e.tagFails t (.vreg n))

/-! ### Performing an access -/

/-- The bytes that a lane reads, once judged; a remote lane's come with its reply. -/
def Env.performRead (e : Env) (s : State) (width : Nat) (t : Target) : State × List Byte :=
  match t with
  | .phys pa => s.readL1 e.a.core pa width
  | .spad offs =>
    (s.modifyWeave e.a.core e.a.slot (fun w => w.observe e.serial offs false), (e.now s).laneSpadRead e.serial offs)
  | _ => (s, List.replicate width 0)

/-- The bytes that a lane writes. -/
def Env.performWrite (e : Env) (s : State) (k : Nat) (bytes : List Byte) (t : Target) : State :=
  match t with
  | .masked => s
  | .phys pa => s.writeL1 e.a.core pa bytes
  | .spad offs => s.modifyWeave e.a.core e.a.slot (fun w => w.laneSpadWrite e.a.path e.serial k offs bytes)
  | .remote m c va => s.send (e.request k m c va (.store bytes) .none)

/-- Whether a request of this instruction is outstanding. -/
def State.awaits (s : State) (e : Env) : Bool := s.requests.any (fun r => r.op == e.serial && r.weave == e.w.id)

/-- The writes that a load or atomic owes its destination X, for the lanes in `got` with their bytes. -/
def Env.loadWrites (e : Env) (isSigned : Bool) (width : Nat) (got : List (Nat × List Byte)) : List PendingWrite :=
  let bytesOf := fun (k : Nat) => (got.find? (fun x => x.1 == k)).map (fun x => x.2)
  let mask := LaneMask.ofLanes (got.map (fun x => x.1))
  match e.f.xOp with
  | .vreg n =>
    ((groupOf (.vreg n) width).zip (List.range 4)).map (fun (r, j) =>
      .vreg r mask ((List.range e.w.laneCount).map (fun k =>
        match bytesOf k with
        | some b => BitVec.ofNat 32 (loadedWord isSigned width b j)
        | none => 0)))
  | .sreg n =>
    (match got with
      | (_, b) :: _ => [.sreg n (BitVec.ofNat 64 (extendTo64 isSigned width (ofBytes b)))]
      | [] => [])
  | _ => []

/-- The jambs of the registers that X names: TOP (R47). -/
def Env.topJambs (e : Env) (width : Nat) : List (Nat × Jamb) :=
  match e.f.xOp with
  | .vreg n => (groupOf (.vreg n) width).map (fun r => (r, .top))
  | o => dstJamb o .top

/-- Faulting lanes parked (R21), with the jambs updated when the path itself stops (R43). -/
def Env.parkFaults (e : Env) (s : State) (kind : Nat) (fs : List LaneFault) (js : List (Nat × Jamb)) : Effect :=
  if fs.isEmpty then .done s
  else
    let (s, whole) := s.parkLanes e.a (e.site kind) fs
    if whole then .moved (s.modifyWeave e.a.core e.a.slot (fun w => applyJambs w e.a.path e.guarded js)) else .done s

end Sys2Proof.Machine
end

