-- ==== Sys2Proof/Machine/Loads.lean ====
section
/-! DEFINITION. Class 3: loads and stores (R280 to R285), spill and fill (R62, R63, R290), prefetch (R60, R291). -/

namespace Sys2Proof.Machine

/-! ### Operations -/

/-- An operation of this instruction, with the writes it owes. -/
def Env.start (e : Env) (w : Weave) (cls : Option AccessClass) (kind : OpKind) (writes : List PendingWrite) : Weave :=
  w.startOp e.a.path e.f.setN { id := e.serial, owner := e.a.path, cls, kind, writes }

/-- An operation that owes nothing is kept only for its counter, or while requests of it are outstanding. -/
def Env.startIf (e : Env) (s : State) (cls : AccessClass) : State :=
  if s.awaits e then s.modifyWeave e.a.core e.a.slot (fun w => e.start w (some cls) .remote [])
  else if e.f.setN = 0 then s
  else s.modifyWeave e.a.core e.a.slot (fun w => e.start w (some cls) .store [])

/-- Whether a class L access of the path's history is on its way to another module (R113). -/
def Env.awaitsRemote (e : Env) : Bool := (e.w.opsOf e.p [.L]).any (fun o => o.kind == .remote)

/-- The result predicate of a load in the judged lanes: false where masked. -/
def predLanes (good : List (Nat × Target)) : LaneMask × LaneMask :=
  (LaneMask.ofLanes (good.map (fun x => x.1)),
   LaneMask.ofLanes ((good.filter (fun x => x.2 != .masked)).map (fun x => x.1)))

/-- The lanes that make the access: the lowest alone for a uniform one (R279). -/
def onceIf (uniform : Bool) (good : List (Nat × Target)) : List (Nat × Target) := if uniform then good.take 1 else good

/-- Results owed to X and to the predicate `pd`; with X = vz the predicate is written at once (R204). -/
def Env.oweResults (e : Env) (s : State) (isSigned : Bool) (width : Nat) (good : List (Nat × Target))
    (got : List (Nat × List Byte)) (pd : Operand) : State :=
  let remote := s.awaits e
  let writes := e.loadWrites isSigned width got
  let writes := match e.f.xOp, writes with
    | .sreg n, [] => [.sreg n (e.w.sreg n)]
    | _, ws => ws
  let (mask, bits) := predLanes good
  let writes := match pd with
    | .pred n => if e.f.xOp == .vz then writes else writes ++ [.pred n mask bits]
    | _ => writes
  let s := match pd with
    | .pred n => if e.f.xOp == .vz then s.modifyWeave e.a.core e.a.slot (fun w => e.setPred w n mask bits) else s
    | _ => s
  if remote then s.modifyWeave e.a.core e.a.slot (fun w => e.start w (some .L) .remote writes)
  else if writes.isEmpty then e.startIf s .L
  else s.modifyWeave e.a.core e.a.slot (fun w => e.start w (some .L) .result writes)

/-! ### Page heat (R58, R60) -/

/-- The lines of [lo, hi) that lie in a page. -/
def linesInPage (lo hi page : Nat) : Nat :=
  let a := max lo (page * 65536)
  let b := min hi ((page + 1) * 65536)
  if b ≤ a then 0 else (b - 1) / 128 - a / 128 + 1

/-- Lines added to the heat counter of a page of the HBM or CXL tier, saturating at 16 bits. -/
def State.heatPage (s : State) (ctx page lines : Nat) : State :=
  match s.walk ctx (page * 65536) with
  | .leaf e _ size sub =>
    let l := Leaf.of e sub
    let pa := l.pa sub size (page * 65536)
    if sub || 2 ≤ l.tier then s
    else s.modifyDie (homeDie pa) (fun d =>
      let k := pa / 65536
      let n := ((Table.find? d.heat k).map (fun (h : Heat) => h.count)).getD 0
      { d with heat := Table.set d.heat k { count := min 65535 (n + lines), ctx, va := page * 65536 } })
  | _ => s

/-- The footprint [lo, hi) of an access of `width` bytes indexed through array register `n` (R54, R58): none under TOP. -/
def Env.footprint (e : Env) (n : Nat) (o : Int) (width : Nat) : Option (Nat × Nat) :=
  let a := e.areg n
  let (l, h) := e.indexJamb e.f.zOp
  let full := match e.f.zOp with
    | .vreg _ => l == minInt 32 && h == maxInt 32
    | .sreg _ => l == minInt 64 && h == maxInt 64
    | _ => false
  if full then none
  else
    let esz : Int := (2 ^ aregEsz a : Nat)
    some ((clampInt ((aregBase a : Int) + (l + o) * esz) 0 (2 ^ 72 : Nat)).toNat,
      (clampInt ((aregBase a : Int) + (h + o) * esz + width) 0 (2 ^ 72 : Nat)).toNat)

/-- The heat that a footprint adds when its array register has PLACE = 1 (R60). -/
def Env.addHeat (e : Env) (s : State) (n : Nat) (o : Int) (width : Nat) : State :=
  match e.footprint n o width with
  | none => s
  | some (lo, hi) =>
    if !aregPlace (e.areg n) then s
    else (List.range ((hi + 65535) / 65536 - lo / 65536)).foldl (fun s j =>
      let page := lo / 65536 + j
      s.heatPage e.w.id.ctx page (linesInPage lo hi page)) s

/-- Where an address lies that a prefetch may read without a fault: mapped, readable by the weave, in the HBM or CXL tier,
and of no other owner (R60, R291, R384). -/
def State.prefetchPlace (s : State) (ctx va : Nat) : Option Nat :=
  match s.walk ctx va with
  | .leaf e _ size sub =>
    let l := Leaf.of e sub
    let pa := l.pa sub size va
    let f := s.frame (frameKey l.tier (pa / 65536))
    if l.frameBad sub size || (l.w && l.x) || (l.denies needRead).isSome || l.poison || l.migr || 2 ≤ l.tier then none
    else if sub || (!f.free && (f.shared || f.owner == ctx)) then some pa else none
  | _ => none

/-- Bytes [va, va + n) of one page brought into the die's L2, and into the L1 unless `l2Only`. -/
def State.prefetch (s : State) (c ctx va n : Nat) (l2Only : Bool) : State :=
  match s.prefetchPlace ctx va with
  | none => s
  | some pa => (pieces 128 pa n).foldl (fun s x =>
      if l2Only then (s.readL2 (dieOf c) x.1 x.2).1 else (s.readL1 c x.1 x.2).1) s

/-- R60: a footprint of more than 32 lines and at most 1 MiB is prefetched into the L2 when some channel is idle. -/
def Env.prefetchFootprint (e : Env) (s : State) (n : Nat) (o : Int) (width : Nat) : State :=
  match e.footprint n o width with
  | none => s
  | some (lo, hi) =>
    let idle := (List.range 4).any (fun ch => ((Table.find? (s.core e.a.core).channels ch).getD []).isEmpty)
    let first := lo / 128 * 128
    let last := (hi + 127) / 128 * 128
    if !idle || hi ≤ lo || last ≤ first + 32 * 128 || lo + 2 ^ 20 < hi then s
    else (pieces 4096 first (last - first)).foldl (fun s x => s.prefetch e.a.core e.w.id.ctx x.1 x.2 true) s

/-- R59: the lines of a footprint of at most 32 lines are reserved: the L1 allocates them all, in ascending order. The
reservation lasts for the load alone, so that at most these are reserved at once (log 4). -/
def Env.reserveFootprint (e : Env) (s : State) (n : Nat) (o : Int) (width : Nat) : State :=
  match e.footprint n o width with
  | none => s
  | some (lo, hi) =>
    let first := lo / 128 * 128
    let last := (hi + 127) / 128 * 128
    if hi ≤ lo || first + 32 * 128 < last then s
    else (pieces 4096 first (last - first)).foldl (fun s x => s.prefetch e.a.core e.w.id.ctx x.1 x.2 false) s

/-- Heat of an indexed global form. -/
def Env.heatIndexed (e : Env) (s : State) (o : Int) (width : Nat) : State :=
  match e.memAreg with
  | some n => e.addHeat s n o width
  | none => s

/-- The prefetch of an indexed global load. -/
def Env.prefetchIndexed (e : Env) (s : State) (o : Int) (width : Nat) : State :=
  match e.memAreg with
  | some n => e.prefetchFootprint s n o width
  | none => s

/-- The reservation of an indexed global load. -/
def Env.reserveIndexed (e : Env) (s : State) (o : Int) (width : Nat) : State :=
  match e.memAreg with
  | some n => e.reserveFootprint s n o width
  | none => s

/-! ### Loads (R283) -/

/-- Registers of X tagged (R280). -/
def Weave.tagGroup (w : Weave) (o : Operand) (width : Nat) (t : Tag) : Weave :=
  (groupOf o width).foldl (fun w n => w.writeTag n t) w

/-- The first trap that a memory form of the path takes before any lane: the index's tag, the swizzle's origin, and
TRAPALL (R56, R75, R279). -/
def Env.memTrap (e : Env) (spad : Bool) (o : Int) (width : Nat) : Option Effect :=
  e.indexTag <|> (if spad then e.originTrap else none) <|> e.trapAll o width

/-- The address of a lane in the form's space. -/
def Env.laneAddr (e : Env) (spad : Bool) (o : Int) (width k : Nat) : LaneAddr :=
  if spad then e.spadLane o width k else e.globalLane o width k

/-- The request of a load to a vector register at one address: it is read once, for every acting lane (R279). -/
def Env.sendOnce (e : Env) (s : State) (isSigned : Bool) (width reg : Nat) (good : List (Nat × Target)) : State :=
  match good with
  | (k, .remote m c va) :: _ =>
    s.send (e.request k m c va (.load width) (.lanes (LaneMask.ofLanes (good.map (fun x => x.1))) reg width isSigned))
  | _ => s

/-- The requests for the remote lanes of a load. -/
def Env.sendLoads (e : Env) (s : State) (isSigned : Bool) (width : Nat) (good : List (Nat × Target)) : State :=
  good.foldl (fun s (k, t) =>
    match t with
    | .remote m c va =>
      let dest := match e.f.xOp with
        | .vreg n => RemoteDest.lane k n false width isSigned
        | .sreg n => RemoteDest.lane k n true width isSigned
        | _ => RemoteDest.none
      s.send (e.request k m c va (.load width) dest)
    | _ => s) s

def Target.isRemote : Target → Bool
  | .remote .. => true
  | _ => false

/-- The form of LD, LDR and LDS. A load tags its destination with the tag of its FMT (R280, R283), LDR too, although R132 calls
it raw at any width (log 78). -/
def loadForm (spad hasPd : Bool) : Form :=
  { jambs := fun e => e.topJambs (widthBytes e.f.width)
    body := fun e =>
      let width := widthBytes e.f.width
      let o := offset14 e.f
      let isSigned := e.f.fmt == 1
      match e.memTrap spad o width with
      | some t => t
      | none =>
        (e.judgeAll needRead false (.load width) width (e.laneAddr spad o width)).effect e 0 (fun s j =>
          let s := s.modifyWeave e.a.core e.a.slot (fun w => w.tagGroup e.f.xOp width (Tag.ofCode e.f.fmt))
          let s := if spad then s else e.reserveIndexed (e.prefetchIndexed (e.heatIndexed s o width) o width) o width
          let uniform := e.uniform [e.f.xOp]
          let makers := onceIf uniform j.1
          let (s, got) := (makers.filter (fun x => !x.2.isRemote)).foldl (fun (acc : State × List (Nat × List Byte)) x =>
            let (s, b) := e.performRead acc.1 width x.2
            (s, acc.2 ++ [(x.1, b)])) (s, [])
          let s := match e.uniform [], e.f.xOp with
            | true, .vreg n => e.sendOnce s isSigned width n makers
            | _, _ => e.sendLoads s isSigned width makers
          let s := if j.1.isEmpty then s else e.oweResults s isSigned width j.1 got (if hasPd then e.f.wOp else .pT)
          e.parkFaults s 0 j.2 (e.topJambs width)) }

def execLd (f : Fields) (s : State) : Host.Outcome State Fault Refusal := issue (.ld f) (loadForm false true) s
def execLdr (f : Fields) (s : State) : Host.Outcome State Fault Refusal := issue (.ldr f) (loadForm false false) s
def execLds (f : Fields) (s : State) : Host.Outcome State Fault Refusal := issue (.lds f) (loadForm true true) s

/-! ### Stores (R284) -/

/-- The form of ST, STR and STS. A store with a FMT checks its data's tag (R280), STR's too, although R133 says of raw stores
that they check nothing (log 78). -/
def storeForm (spad : Bool) : Form :=
  { body := fun e =>
      let width := widthBytes e.f.width
      let o := offset14 e.f
      match e.memTrap spad o width
          <|> (if e.f.fmt = 0 then none else e.groupTags (Tag.ofCode e.f.fmt) e.f.xOp width) with
      | some t => t
      | none =>
        (e.judgeAll needWrite true (.store []) width (e.laneAddr spad o width)).effect e 1 (fun s j =>
          let s := if spad then s else e.heatIndexed s o width
          let makers := onceIf (e.uniform [e.f.xOp]) j.1
          let s := makers.foldl (fun s x => e.performWrite s x.1 (e.storeBytes e.f.xOp width x.1) x.2) s
          e.parkFaults (if j.1.isEmpty then s else e.startIf s .L) 1 j.2 []) }

def execSt (f : Fields) (s : State) : Host.Outcome State Fault Refusal := issue (.st f) (storeForm false) s
def execStr (f : Fields) (s : State) : Host.Outcome State Fault Refusal := issue (.str f) (storeForm false) s
def execSts (f : Fields) (s : State) : Host.Outcome State Fault Refusal := issue (.sts f) (storeForm true) s

/-! ### Ranges of bytes for a path as a whole -/

/-- Where each piece of a range lies; pieces stay within 4 KiB. -/
def Env.placeRange (e : Env) (s : State) (va n : Nat) (need : Need) : Got (List (Nat × Nat × Place)) :=
  Got.foldl (fun s l (x : Nat × Nat) =>
    (e.reach s x.1 need).andThen (fun s p => .ok s (l ++ [(x.1, x.2, p)]))) s [] (pieces 4096 va n)

/-- A class L read of a physical range. -/
def State.readLines (s : State) (c pa n : Nat) : State × List Byte :=
  (pieces 128 pa n).foldl (fun (acc : State × List Byte) x =>
    let (s, b) := acc.1.readL1 c x.1 x.2
    (s, acc.2 ++ b)) (s, [])

/-- A class L write of a physical range. -/
def State.writeLines (s : State) (c pa : Nat) (bytes : List Byte) : State :=
  (pieces 128 pa bytes.length).foldl (fun s x => s.writeL1 c x.1 ((bytes.drop (x.1 - pa)).take x.2)) s

/-- Remote bytes for the instruction as a whole: what has arrived, or a request and a wait; it waits for the path's own
earlier accesses that it overlaps (R93, R94). -/
def Env.fetchRemote (e : Env) (s : State) (m ctx va n : Nat) : Got (List Byte) :=
  if s.overlapsRemote e.w.id e.p.issued e.serial m ctx va n then .wait s
  else e.remoteStep s (loadKey va n) m ctx va (.load n)

/-- A read of a range, through the L1 or at home. -/
def Env.readRange (e : Env) (s : State) (home : Bool) (va n : Nat) (need : Need := needRead) : Got (List Byte) :=
  (e.placeRange s va n need).andThen (fun s ps =>
    Got.foldl (fun s l (x : Nat × Nat × Place) =>
      match x.2.2 with
      | .phys pa =>
        if home then .ok (s.touch pa) (l ++ s.engineRead pa x.2.1)
        else
          let (s, b) := s.readLines e.a.core pa x.2.1
          .ok s (l ++ b)
      | .remote m c => (e.fetchRemote s m c x.1 x.2.1).andThen (fun s b => .ok s (l ++ b))) s [] ps)

/-- A number read from a range. -/
def Env.readRangeNat (e : Env) (s : State) (home : Bool) (va n : Nat) (need : Need := needRead) : Got Nat :=
  (e.readRange s home va n need).andThen (fun s b => .ok s (ofBytes b))

/-- Bytes written to a range already placed: through the L1, or at home; a remote piece is sent. -/
def Env.writePlaced (e : Env) (s : State) (home : Bool) (va : Nat) (bytes : List Byte)
    (ps : List (Nat × Nat × Place)) : State :=
  ps.foldl (fun s (x : Nat × Nat × Place) =>
    let b := (bytes.drop (x.1 - va)).take x.2.1
    match x.2.2 with
    | .phys pa => if home then s.performHome e.a.core pa b else s.writeLines e.a.core pa b
    | .remote m c => s.send (e.request 0 m c x.1 (.store b) .none)) s

/-- Whether the remote pieces of a write may go, now: the first failure, or a wait for credits, or for the path's own
earlier accesses that it overlaps (R93, R94). -/
def Env.mayWrite (e : Env) (s : State) (ps : List (Nat × Nat × Place)) : Got Unit :=
  Got.foldl (fun s _ (x : Nat × Nat × Place) =>
    match x.2.2 with
    | .phys _ => .ok s ()
    | .remote m c =>
      match s.routeFails m with
      | some i => .fault s (cause 19 i) x.1 (s.routeDetail x.1 m)
      | none =>
        if s.awaitsCredit m (.store []) || s.overlapsRemote e.w.id e.p.issued e.serial m c x.1 x.2.1 then .wait s
        else .ok s ()) s () ps

/-! ### SPILL and FILL (R62, R63, R290) -/

/-- The block's address, or the trap or fault of R278 and R62. -/
def Env.blockAddr (e : Env) : Int := (e.scalar e.f.yOp : Int) + e.index e.f.zOp 0 + offset14 e.f

/-- The checks on a raw uniform address that must be aligned to 2^log2. -/
def Env.withRaw (e : Env) (log2 kind : Nat) (k : Nat → Effect) : Effect :=
  let a := e.blockAddr
  if a < 0 || (2 ^ 64 : Int) ≤ a then
    (Got.fault e.s (cause 1 7) (uwrap 72 a) (BitVec.ofNat 96 (uwrap 72 a)) : Got Unit).effect e kind (fun s _ => .done s)
  else if a.toNat % 2 ^ log2 != 0 then structAlign a.toNat log2
  else k a.toNat

/-- A jamb as a trailer holds it (R62). -/
def trailer (scalar : Bool) (t : Tag) (j : Jamb) : Nat :=
  let w := if scalar then 64 else 32
  uwrap 64 (j.lo w) + uwrap 64 (j.hi w) * 2 ^ 64 + t.code * 2 ^ 128 + bit01 (j == .top) * 2 ^ 132 + bit01 scalar * 2 ^ 133

/-- The bytes of a spill block that SPILL writes, as (offset, bytes). The TAG of a scalar's trailer is 0 (log 75). -/
def Env.spillParts (e : Env) : List (Nat × List Byte) :=
  match e.f.xOp with
  | .sreg n =>
    [(0, toBytes 8 (e.sreg n).toNat ++ List.replicate 24 0), (32, toBytes 32 (trailer true .untyped (e.jambAt 64 (.sreg n))))]
  | .vreg n =>
    e.lanes.map (fun k => (4 * k, toBytes 4 (e.vlane n k)))
      ++ [(4 * e.w.laneCount, toBytes 32 (trailer false (e.w.tag n) (e.jambAt 32 (.vreg n))))]
  | _ => []

def spillForm : Form :=
  { body := fun e => e.withRaw 5 1 (fun va =>
      let parts := e.spillParts
      (Got.foldl (fun s l (x : Nat × List Byte) =>
        (e.placeRange s (va + x.1) x.2.length needWrite).andThen (fun s ps =>
          (e.mayWrite s ps).andThen (fun s _ => .ok s (l ++ [(x, ps)])))) e.s [] parts).effect e 1 (fun s placed =>
        let s := placed.foldl (fun s (x, ps) => e.writePlaced s false (va + x.1) x.2 ps) s
        .done (e.startIf s .L))) }

def execSpill (f : Fields) (s : State) : Host.Outcome State Fault Refusal := issue (.spill f) spillForm s

/-- R63's checks of a trailer against X's class. -/
def trailerBad (scalar : Bool) (t : Nat) : Bool :=
  let lo := signed 64 t
  let hi := signed 64 (t / 2 ^ 64)
  bits t 255 134 != 0 || bitAt t 133 != scalar || hi < lo
    || (!scalar && (lo < minInt 32 || maxInt 32 < hi))

/-- FILL once its trailer and data have been read. -/
def fillEffect (e : Env) (s : State) (scalar : Bool) (t : Nat) (data : List Byte) : Effect :=
  if trailerBad scalar t then .trap (cause 6 1) (BitVec.ofNat 96 ((e.f.xN % 1024) * 2 ^ 8))
  else
    let top := bitAt t 132
    let lo := signed 64 t
    let hi := signed 64 (t / 2 ^ 64)
    let wd := if scalar then 64 else 32
    let word := fun (k : Nat) => if scalar then ofBytes (data.take 8) else ofBytes ((data.drop (4 * k)).take 4)
    let active := e.p.mask.lanes e.w.laneCount
    match (if top then none else active.find? (fun k => let v := signed wd (word k); !(lo ≤ v && v ≤ hi))) with
    | some k => .trap (cause 3 5) (boundsDetail (signed wd (word k)) e.f.xN 0 0 k)
    | none =>
      let j := if top then Jamb.top else Jamb.mk wd lo hi
      let s := s.modifyWeave e.a.core e.a.slot (fun w => w.writeJamb e.a.path e.f.xOp.code j (!e.f.unguarded || top))
      match e.f.xOp with
      | .sreg n =>
        if top then .done (s.modifyWeave e.a.core e.a.slot (fun w => e.start w (some .L) .result [.sreg n (BitVec.ofNat 64 (word 0))]))
        else .done (s.modifyWeave e.a.core e.a.slot (fun w => e.setScalar w n (word 0)))
      | .vreg n =>
        let tag := Tag.ofCode (bits t 131 128)
        let s := s.modifyWeave e.a.core e.a.slot (fun w => w.writeTag n tag)
        if top then .done (s.modifyWeave e.a.core e.a.slot (fun w =>
          e.start w (some .L) .result (oweLanes n e.acting e.w.laneCount word)))
        else .done (s.modifyWeave e.a.core e.a.slot (fun w => e.setLanes w n e.acting word))
      | _ => .done s

/-- FILL (R63, R290). With no acting lane it reads nothing and leaves the jamb (R43, log 75). -/
def fillForm : Form :=
  { body := fun e => e.withRaw 5 0 (fun va =>
      let scalar := e.f.xOp.isS
      let n := if scalar then 32 else 4 * e.w.laneCount
      (e.readRange e.s false va n).effect e 0 (fun s data =>
        (e.readRangeNat s false (va + n) 32).effect e 0 (fun s t => fillEffect e s scalar t data))) }

def execFill (f : Fields) (s : State) : Host.Outcome State Fault Refusal := issue (.fill f) fillForm s

/-! ### PREF (R60, R61, R291) -/

/-- PREF brings the lines that the acting lanes would touch into the L1, or into the L2 alone with .NOL1, and an indexed one
adds heat and starts the prefetch of its footprint; a lane that a load would fault is skipped. -/
def prefForm : Form :=
  { body := fun e =>
      let o := offset14 e.f
      let width := widthBytes e.f.width
      match e.indexTag with
      | some t => t
      | none =>
        .done (e.lanes.foldl (fun s k =>
          match e.globalLane o width k with
          | .global va => s.prefetch e.a.core e.w.id.ctx va width (e.f.cache == 3)
          | _ => s) (e.prefetchIndexed (e.heatIndexed e.s o width) o width)) }

def execPref (f : Fields) (s : State) : Host.Outcome State Fault Refusal := issue (.pref f) prefForm s

end Sys2Proof.Machine
end

