-- ==== Sys2Proof/Machine/Atomics.lean ====
section
/-! DEFINITION. Class 3: atomics (R286 to R289). -/

namespace Sys2Proof.Machine

/-! ### The operation (R287) -/

/-- new(old, v) on `8 n`-bit patterns, with the compare value c. -/
def atomicNew (aop n old v c : Nat) : Nat :=
  let w := 8 * n
  match aop with
  | 0 => (old + v) % 2 ^ w
  | 1 => if signed w old ≤ signed w v then old else v
  | 2 => if signed w v ≤ signed w old then old else v
  | 3 => min old v
  | 4 => max old v
  | 5 => old &&& v
  | 6 => old ||| v
  | 7 => old ^^^ v
  | 8 => v
  | 9 => if old = c then v else old
  | 10 => fp32.encode 0 false false 0 (FVal.add 0 (fp32.decode old) (fp32.decode v))
  | 11 => fpSelect fp32 true old v
  | _ => fpSelect fp32 false old v

/-- The tag checked on v and written to d; none for the bitwise and exchange operations. -/
def atomicTag (aop : Nat) : Option Tag := if aop ≤ 4 then some .i32 else if aop ≤ 9 then none else some .f32

/-- MIN and MAX of a signed type: a 32-bit result is sign-extended into a scalar register (log 18). -/
def atomicSigned (aop : Nat) : Bool := aop == 1 || aop == 2

/-- The o of an atomic: IMM[11:0] (R209). -/
def offset12 (f : Fields) : Int := signed 12 (bits f.immN 11 0)
def atomicOrder (f : Fields) : Nat := bits f.immN 13 12

/-- An operand of an atomic in lane `k`: a register, an even pair, or an immediate; a small immediate of an F32 operation
is the integer it holds, converted (R198). -/
def Env.atomicArg (e : Env) (o : Operand) (n k : Nat) : Nat :=
  match o with
  | .vreg r => if n = 4 then e.vlane r k else e.vlane r k + e.vlane (r + 1) k * 2 ^ 32
  | .vz => 0
  | .small v => if 10 ≤ Fields_aop e.f then fp32.encode 0 false false 0 (.ofInteger v) else uwrap (8 * n) v
  | _ => e.read (8 * n) o k

/-- R289: host memory without CXL.cache carries only FetchAdd, Swap and CAS. -/
def hostAtomicOk (aop : Nat) : Bool := aop == 0 || aop == 8 || aop == 9

/-- The operand v of each form: W, and X for RED. -/
def atomicV (red : Bool) (f : Fields) : Operand := if red then f.xOp else f.wOp

/-- One lane's update where its target lies. Answers the state and the old bytes. -/
def Env.performAtomic (e : Env) (s : State) (red : Bool) (n k : Nat) (t : Target) : State × List Byte :=
  let v := e.atomicArg (atomicV red e.f) n k
  let c := if red then 0 else e.atomicArg e.f.xOp n k
  let aop := Fields_aop e.f
  let update := fun (old : List Byte) => toBytes n (atomicNew aop n (ofBytes old) v c)
  match t with
  | .masked => (s, List.replicate n 0)
  | .phys pa => s.atomicAt e.a.core e.f.scope pa n update
  | .spad offs =>
    let old := offs.map (e.now s).spad.read
    (s.modifyWeave e.a.core e.a.slot (fun w =>
      (w.observe e.serial offs true).laneSpadWrite e.a.path e.serial k offs (update old)), old)
  | .remote m ctx va =>
    let dest := match red, e.f.xOp with
      | false, .vreg r => RemoteDest.lane k r false n (atomicSigned aop)
      | false, .sreg r => RemoteDest.lane k r true n (atomicSigned aop)
      | _, _ => RemoteDest.none
    (s.send (e.request k m ctx va (.atomic aop n v c) dest), List.replicate n 0)

/-- R289's fault for a lane on host memory. -/
def hostAtomicFault (k va : Nat) : LaneFault := { lane := k, cause := cause 2 12, va, detail := BitVec.ofNat 96 va }

/-- Lanes on host memory whose operation the link does not carry move from the good to the faulting ones. -/
def judgeHost (s : State) (f : Fields) (va : Nat → Nat) (j : Judged) : Judged :=
  if s.hostCxl || hostAtomicOk (Fields_aop f) || f.scope < 7 then j
  else
    let bad := fun (x : Nat × Target) => match x.2 with
      | .phys pa => isHost pa
      | _ => false
    (j.1.filter (fun x => !bad x), j.2 ++ (j.1.filter bad).map (fun x => hostAtomicFault x.1 (va x.1)))

/-- Later accesses of a path perform after its .ACQ atomic (R103): one that went to another module holds the path, its
destination's jambs updated at issue all the same (R43). -/
def Env.heldFor (e : Env) (js : List (Nat × Jamb)) : Effect → Effect
  | .done s =>
    if atomicOrder e.f % 2 = 1 && s.awaits e then
      let s := s.modifyWeave e.a.core e.a.slot (fun w => applyJambs w e.a.path e.guarded js)
      .moved (s.modifyPath e.a (fun q => { q.goOn e.next with cond := .blocked (.hold e.serial) }))
    else .done s
  | x => x

/-- The shared form of ATOM, RED and ATOMS (R288). -/
def atomicForm (spad red : Bool) : Form :=
  { jambs := fun e => if red then [] else e.topJambs (widthBytes e.f.width)
    body := fun e =>
      let n := widthBytes e.f.width
      let o := offset12 e.f
      let aop := Fields_aop e.f
      let tagTrap := match atomicTag aop with
        | some t => e.groupTags t (atomicV red e.f) n
        | none => none
      match e.memTrap spad o n <|> tagTrap with
      | some t => t
      | none =>
        if 2 ≤ atomicOrder e.f && e.awaitsRemote then .wait e.s (.stall 7) else
        (e.judgeAll needBoth true (.atomic aop n 0 0) n (e.laneAddr spad o n)).effect e 2 (fun s j =>
          let vaOf := fun (k : Nat) => match e.laneAddr spad o n k with
            | .global va => va
            | _ => 0
          let j := judgeHost s e.f vaOf j
          -- .REL: the path's earlier accesses perform at the point of the scope first (R103)
          let s := if !spad && 2 ≤ atomicOrder e.f then s.release e.a.core e.f.scope else s
          let s := if spad then s else e.heatIndexed s o n
          let uniform := e.uniform (if red then [e.f.xOp] else [e.f.xOp, e.f.wOp])
          let makers := onceIf uniform j.1
          let (s, got) := makers.foldl (fun (acc : State × List (Nat × List Byte)) x =>
            let (s, b) := e.performAtomic acc.1 red n x.1 x.2
            (s, if x.2.isRemote then acc.2 else acc.2 ++ [(x.1, b)])) (s, [])
          if red then e.heldFor [] (e.parkFaults (if j.1.isEmpty then s else e.startIf s .L) 2 j.2 [])
          else
            let t := (atomicTag aop).getD .untyped
            let s := s.modifyWeave e.a.core e.a.slot (fun w => w.tagGroup e.f.xOp n t)
            let s := if j.1.isEmpty then s else e.oweResults s (atomicSigned aop) n j.1 got .pT
            e.heldFor (e.topJambs n) (e.parkFaults s 2 j.2 (e.topJambs n))) }

def execAtom (f : Fields) (s : State) : Host.Outcome State Fault Refusal := issue (.atom f) (atomicForm false false) s
def execRed (f : Fields) (s : State) : Host.Outcome State Fault Refusal := issue (.red f) (atomicForm false true) s
def execAtoms (f : Fields) (s : State) : Host.Outcome State Fault Refusal := issue (.atoms f) (atomicForm true false) s

end Sys2Proof.Machine
end

