-- ==== Sys2Proof/Machine/Sync.lean ====
section
/-! DEFINITION. Stash forms (R292 to R294) and class 4 but for hoops and queues: phases, fences, BAR, arrival
barriers, WAITC, YIELD and SLEEP (R295 to R305). -/

namespace Sys2Proof.Machine

/-! ### Stash forms -/

/-- Whether an engine operation of the weave that may read or write the scratchpad is outstanding; a superset of those on the window's range, which
changes timing alone. -/
def Weave.engineBusy (w : Weave) : Bool :=
  w.ops.any (fun o => match o.cls with
    | some .C | some .M | some .S => true
    | some .F => (match o.kind with
      | .copy _ => true
      | _ => false)
    | _ => false)

/-- [a, a + n) and [b, b + m) overlap. -/
def overlap (a n b m : Nat) : Bool := a < b + m && b < a + n

/-- STASH (R76, R77, R292). A global range that passes 2^72 is not checked (log 76). -/
def stashForm : Form :=
  { body := fun e =>
      let n := e.f.xN % 16
      let g := match e.f.yOp with
        | .areg r => aregBase (e.areg r)
        | o => e.scalar o
      let soff := e.scalar e.f.zOp
      let lines := e.scalar e.f.wOp
      let bad := fun (index : Nat) => Effect.trap (cause 2 index) (BitVec.ofNat 96 (g % 2 ^ 72))
      if e.w.stashCount ≤ n then bad 9
      else if g % 128 != 0 then structAlign g 7
      else if soff % 128 != 0 then structAlign soff 7
      else if lines = 0 || 3072 < lines || e.w.spadBytes < soff + 128 * lines then bad 10
      else if e.w.windows.any (fun r => winValid r
          && (overlap soff (128 * lines) (winBase r) (winLen r) || overlap g (128 * lines) (winGlobal r) (winLen r))) then bad 10
      else if (e.w.windows[n]?).any winValid then bad 10
      else if e.w.engineBusy then .wait e.s (.stall 8)
      else
        let r := BitVec.ofNat 128 (g + lines * 2 ^ 72 + soff / 128 * 2 ^ 84 + e.f.modN % 2 * 2 ^ 96 + 2 ^ 97)
        .done (e.put e.s { e.w with windows := setAt e.w.windows n r }) }

def execStash (f : Fields) (s : State) : Host.Outcome State Fault Refusal := issue (.stash f) stashForm s

/-- STASH_SLOT (R293, R294). -/
def stashSlot (n : Nat) : Effect := .trap (cause 2 9) (BitVec.ofNat 96 n)

def unstashForm : Form :=
  { body := fun e =>
      let n := e.f.xN % 16
      if e.w.stashCount ≤ n then stashSlot n
      else if !(e.w.windows[n]?).any winValid then .done e.s
      else if e.w.engineBusy then .wait e.s (.stall 8)
      else (writeBackAll e.s e.a e.serial 1 (fun m => m == n)).whole e 1 (fun s _ =>
        let s := s.modifyWeave e.a.core e.a.slot (fun w => { w with
          windows := setAt w.windows n 0, sectors := w.sectors.filter (fun x => x.window != n) })
        .done (e.startIf s .C)) }

def execUnstash (f : Fields) (s : State) : Host.Outcome State Fault Refusal := issue (.unstash f) unstashForm s

def stwbForm : Form :=
  { body := fun e =>
      let n := e.f.xN % 16
      let all := e.f.modN == 1
      if !all && e.w.stashCount ≤ n then stashSlot n
      else (writeBackAll e.s e.a e.serial 1 (fun m => (all || m == n) && (e.w.windows[m]?).any winValid)).whole e 1
        (fun s _ => .done (e.startIf s .C)) }

def execStwb (f : Fields) (s : State) : Host.Outcome State Fault Refusal := issue (.stwb f) stwbForm s

/-! ### PHASE, FENCE, FENCEX (R98 to R106, R295, R296) -/

/-- The release and acquire of a phase boundary of the issuing path; stash windows at .cl or wider (R81, R82). -/
def phaseForm : Form :=
  { body := fun e =>
      let scope := e.f.modN
      if e.awaitsRemote then .wait e.s (.stall 11)
      else if scope ≤ 2 then .done e.s
      else (writeBackAll e.s e.a e.serial 1 (fun _ => true)).whole e 1 (fun s _ =>
        let s := (s.release e.a.core scope).acquire e.a.core scope
        .done (s.modifyWeave e.a.core e.a.slot Weave.dropCleanSectors)) }

def execPhase (f : Fields) (s : State) : Host.Outcome State Fault Refusal := issue (.phase f) phaseForm s

/-- FENCE: class L accesses perform at issue, so only those to other modules are waited for. -/
def fenceForm : Form :=
  { body := fun e => if e.awaitsRemote then .wait e.s (.stall 7) else .done e.s }

def execFence (f : Fields) (s : State) : Host.Outcome State Fault Refusal := issue (.fence f) fenceForm s

/-- The classes that FENCEX names. -/
def fenceClasses (m : Nat) : List AccessClass :=
  [(0, AccessClass.L), (1, .C), (2, .M), (3, .S), (4, .F)].filterMap (fun (i, c) => if bitAt m i then some c else none)

def fencexForm : Form :=
  { body := fun e =>
      let k := fenceClasses e.f.modN
      let engines := k.filter (fun c => c != .L)
      let outside := k.any (fun c => c == .C || c == .M || c == .F)
      if !(e.w.opsOf e.p engines).isEmpty || (k.contains .L && e.awaitsRemote) then .wait e.s (.stall 7)
      else
        let s := if k.contains .L && outside then
            (e.s.release e.a.core scopeMd).acquire e.a.core scopeMd
          else e.s
        .done (s.modifyWeave e.a.core e.a.slot (fun w => w.fenceSpad e.p k)) }

def execFencex (f : Fields) (s : State) : Host.Outcome State Fault Refusal := issue (.fencex f) fencexForm s

/-! ### BAR (R297) -/

def Path.atBar (q : Path) : Bool :=
  match q.cond with
  | .blocked (.bar _) => true
  | _ => false

def Path.isArrived (q : Path) : Bool :=
  match q.cond with
  | .arrived .. => true
  | _ => false

/-- A path goes on at the address it was to continue at. -/
def Path.wake (q : Path) : Path :=
  match q.cond with
  | .blocked (.bar n) | .blocked (.abwait _ _ n) | .blocked (.hbar _ _ _ n) | .blocked (.sleep _ n)
  | .blocked (.park _ n) => q.goOn n
  | .blocked _ => { q with cond := .ready }
  | _ => q

/-- BAR passes when every live path is at one; BAR_DEADLOCK when each is at a BAR or ARRIVED, with one of each. -/
def State.settleBars (s : State) (c slot : Nat) : State :=
  match s.weave? c slot with
  | none => s
  | some w =>
    let live := w.livePaths.filterMap w.path?
    if !live.any Path.atBar then s
    else if live.all Path.atBar then s.setWeave c slot { w with paths := w.paths.map (Option.map Path.wake) }
    else if live.all (fun q => q.atBar || q.isArrived) then
      w.livePaths.foldl (fun s i =>
        match w.path? i with
        | some q =>
          if q.atBar then
            let next := match q.cond with
              | .blocked (.bar n) => n
              | _ => q.pc
            s.trapPath { core := c, slot, path := i } (cause 9 11) 0 next
          else s
        | none => s) s
    else s

def barForm : Form :=
  { body := fun e =>
      if e.awaitsRemote then .wait e.s (.stall 7)
      else
        let s := e.s.modifyPath e.a (fun q => { q with
          cond := .blocked (.bar e.next), captured := none, replayMask := none })
        .moved (s.settleBars e.a.core e.a.slot) }

def execBar (f : Fields) (s : State) : Host.Outcome State Fault Refusal := issue (.bar f) barForm s

/-! ### Arrival barriers (R298 to R301) -/

/-- The fields of a barrier word. -/
def abArr (v : Nat) : Nat := bits v 31 0
def abExp (v : Nat) : Nat := bits v 63 32
def abGen (v : Nat) : Nat := bits v 79 64

/-- A saturating addition. -/
def satAdd (a b : Nat) : Nat := min (a + b) (2 ^ 32 - 1)

/-- test(word, g) of R300: whether it passes, and the word after it. -/
def abTest (v g : Nat) : Bool × Nat :=
  let d := (abGen v + 2 ^ 16 - g) % 2 ^ 16
  if 1 ≤ d && d ≤ 2 ^ 15 then (true, v)
  else if d = 0 && abExp v ≤ abArr v then
    (true, withBits (withBits v 79 64 (abGen v + 1)) 31 0 (abArr v - abExp v))
  else (false, v)

def Weave.abWord (w : Weave) (off : Nat) : Nat := w.spad.readNat off 16
def Weave.setAbWord (w : Weave) (off v : Nat) : Weave := { w with spad := w.spad.writeBytes off (toBytes 16 v) }

/-- The waits on barrier words tested again, paths ascending (R300, R301). -/
def Weave.retestAb (w : Weave) : Weave :=
  w.livePaths.foldl (fun w i =>
    match w.path? i with
    | some q =>
      (match q.cond with
        | .blocked (.abwait off g _) =>
          let (ok, v) := abTest (w.abWord off) g
          if ok then ((w.setAbWord off v).passAb i off).modifyPath i Path.wake else w
        | _ => w)
    | none => w) w

/-- A credit of `n` to a barrier word (R175, R299). -/
def Weave.creditAb (w : Weave) (off n : Nat) : Weave :=
  let v := w.abWord off
  let w := w.setAbWord off (withBits v 31 0 (satAdd (abArr v) n))
  ((List.range 4).foldl (fun w i => w.markDirty (off + i)) w).retestAb

/-- The word's offset, after the checks of R299; `kind` is the access of R396: ABINIT writes the word, the other forms
read and write it (log 65). -/
def Env.withBarrier (e : Env) (kind : Nat) (k : Nat → Effect) : Effect :=
  let a := e.index e.f.yOp e.lowLane + offset14 e.f
  let ring := fun (index : Nat) => Effect.trap (cause 2 index) (BitVec.ofNat 96 (uwrap 72 a + kind * 2 ^ 72))
  if a % 16 != 0 then structAlign (uwrap 72 a) 4
  else if a < 0 || (e.w.spadBytes : Int) < a + 16 then ring 8
  else if (e.w.windowAt a.toNat).isSome then ring 10
  else k a.toNat

def abinitForm : Form :=
  { body := fun e => e.withBarrier 1 (fun off =>
      .done (e.put e.s ((e.w.setAbWord off (e.scalar e.f.xOp % 2 ^ 32 * 2 ^ 32)).retestAb))) }

def abexpForm : Form :=
  { body := fun e => e.withBarrier 2 (fun off =>
      let v := e.w.abWord off
      .done (e.put e.s ((e.w.setAbWord off (withBits v 63 32 (satAdd (abExp v) (e.scalar e.f.xOp % 2 ^ 32)))).retestAb))) }

def abarrForm : Form :=
  { body := fun e =>
      if e.awaitsRemote then .wait e.s (.stall 7)
      else e.withBarrier 2 (fun off => .done (e.put e.s (e.w.creditAb off (e.scalar e.f.xOp % 2 ^ 32)))) }

def abwaitForm : Form :=
  { body := fun e => e.withBarrier 2 (fun off =>
      let g := e.scalar e.f.wOp % 2 ^ 16
      let (ok, v) := abTest (e.w.abWord off) g
      let w := if ok then (e.w.setAbWord off v).passAb e.a.path off else e.w
      if e.f.modN = 1 then .done (e.put e.s ((e.writeDst w e.f.xOp (fun _ => bit01 ok)).retestAb))
      else if ok then .done (e.put e.s w.retestAb)
      else .moved (e.s.modifyPath e.a (fun q => { q with
        cond := .blocked (.abwait off g e.next), captured := none, replayMask := none }))) }

def execAbinit (f : Fields) (s : State) : Host.Outcome State Fault Refusal := issue (.abinit f) abinitForm s
def execAbexp (f : Fields) (s : State) : Host.Outcome State Fault Refusal := issue (.abexp f) abexpForm s
def execAbarr (f : Fields) (s : State) : Host.Outcome State Fault Refusal := issue (.abarr f) abarrForm s
def execAbwait (f : Fields) (s : State) : Host.Outcome State Fault Refusal := issue (.abwait f) abwaitForm s

/-! ### WAITC, YIELD, SLEEP (R303 to R305) -/

/-- WAITC: the wait is over when the counter is at or below n. -/
def waitcForm : Form :=
  { body := fun e =>
      match e.f.xOp with
      | .dc c =>
        let n := e.scalar e.f.yOp
        if ((e.p.counters[c]?).getD []).length ≤ n then .done e.s else .wait e.s (.waitc c n)
      | _ => .done e.s }

def execWaitc (f : Fields) (s : State) : Host.Outcome State Fault Refusal := issue (.waitc f) waitcForm s

/-- YIELD's effect is its place in the rotation alone (see `yields`). -/
def yieldForm : Form := { body := fun e => .done e.s }

def execYieldTurn (f : Fields) (s : State) : Host.Outcome State Fault Refusal := issue (.yieldTurn f) yieldForm s

def sleepForm : Form :=
  { body := fun e =>
      let n := min (e.scalar e.f.yOp) (2 ^ 24 - 1)
      if n = 0 then .done e.s
      else .moved (e.s.modifyPath e.a (fun q => { q with
        cond := .blocked (.sleep (e.s.tick + n) e.next), captured := none, replayMask := none })) }

def execSleep (f : Fields) (s : State) : Host.Outcome State Fault Refusal := issue (.sleep f) sleepForm s

end Sys2Proof.Machine
end

