-- ==== Sys2Proof/Machine/Queues.lean ====
section
/-! DEFINITION. Class 4: hoops (R22 to R25, R302) and queues (R87 to R89, R306 to R308). -/

namespace Sys2Proof.Machine

/-! ### Hoop descriptors (R22) -/

def hoopMembers (d : Nat) : Nat := bits d 31 0
def hoopArrived (d : Nat) : Nat := bits d 63 32
def hoopGen (d : Nat) : Nat := bits d 95 64
def hoopScope (d : Nat) : Nat := bits d 99 96
def hoopCtx (d : Nat) : Nat := bits d 133 128

/-- complete() of R24. -/
def hoopComplete (d : Nat) : Nat := withBits (withBits d 63 32 0) 95 64 (hoopGen d + 1)

/-- The three updates of R24: 0 JOIN, 1 LEAVE, 2 HBAR's arrival. -/
def hoopUpdate (u d : Nat) : Nat :=
  match u with
  | 0 => withBits (withBits d 31 0 (hoopMembers d + 1)) 100 100 1
  | 1 =>
    let d := withBits d 31 0 (hoopMembers d + 2 ^ 32 - 1)
    if hoopMembers d = 0 then withBits (withBits d 100 100 0) 63 32 0
    else if hoopArrived d = hoopMembers d then hoopComplete d else d
  | _ =>
    let d := withBits d 63 32 (hoopArrived d + 1)
    if hoopArrived d = hoopMembers d then hoopComplete d else d

/-- Where the descriptor lies, with its content. -/
def Env.hoopDesc (e : Env) (va : Nat) : Got (Place × Nat) :=
  (e.reach e.s va needBoth).andThen (fun s p =>
    match p with
    | .phys pa => .ok (s.touch pa) (p, s.readHomeNat pa 64)
    | .remote m c => (e.fetchRemote s m c va 64).andThen (fun s b => .ok s (p, ofBytes b)))

/-- An update made at the descriptor's home slice, or as a remote signal, which the path waits for. -/
def Env.updateHoop (e : Env) (s : State) (va u : Nat) (p : Place) : Got Unit :=
  match p with
  | .phys pa => .ok (s.writeHomeNat pa 64 (hoopUpdate u (s.readHomeNat pa 64))) ()
  | .remote m c => (e.remoteStep s (stepKey u) m c va (.hoop u)).andThen (fun s _ => .ok s ())

/-- A hoop trap of group 9. -/
def hoopTrap (index va : Nat) : Effect := .trap (cause 9 index) (syncDetail va 0)

/-- The address, the descriptor and the checks that JOIN, LEAVE and HBAR share. -/
def Env.withHoop (e : Env) (k : State → Nat → Place → Nat → Effect) : Effect :=
  let va := e.scalar e.f.yOp
  if va % 64 != 0 then structAlign va 6
  else (e.hoopDesc va).whole e 2 (fun s pd =>
    if hoopCtx pd.2 != e.w.id.ctx then .trap (cause 2 6) (BitVec.ofNat 96 (va + 2 * 2 ^ 72))
    else k s va pd.1 pd.2)

def joinForm : Form :=
  { body := fun e => e.withHoop (fun s va p d =>
      if bits d 511 134 != 0 then hoopTrap 3 va
      else if hoopScope d < 2 || 8 < hoopScope d then hoopTrap 4 va
      else if e.w.hoops.contains va then hoopTrap 5 va
      else if 4 ≤ e.w.hoops.length then hoopTrap 6 va
      else if hoopMembers d = 2 ^ 32 - 1 then hoopTrap 3 va
      else (e.updateHoop s va 0 p).whole e 2 (fun s _ =>
        .done (s.modifyWeave e.a.core e.a.slot (fun w => { w with hoops := w.hoops ++ [va] })))) }

def leaveForm : Form :=
  { body := fun e => e.withHoop (fun s va p _ =>
      if !e.w.hoops.contains va then hoopTrap 7 va
      else (e.updateHoop s va 1 p).whole e 2 (fun s _ =>
        .done (s.modifyWeave e.a.core e.a.slot (fun w => { w with hoops := w.hoops.filter (fun x => x != va) })))) }

/-- HBAR on a hoop of this module: release, arrive, and wait until GEN has changed. -/
def hbarLocal (e : Env) (s : State) (va pa : Nat) : Effect :=
  let scope := hoopScope (s.readHomeNat pa 64)
  let s := s.release e.a.core scope
  let d := s.readHomeNat pa 64
  let d' := hoopUpdate 2 d
  let s := s.writeHomeNat pa 64 d'
  if hoopGen d' != hoopGen d then .done (s.acquire e.a.core scope)
  else .moved (s.modifyPath e.a (fun q => { q with
    cond := .blocked (.hbar va (hoopGen d) scope e.next), captured := none, replayMask := none }))

/-- HBAR on another module's hoop: the arrival is a remote signal; no barrier completes before it, so that the GEN read
before it is the one that must change. -/
def hbarRemote (e : Env) (s : State) (va d m c : Nat) : Effect :=
  (e.updateHoop (s.release e.a.core (hoopScope d)) va 2 (.remote m c)).whole e 2 (fun s _ =>
    .moved (s.modifyPath e.a (fun q => { q with
      cond := .blocked (.hbar va (hoopGen d) (hoopScope d) e.next), captured := none, replayMask := none, fetched := [] })))

def hbarForm : Form :=
  { body := fun e => e.withHoop (fun s va p d =>
      if !e.w.hoops.contains va then hoopTrap 7 va
      else if e.w.livePaths.length != 1 then hoopTrap 8 va
      else if e.awaitsRemote then .wait s (.stall 7)
      else match p with
        | .phys pa => hbarLocal e s va pa
        | .remote m c => hbarRemote e s va d m c) }

def execJoinHoop (f : Fields) (s : State) : Host.Outcome State Fault Refusal := issue (.joinHoop f) joinForm s
def execLeaveHoop (f : Fields) (s : State) : Host.Outcome State Fault Refusal := issue (.leaveHoop f) leaveForm s
def execHbar (f : Fields) (s : State) : Host.Outcome State Fault Refusal := issue (.hbar f) hbarForm s

/-- The content of a hoop descriptor on this module, when its page is mapped. -/
def State.hoopAt (s : State) (ctx va : Nat) : Option Nat :=
  match s.walk ctx va with
  | .leaf e _ size sub =>
    let l := Leaf.of e sub
    if 2 ≤ l.tier then none else some (s.readHomeNat (l.pa sub size va) 64)
  | _ => none

/-- A descriptor on another module read again for a path that waits on it, at every other turn: its content once it has
come. A weave that is being evicted asks no more. -/
def State.look (s : State) (a : Actor) (w : Weave) (q : Path) (va : Nat) : State × Option Nat :=
  match s.walk w.id.ctx va with
  | .leaf e _ _ sub =>
    let l := Leaf.of e sub
    let key := loadKey va 64
    if l.tier != 3 then (s, none)
    else match q.fetched.find? (fun x => x.1 == key) with
      | some x => (s.modifyPath a (fun q => { q with fetched := [] }), some (ofBytes x.2))
      | none =>
        if w.evicting || s.turn % 2 = 0 then (s, none)
        else match s.remoteStep q {
            id := 0, weave := w.id, core := a.core, slot := a.slot, path := a.path, lane := 0, op := 0, port := 0
            module := l.frame % 2 ^ 12, sent := 0, ctx := bits l.frame 17 12, va, what := .load 64, dest := .none
            pc := q.pc, next := q.pc, captured := { sregs := [], aregs := [], rng := 0 }, whole := true
            waiting := false } key with
          | .wait s => (s, none)
          | _ => (s, none)
  | _ => (s, none)

/-- Paths waiting at HBAR whose barrier has completed go on after an acquire (R24, R101). -/
def State.settleHoops (s : State) (c slot : Nat) : State :=
  match s.weave? c slot with
  | none => s
  | some w =>
    w.livePaths.foldl (fun s i =>
      let a : Actor := { core := c, slot, path := i }
      match w.path? i with
      | some q =>
        (match q.cond with
        | .blocked (.hbar va gen scope _) =>
          let (s, now) := match s.hoopAt w.id.ctx va with
            | some d => (s, some d)
            | none => s.look a w q va
          (match now with
            | some d => if hoopGen d = gen then s else (s.acquire c scope).modifyPath a Path.wake
            | none => s)
        | _ => s)
      | none => s) s

/-! ### Queue descriptors (R87, R88) -/

/-- A reserved field out of range (R88); a BASE that is not aligned to the entry size counts as one (log 76). -/
def qBad (d : Nat) : Bool :=
  bits d 511 224 != 0 || bits d 141 72 != 0 || qScope d < 2 || 8 < qScope d || qEsz d < 2 || 4 < qEsz d
    || qCap d < 4 || 24 < qCap d || qBase d % 2 ^ qEsz d != 0

/-- Group 10's trap (R402). -/
def queueTrap (index port c : Nat) : Effect := .trap (cause 10 index) (BitVec.ofNat 96 (port % 16 + c % 2 ^ 32 * 2 ^ 16))

/-- HEAD and TAIL as the queue engine holds them (R89). -/
def State.queueState (s : State) (pa : Nat) : Nat × Nat :=
  match Table.find? s.queues pa with
  | some x => x
  | none => let d := s.readHomeNat pa 64; (qHead d, qTail d)

/-- HEAD and TAIL moved on, in the engine and in the descriptor. -/
def State.setQueue (s : State) (pa head tail : Nat) : State :=
  let h := head % 2 ^ 32
  let t := tail % 2 ^ 32
  let s := { s with queues := Table.set s.queues pa (h, t) }
  s.writeHomeNat (pa + 20) 8 (h + t * 2 ^ 32)

/-- The entries held (R87). -/
def held (head tail : Nat) : Nat := (tail + 2 ^ 32 - head) % 2 ^ 32

/-- The descriptor of a port: its address and place, and its content, after R88. -/
def Env.withQueue (e : Env) (port c : Nat) (k : State → Nat → Place → Nat → Effect) : Effect :=
  let entry := e.s.portEntry e.w.id.ctx port
  if portUnbound entry then queueTrap 0 port c
  else if entry % 64 != 0 then structAlign entry 6
  else ((e.reach e.s entry needBoth).andThen (fun s p =>
      match p with
      | .remote m c => (e.fetchRemote s m c entry 64).andThen (fun s b => .ok s (p, ofBytes b))
      | .phys pa => .ok (s.touch pa) (p, s.readHomeNat pa 64))).whole e 2 (fun s x =>
    if qBad x.2 || qCtx x.2 != e.w.id.ctx then queueTrap 0 port c else k s entry x.1 x.2)

/-- The registers that hold an entry of 2^esz bytes: whether operand `o` fits (R306). -/
def queueFits (w : Weave) (o : Operand) (esz : Nat) : Bool :=
  match o with
  | .vreg n => esz = 2 || (n % 2 ^ (esz - 2) = 0 && n + 2 ^ (esz - 2) ≤ w.vregs.length)
  | .sreg n => esz ≤ 3 || (n % 2 = 0 && n + 2 ≤ w.scount)
  | .vz => true
  | _ => esz ≤ 3

/-- The lanes that move an entry: each acting lane for a vector operand, and one otherwise (R307). -/
def Env.queueLanes (e : Env) (o : Operand) : List Nat := if o.isVec then e.lanes else [e.lowLane]

/-- The bytes of an entry as lane `k` pushes it. -/
def Env.entryBytes (e : Env) (o : Operand) (esz k : Nat) : List Byte :=
  let n := 2 ^ esz
  match o with
  | .sreg r => if esz = 4 then toBytes 8 (e.sreg r).toNat ++ toBytes 8 (e.sreg (r + 1)).toNat else toBytes n (e.sreg r).toNat
  | _ => e.storeBytes o n k

/-- Where entry `i` lies. -/
def entryVa (d i : Nat) : Nat := qBase d + i % 2 ^ qCap d * 2 ^ qEsz d

/-- The places of some entries, with their addresses. -/
def Env.placeEntries (e : Env) (s : State) (d first m : Nat) (n : Need) : Got (List (Nat × Place)) :=
  Got.foldl (fun s l j =>
    let va := entryVa d (first + j)
    (e.reach s va n).andThen (fun s p =>
      match p with
      | .phys _ => .ok s (l ++ [(va, p)])
      | .remote m _ =>
        match s.routeFails m with
        | some i => .fault s (cause 19 i) va (s.routeDetail va m)
        | none => .ok s (l ++ [(va, p)]))) s [] (List.range m)

/-- The lanes of a list that hold, as a mask. -/
def predOfFirst (lanes : List Nat) (m : Nat) : LaneMask := LaneMask.ofLanes (lanes.take m)

/-- A blocking queue operation on another module's queue that found too little: it asks again. -/
def Env.askAgain (e : Env) (s : State) (w : Wait) : Effect :=
  .wait (s.modifyPath e.a (fun q => { q with fetched := [] })) w

/-- An entry's bytes performed at home, or at the module that holds its page. -/
def Env.putEntry (e : Env) (s : State) (j : Nat) (x : Nat × Place) (b : List Byte) : Got Unit :=
  match x.2 with
  | .phys pa => .ok (s.writeHome pa b) ()
  | .remote m c => (e.remoteStep s (stepKey (16 + j)) m c x.1 (.store b)).andThen (fun s _ => .ok s ())

/-- The place of `m` entries reserved, once: TAIL before them and how many. Later issues of the same QPUSH find it among
the steps that the path has made. -/
def Env.reserve (e : Env) (s : State) (pa head tail m : Nat) : State :=
  (({ s with unwritten := s.unwritten ++ (List.range m).map (fun j => (pa, (tail + j) % 2 ^ 32)) } : State).setQueue
    pa head (tail + m)).modifyPath e.a (fun q => { q with
      fetched := q.fetched ++ [(stepKey 3, toBytes 4 tail ++ toBytes 4 m)] })

/-- What a QPUSH has reserved already. -/
def Env.reserved (e : Env) : Option (Nat × Nat) :=
  (e.p.fetched.find? (fun x => x.1 == stepKey 3)).map (fun x => (ofBytes (x.2.take 4), ofBytes (x.2.drop 4)))

/-- The result predicate of a QPUSH of `m` entries: a scalar or immediate entry is the lowest acting lane's. -/
def Env.pushed (e : Env) (s : State) (m : Nat) : Effect :=
  .done (s.modifyWeave e.a.core e.a.slot (fun w => match e.f.wOp with
    | .pred n => e.setPred w n e.acting (predOfFirst e.lanes m)
    | _ => w))

/-- The `m` entries from `tail` on of a queue of this module, by the lanes that push them. -/
def Env.pushEntries (e : Env) (s : State) (d pa tail m : Nat) (lanes : List Nat) : Effect :=
  (e.placeEntries s d tail m needWrite).whole e 1 (fun s places =>
    (Got.foldl (fun s _ (x : (Nat × Place) × Nat × Nat) =>
      e.putEntry s x.2.2 x.1 (e.entryBytes e.f.yOp (qEsz d) x.2.1)) s () (places.zip (lanes.zip (List.range m)))).whole e 1
        (fun s _ =>
          let mine := (List.range m).map (fun j => (pa, (tail + j) % 2 ^ 32))
          e.pushed { s with unwritten := s.unwritten.filter (fun x => !mine.contains x) } m))

def qpushForm : Form :=
  { body := fun e =>
      match e.f.xOp with
      | .port port =>
        let lanes := e.queueLanes e.f.yOp
        let c := lanes.length
        e.withQueue port c (fun s va place d =>
          if !queueFits e.w e.f.yOp (qEsz d) then queueTrap 2 port c
          else if 2 ^ qCap d < c then queueTrap 1 port c
          else if e.awaitsRemote then .wait s (.stall 7)
          else match place, e.reserved with
            | .remote m' x, _ =>
              (e.remoteStep (s.release e.a.core (qScope d)) (stepKey 3) m' x va
                  (.queuePush (e.f.modN == 1) (lanes.map (e.entryBytes e.f.yOp (qEsz d))))).whole e 2 (fun s b =>
                let m := ofBytes b
                if e.f.modN = 0 && m < c then e.askAgain s (.stall 6) else e.pushed s m)
            | .phys pa, some (tail, m) => e.pushEntries s d pa tail m lanes
            | .phys pa, none =>
              let (head, tail) := s.queueState pa
              let room := 2 ^ qCap d - held head tail
              if e.f.modN = 0 && room < c then .wait s (.stall 6)
              else
                let m := min c room
                (e.placeEntries s d tail m needWrite).whole e 1 (fun s _ =>
                  e.pushEntries (e.reserve (s.release e.a.core (qScope d)) pa head tail m) d pa tail m lanes))
      | _ => .done e.s }

def execQpush (f : Fields) (s : State) : Host.Outcome State Fault Refusal := issue (.qpush f) qpushForm s

/-- The writes that a pop owes: the lanes with their entries, and pd. -/
def Env.popWrites (e : Env) (esz : Nat) (got : List (Nat × List Byte)) : List PendingWrite :=
  match e.f.xOp with
  | .sreg r =>
    (match got with
      | (_, b) :: _ =>
        if esz = 4 then [.sreg r (BitVec.ofNat 64 (ofBytes (b.take 8))), .sreg (r + 1) (BitVec.ofNat 64 (ofBytes (b.drop 8)))]
        else [.sreg r (BitVec.ofNat 64 (ofBytes b))]
      | [] => [])
  | _ => e.loadWrites false (2 ^ esz) got

/-- The jambs of a pop's destinations: TOP, over the largest group an entry could name. -/
def Env.popJambs (e : Env) (esz : Nat) : List (Nat × Jamb) :=
  match e.f.xOp with
  | .sreg r => if esz = 4 then [(0x100 + r, .top), (0x101 + r, .top)] else [(0x100 + r, .top)]
  | _ => e.topJambs (2 ^ esz)

/-- An entry's bytes at home, or from the module that holds its page. -/
def Env.takeEntry (e : Env) (s : State) (n h : Nat) (x : Nat × Place) : Got (List Byte) :=
  match x.2 with
  | .phys pa => .ok (s.touch pa) (s.mem.readBytes pa n)
  | .remote m c => e.remoteStep s (stepKey (2 ^ 40 + h)) m c x.1 (.load n)

/-- The end of a QPOP: the acquire, and what it owes to the lanes that receive an entry, with pd. -/
def Env.popped (e : Env) (s : State) (d : Nat) (lanes : List Nat) (entries : List (List Byte)) : Effect :=
  let esz := qEsz d
  let m := entries.length
  let s := s.acquire e.a.core (qScope d)
  let ws := if m = 0 then [] else e.popWrites esz (lanes.zip entries)
  let ws := match e.f.wOp with
    | .pred n => ws ++ [.pred n e.acting (predOfFirst e.lanes m)]
    | _ => ws
  .done (s.modifyWeave e.a.core e.a.slot (fun w =>
    let w := w.tagGroup e.f.xOp (2 ^ esz) .untyped
    let w := applyJambs w e.a.path true (e.popJambs esz)
    if ws.isEmpty && e.f.setN = 0 then w else e.start w none .result ws))

/-- The first `m` entries from HEAD on have all been written (R307). -/
def State.entriesWritten (s : State) (pa head m : Nat) : Bool :=
  (List.range m).all (fun j => !s.unwritten.contains (pa, (head + j) % 2 ^ 32))

/-- QPOP (R89, R307). It returns the bytes now at home (log 76). -/
def qpopForm : Form :=
  { jambs := fun e => e.popJambs 2
    body := fun e =>
      match e.f.yOp with
      | .port port =>
        let lanes := e.queueLanes e.f.xOp
        let c := lanes.length
        e.withQueue port c (fun s va place d =>
          let n := 2 ^ qEsz d
          if !queueFits e.w e.f.xOp (qEsz d) then queueTrap 2 port c
          else if 2 ^ qCap d < c then queueTrap 1 port c
          else if e.awaitsRemote then .wait s (.stall 7)
          else match place with
            | .remote m' x =>
              (e.remoteStep s (stepKey 3) m' x va (.queuePop (e.f.modN == 1) c)).whole e 2 (fun s b =>
                let m := ofBytes (b.take 4)
                if e.f.modN = 0 && m < c then e.askAgain s (.qpop port c)
                else e.popped s d lanes ((List.range m).map (fun j => (b.drop (4 + j * n)).take n)))
            | .phys pa =>
              let (head, tail) := s.queueState pa
              let m := min c (held head tail)
              if e.f.modN = 0 && held head tail < c then .wait s (.qpop port c)
              else if !s.entriesWritten pa head m then .wait s (.stall 6)
              else
                (e.placeEntries s d head m needRead).whole e 0 (fun s places =>
                  (Got.foldl (fun s l (x : (Nat × Place) × Nat) =>
                    (e.takeEntry s n ((head + x.2) % 2 ^ 32) x.1).andThen (fun s b => .ok s (l ++ [b]))) s []
                      (places.zip (List.range m))).whole e 0 (fun s entries =>
                        e.popped (s.setQueue pa (head + m) tail) d lanes entries)))
      | _ => .done e.s }

def execQpop (f : Fields) (s : State) : Host.Outcome State Fault Refusal := issue (.qpop f) qpopForm s

/-- TAIL − HEAD of the queue that a path waiting at a QPOP would pop from: one on another module by a look at it. -/
def State.lookQueue (s : State) (a : Actor) (w : Weave) (q : Path) (port : Nat) : State × Option Nat :=
  match s.portPlace w.id.ctx port with
  | some pa => let (head, tail) := s.queueState pa; (s, some (held head tail))
  | none =>
    let entry := s.portEntry w.id.ctx port
    if portUnbound entry then (s, none)
    else
      let (s, d) := s.look a w q (entry % 2 ^ 72)
      (s, d.map (fun d => held (qHead d) (qTail d)))

/-- Paths blocked at a QPOP whose queue now holds enough entries issue it again (R307, R309). -/
def State.settleQueues (s : State) (c slot : Nat) : State :=
  match s.weave? c slot with
  | none => s
  | some w =>
    w.livePaths.foldl (fun s i =>
      let a : Actor := { core := c, slot, path := i }
      match w.path? i with
      | some q =>
        (match q.cond with
          | .blocked (.qpop port n) =>
            let (s, m) := s.lookQueue a w q port
            if m.any (fun m => n ≤ m) then s.modifyPath a (fun q => { q with cond := .ready }) else s
          | _ => s)
      | none => s) s

/-! ### Bound ports (R89) -/

/-- The places of the descriptors that ports of enabled contexts bind. HEAD and TAIL of one that only another module's ports
bind are not held here: nothing tells its owner of that binding (log 66). -/
def State.boundQueues (s : State) : List Nat :=
  ((List.range 64).filter (fun ctx => s.field (translationBlock ctx) 52 52 == 1)).flatMap (fun ctx =>
    (List.range 16).filterMap (fun n =>
      let entry := s.portEntry ctx n
      if portUnbound entry || entry % 64 != 0 then none
      else (s.portPlace ctx n).filter (fun pa => let d := s.readHomeNat pa 64; !qBad d && qCtx d == ctx)))

/-- The engine takes HEAD and TAIL of a queue when it is bound and holds them while it is; what plain stores have put
there meanwhile is undone. -/
def State.settlePorts (s : State) : State :=
  let bound := sortNat s.boundQueues
  let s := { s with
    queues := bound.map (fun pa => (pa, s.queueState pa))
    unwritten := s.unwritten.filter (fun x => bound.contains x.1) }
  s.queues.foldl (fun s x =>
    if s.readHomeNat (x.1 + 20) 8 = x.2.1 + x.2.2 * 2 ^ 32 then s else s.writeHomeNat (x.1 + 20) 8 (x.2.1 + x.2.2 * 2 ^ 32)) s

end Sys2Proof.Machine
end

