-- ==== Sys2Proof/Machine/Engine.lean ====
section
/-! DEFINITION. What the engines share: uniform records, the translation of every page of a transfer before it is
accepted (R145, R173), and the bytes at a transfer's places. -/

namespace Sys2Proof.Machine

/-- SPAD_WINDOW on the path (R172, R323). -/
def spadWindow (offset kind : Nat) : Effect := .trap (cause 2 8) (ringDetail offset kind)

/-! ### Uniform memory operands (R318, R327) -/

/-- A record of 2^log2 bytes, read as class L at `[s+x+o]` or `spad[x+o]`, with its address. -/
def Env.withRecord (e : Env) (log2 : Nat) (k : State → Nat → Nat → Effect) : Effect :=
  let n : Nat := 2 ^ log2
  if e.f.zN = 0 then
    let a := e.index e.f.yOp e.lowLane + offset14 e.f
    if a % (n : Int) != 0 then structAlign (uwrap 72 a) log2
    else if a < 0 || (e.w.spadBytes : Int) < a + n then spadWindow (uwrap 72 a) 0
    else
      let offs := (List.range n).map (fun i => a.toNat + i)
      (fillLines e.s e.a offs).whole e 0 (fun s _ =>
        k (s.modifyWeave e.a.core e.a.slot (fun w => w.observe e.serial offs false)) a.toNat
          (ofBytes ((e.now s).laneSpadRead e.serial offs)))
  else
    let a := e.blockAddr
    if a < 0 || (2 ^ 64 : Int) ≤ a then .trap (cause 1 7) (ringDetail (uwrap 72 a) 0)
    else if a.toNat % n != 0 then structAlign a.toNat log2
    else (e.readRangeNat e.s false a.toNat n).whole e 0 (fun s v => k s a.toNat v)

/-! ### Pages of a transfer -/

/-- The 4 KiB pages of some ranges, ascending. -/
def pagesOf (rs : List (Nat × Nat)) : List Nat :=
  sortNat (rs.flatMap (fun (va, n) =>
    if n = 0 then [] else (List.range ((va + n - 1) / 4096 + 1 - va / 4096)).map (fun i => va / 4096 + i)))

/-- The lowest address that some ranges touch in a page. -/
def firstTouch (rs : List (Nat × Nat)) (page : Nat) : Nat :=
  rs.foldl (fun m (va, n) =>
    let a := max va (page * 4096)
    if a < va + n && a < page * 4096 + 4096 then min m a else m) (page * 4096 + 4095)

/-- A page of some ranges translated through the walk-ahead TLB (R145, R173). -/
def State.placePage (s : State) (c ctx : Nat) (rs : List (Nat × Nat)) (need : Need) (page : Nat) : Got (Nat × Place) :=
  let va := firstTouch rs page
  if 2 ^ 72 ≤ va then .fault s (cause 1 7) va (BitVec.ofNat 96 (va % 2 ^ 72))
  else (Got.ofXlate (s.translate c ctx va { need with ahead := true })).andThen (fun s p =>
    match p with
    | .phys pa => .ok s (page, .phys (pa - va % 4096))
    | .remote m c =>
      match s.routeFails m with
      | some i => .fault s (cause 19 i) va (s.routeDetail va m)
      | none => .ok s (page, .remote m c))

/-- Every page of some ranges translated, ascending; the first that fails stops the rest. -/
def State.placePages (s : State) (c ctx : Nat) (rs : List (Nat × Nat)) (need : Need) : Got (Table Place) :=
  Got.foldl (fun s t page => (s.placePage c ctx rs need page).andThen (fun s x => .ok s (t ++ [x]))) s [] (pagesOf rs)

/-- Whether a table of places has a remote page. -/
def hasRemote (t : Table Place) : Bool := t.any (fun x => match x.2 with
  | .remote .. => true
  | .phys _ => false)

/-- Bytes at the home slices of a range whose pages are placed; remote ones as fetched (R107). -/
def State.placedRead (s : State) (t : Table Place) (fetched : List (Nat × List Byte)) (va n : Nat) : List Byte :=
  (pieces 4096 va n).flatMap (fun (a, k) =>
    match Table.find? t (a / 4096) with
    | some (.phys pa) => s.engineRead (pa + a % 4096) k
    | some (.remote _ _) =>
      (match fetched.find? (fun x => x.1 == a - a % 4096) with
        | some x => (x.2.drop (a % 4096)).take k
        | none => List.replicate k 0)
    | none => List.replicate k 0)

/-- Reads at the home slices of placed pages noted (R393). -/
def State.touchAll (s : State) (t : Table Place) : State :=
  t.foldl (fun s (x : Nat × Place) => match x.2 with
    | .phys pa => s.touch pa
    | .remote .. => s) s

/-- The actor that issued an engine operation. -/
def actorOf (core slot path : Nat) : Actor := { core, slot, path }

/-- A remote write of an engine operation `op`. -/
def State.engineStore (s : State) (a : Actor) (op : Nat) (id : WeaveId) (pc next : VAddr) (cap : Captured)
    (m ctx va : Nat) (what : RemoteOp) : State :=
  s.send {
    id := 0, weave := id, core := a.core, slot := a.slot, path := a.path, lane := 0, op, port := 0, module := m
    sent := 0, ctx, va, what, dest := .none, pc, next, captured := cap, whole := true, waiting := false }

/-! ### The pages of accepted work -/

def Side.pages : Side → Table Place
  | .spad _ => []
  | .global _ t => t

/-- The places that the rest of a copy goes by. -/
def CopyOp.pages (o : CopyOp) : Table Place :=
  o.src.pages ++ o.dst.pages ++ (o.rows ++ o.untranslated).flatMap (fun r => r.places)

def MatrixWork.pages : MatrixWork → Table Place
  | .load _ _ _ _ _ t _ | .accLoad _ _ _ _ t _ | .accStore _ _ _ _ t _ => t
  | .release _ | .task _ | .accZero .. => []

/-! ### Engine faults after acceptance -/

/-- A fault kept for the next instruction boundary of the path that issued an operation (R155). -/
def State.noteFault (s : State) (a : Actor) (op : Nat) (c : Cause) (d : BitVec 96) : State :=
  s.modifyWeave a.core a.slot (fun w =>
    { w with matrixFaults := w.matrixFaults ++ [{ path := w.ownerOf op a.path, cause := c, detail := d }] })

/-- What comes before an engine's access to some scratchpad offsets (R79, R80): the fills, and for a write STASH_RO and
the pages' permission. -/
def State.engineReach (s : State) (a : Actor) (offs : List Nat) (write : Bool) (held : Table Place := []) (op : Nat := 0) : Got Unit :=
  match s.weave? a.core a.slot with
  | none => .ok s ()
  | some w =>
    if !w.windows.any winValid then .ok s ()
    else if write then stashStore s a offs held op else fillLines s a offs held op

/-- An engine operation whose history a fence may name (R106, R109). -/
def Env.recordHistory (e : Env) (s : State) : State :=
  s.modifyPath e.a (fun q => { q with history := q.history ++ [e.serial] })

/-- An operation kept for its SET counter alone. -/
def Env.countOnly (e : Env) (s : State) (cls : AccessClass) : State :=
  if e.f.setN = 0 then s else s.modifyWeave e.a.core e.a.slot (fun w => e.start w (some cls) .result [])

/-- A predicate written with one value in every active lane (R140, R168). -/
def Env.writeActive (e : Env) (w : Weave) (o : Operand) (b : Bool) : Weave :=
  match o with
  | .pred n => e.setPred w n e.p.mask (if b then e.p.mask else 0)
  | _ => w

end Sys2Proof.Machine
end

