-- ==== Sys2Proof/Machine/Kv.lean ====
section
/-! DEFINITION. The KV array and VQ code pages (R125, R126, R180 to R185, R329 to R333). -/

namespace Sys2Proof.Machine

/-! ### Descriptors, map entries and code pages -/

def kvCbtab (d : Nat) : Nat := bits d 247 176
def kvPmax (d : Nat) : Nat := bits d 175 160
def kvHeads (d : Nat) : Nat := bits d 159 144
def kvSeqs (d : Nat) : Nat := bits d 143 120
/-- G, the number of channel groups. -/
def kvGroups (d : Nat) : Nat := bits d 119 113 + 1
def kvMapBase (d : Nat) : Nat := bits d 71 0

/-- A reserved bit of a KV descriptor (R180). -/
def kvDescBad (d : Nat) : Bool := bits d 511 248 != 0 || bits d 112 72 != 0

/-- The address of a map entry (R181). -/
def kvEntryVa (d s h p : Nat) : Nat := kvMapBase d + 8 * ((s * kvHeads d + h) * kvPmax d + p / 128)

def entryValid (x : Nat) : Bool := bitAt x 63
def entryState (x : Nat) : Nat := bits x 61 60
def entryPage (x : Nat) : Nat := bits x 55 0 * 65536

/-- The trailer of a code page (R125) and its fields. -/
def trailerAt : Nat := 65472
def pageScale (t : Nat) : Nat := bits t 15 0
def pageSealed (t : Nat) : Bool := bitAt t 32
def pageGm1 (t : Nat) : Nat := bits t 39 33
def pageFill (t : Nat) : Nat := bits t 47 40
def pageClips (t : Nat) : Nat := bits t 63 48
def pageBook (t : Nat) : Nat := bits t 79 64
def pageBad (t : Nat) : Bool := bits t 511 80 != 0 || bits t 31 16 != 0

/-- A codebook of 256 entries of 8 FP16 values (R126). -/
def codebook (b : List Byte) : List (List FVal) :=
  (List.range 256).map (fun e => (List.range 8).map (fun c => fp16.decode (ofBytes ((b.drop (16 * e + 2 * c)).take 2))))

/-- A trap of group 14 (R185). -/
def kvTrap (index addr : Nat) : Effect := .trap (cause 14 index) (unitDetail addr 0 0)

/-- The descriptor that sK names, checked (R329). -/
def Env.withKv (e : Env) (k : State → Nat → Nat → Effect) : Effect :=
  let va := e.scalar e.f.yOp
  if va % 64 != 0 then structAlign va 6
  else (e.readRangeNat e.s false va 64).whole e 0 (fun s d => if kvDescBad d then kvTrap 0 va else k s va d)

/-- sK + 1. -/
def Env.kvSecond (e : Env) : Nat :=
  match e.f.yOp with
  | .sreg n => (e.sreg (n + 1)).toNat
  | _ => 0

/-- STATE written in an entry (R181). -/
def State.writeMapState (s : State) (pa x st : Nat) : State := s.writeHomeNat pa 8 (withBits x 61 60 st)

/-- The STATE that the Transom has given the page of a map entry, in place of the one written there (R181, log 49). -/
def State.withState (s : State) (ctx x : Nat) : Nat :=
  match s.pageStates.find? (fun y => y.1 == ctx && y.2.1 == entryPage x) with
  | some y => if entryValid x then withBits x 61 60 y.2.2 else x
  | none => x

/-- The device knows a map entry by its last read. -/
def State.knowEntry (s : State) (ctx va x : Nat) : State :=
  { s with maps := s.maps.filter (fun (m : Nat × Nat × Nat) => !(m.1 == ctx && m.2.1 == va)) ++ [(ctx, va, x)] }

/-- The device reads a map entry of this module: the entry has the STATE that the Transom has given its page. -/
def State.learnEntry (s : State) (ctx va pa : Nat) : State :=
  let x := s.readHomeNat pa 8
  let y := s.withState ctx x
  ((if x = y then s else s.writeHomeNat pa 8 y).knowEntry ctx va y).touch pa

/-- A map entry read by an .ACQ load at .md (R103, R182). -/
def Env.kvEntry (e : Env) (s : State) (va : Nat) : Got Nat :=
  if 2 ^ 72 ≤ va then .fault s (cause 1 7) (va % 2 ^ 72) (BitVec.ofNat 96 (va % 2 ^ 72))
  else if va % 8 != 0 then .fault s (cause 4 0) va (alignDetail va 3 0)
  else (e.reach s va needRead).andThen (fun s p =>
    match p with
    | .remote m c => (e.fetchRemote s m c va 8).andThen (fun s b =>
        let x := s.withState e.w.id.ctx (ofBytes b)
        .ok (s.knowEntry e.w.id.ctx va x) x)
    | .phys pa =>
      let s := (s.bringHome e.a.core pa 8).learnEntry e.w.id.ctx va pa
      .ok s (s.readHomeNat pa 8))

/-! ### KVLD and VQSCORE (R182, R184) -/

/-- What a lane finds at its map entry. -/
structure KvLane where
  lane : Nat
  pos : Nat
  quad : Nat
  va : Nat
  entry : Nat

/-- A list of lanes read, and the faults of the others. -/
abbrev KvJudged := List KvLane × List LaneFault

/-- Each acting lane's coordinates checked and its entry read. -/
def Env.kvLanes (e : Env) (s : State) (descVa d : Nat) (wait : Bool) : Got KvJudged :=
  let seq := bits e.kvSecond 23 0
  let head := bits e.kvSecond 47 32
  Got.foldl (fun s (j : KvJudged) k =>
    let cd := e.read 32 e.f.zOp k
    let pos := bits cd 22 0
    let at_ := kvEntryVa d seq head pos
    let bad := fun (s : State) (c : Cause) (va : Nat) (d : BitVec 96) =>
      Got.ok s (j.1, j.2 ++ [({ lane := k, cause := c, va, detail := d, acc := some at_ } : LaneFault)])
    if kvSeqs d ≤ seq || kvHeads d ≤ head || kvPmax d ≤ pos / 128 then bad s (cause 14 1) descVa (unitDetail descVa 0 0)
    else
      let va := at_
      match e.kvEntry s va with
      | .ok s x =>
        if wait && !entryValid x then bad s (cause 14 2) va (unitDetail va 0 0)
        else .ok s (j.1 ++ [{ lane := k, pos, quad := bits cd 27 23, va, entry := x }], j.2)
      | .fault s c v d => bad s c v d
      | r => r.andThen (fun s _ => .ok s j)) s ([], []) e.lanes

/-- What a lane receives: its word, its status and its predicate bit. -/
structure KvResult where
  lane : Nat
  value : Nat
  status : Nat
  ok : Bool

/-- Each lane's data where its page is RESIDENT; a poisoned page gives the status POISON (R382). -/
def Env.kvData (_e : Env) (s : State) (miss : Nat) (read : State → KvLane → Nat → Got Nat) (ls : List KvLane) :
    Got (List KvResult × List LaneFault) :=
  Got.foldl (fun s (j : List KvResult × List LaneFault) (l : KvLane) =>
    let put := fun (s : State) (v st : Nat) (ok : Bool) =>
      Got.ok s (j.1 ++ [({ lane := l.lane, value := v, status := st, ok } : KvResult)], j.2)
    if !entryValid l.entry then put s miss 1 false
    else if entryState l.entry != 0 then put s miss (entryState l.entry) false
    else match read s l (entryPage l.entry) with
      | .ok s v => put s v 0 true
      | .fault s c va d =>
        if c == cause 20 0 then put s miss 3 false
        else .ok s (j.1, j.2 ++ [({ lane := l.lane, cause := c, va, detail := d, acc := some (entryPage l.entry) } : LaneFault)])
      | r => r.andThen (fun s _ => .ok s j)) s ([], []) ls

/-- The jambs of d and st: TOP. -/
def kvJambs (e : Env) : List (Nat × Jamb) := dstJamb e.f.xOp .top ++ dstJamb e.f.wOp .top

/-- The writes owed to d, st and pd. -/
def Env.kvWrites (e : Env) (rs : List KvResult) : List PendingWrite :=
  let mask := LaneMask.ofLanes (rs.map (fun r => r.lane))
  let of := fun (f : KvResult → Nat) (k : Nat) => ((rs.find? (fun r => r.lane == k)).map f).getD 0
  let reg := fun (o : Operand) (f : KvResult → Nat) =>
    match o with
    | .vreg n => oweLanes n mask e.w.laneCount (of f)
    | _ => []
  let pd := bits e.f.immN 13 10
  reg e.f.xOp (fun r => r.value) ++ reg e.f.wOp (fun r => r.status)
    ++ (if pd = 15 then [] else
      [.pred pd mask (LaneMask.ofLanes ((rs.filter (fun r => r.ok)).map (fun r => r.lane)))])

/-- d and st tagged, the results owed, and the faulting lanes parked. -/
def Env.kvFinish (e : Env) (s : State) (tag : Tag) (rs : List KvResult) (fs : List LaneFault) : Effect :=
  let s := s.modifyWeave e.a.core e.a.slot (fun w =>
    e.owe ((w.tagDst e.f.xOp tag).tagDst e.f.wOp .i32) (some .L) .result (e.kvWrites rs))
  e.parkFaults s 0 fs (kvJambs e)

/-- What a read of a code page needs: a poisoned page is a status (R382). -/
def needPage : Need := { r := true, status := true }

/-- Bytes of a code page as class L reads them, as a number. -/
def Env.pageBytes (e : Env) (s : State) (page off n : Nat) : Got Nat := e.readRangeNat s false (page + off) n needPage

/-- The code bytes of groups 4m to 4m + 3; groups at or beyond G read 0. -/
def Env.kvCodes (e : Env) (d : Nat) (s : State) (l : KvLane) (page : Nat) : Got Nat :=
  let g := kvGroups d
  let first := 4 * l.quad
  let n := min 4 (g - first)
  if n = 0 then (e.reach s page needPage).andThen (fun s _ => .ok s 0)
  else e.pageBytes s page ((if bitAt e.f.modN 0 then 128 * g else 0) + l.pos % 128 * g + first) n

def kvldForm : Form :=
  { engine := .kv
    jambs := kvJambs
    body := fun e =>
      let wait := bitAt e.f.modN 1
      e.withKv (fun s dva d =>
        (e.kvLanes s dva d wait).effect e 0 (fun s j =>
          let away := j.1.filter (fun l => entryState l.entry == 1 || entryState l.entry == 2)
          if wait && !away.isEmpty then
            let (s, whole) := if j.2.isEmpty then (s, false) else s.parkLanes e.a (e.site 0) j.2
            let s := away.foldl (fun s l =>
              if entryState l.entry = 1 then s.planPromotion e.w.id.ctx (entryPage l.entry) (dieOf e.a.core) else s) s
            if whole then .moved s
            else .wait (s.modifyPath e.a (fun q => { q with fetched := [] })) (.kvld (sortNat (away.map (fun l => l.va))))
          else
            (e.kvData s 0 (e.kvCodes d) j.1).effect e 0 (fun s r => e.kvFinish s .vq8x4 r.1 (j.2 ++ r.2)))) }

/-- VQSCORE's score of a position: SCALE × Σ T[g][code], rounded once (R184). A reserved scale gives no number. -/
def vqScore (table : Nat → FVal) (codes : List Byte) (scale : Nat) : Option Nat :=
  let sum := (codes.zip (List.range codes.length)).foldl (fun acc (b, g) => FVal.add 0 acc (table (256 * g + b.toNat)))
    (.fin true 0 0)
  (ue8m8 scale).map (fun sc => fp32.encode 0 false false 0 (sum.mul sc))

/-- The value that stands for a reserved scale until the trap is taken. -/
def reservedScale : Nat := 2 ^ 32

def Env.vqRead (e : Env) (base g : Nat) (s : State) (l : KvLane) (page : Nat) : Got Nat :=
  (e.readRange s false (page + l.pos % 128 * g) g needPage).andThen (fun s codes =>
    (e.pageBytes s page trailerAt 2).andThen (fun s scale =>
      let table := fun (i : Nat) =>
        fp32.decode (ofBytes ((e.now s).laneSpadRead e.serial ((List.range 4).map (fun j => base + 4 * i + j))))
      .ok s ((vqScore table codes scale).getD reservedScale)))

def vqscoreForm : Form :=
  { engine := .kv
    jambs := kvJambs
    body := fun e =>
      e.withKv (fun s dva d =>
        let g := kvGroups d
        let base := aregBase (e.areg (bits e.f.immN 9 6))
        if base % 4 != 0 then structAlign base 2
        else if e.w.spadBytes < base + 1024 * g then spadWindow base 0
        else (fillLines s e.a ((List.range (256 * g)).map (fun i => base + 4 * i))).whole e 0 (fun s _ =>
          (e.kvLanes s dva d false).effect e 0 (fun s j =>
            (e.kvData s 0xFF800000 (e.vqRead base g) j.1).effect e 0 (fun s r =>
              match r.1.find? (fun x => x.value == reservedScale) with
              | some x => .trap (cause 6 4) (BitVec.ofNat 96 (e.f.zN % 1024 * 2 ^ 8 + x.lane % 1024 * 2 ^ 31))
              | none => e.kvFinish s .f32 r.1 (j.2 ++ r.2))))) }

def execKvld (f : Fields) (s : State) : Host.Outcome State Fault Refusal := issue (.kvld f) kvldForm s
def execVqscore (f : Fields) (s : State) : Host.Outcome State Fault Refusal := issue (.vqscore f) vqscoreForm s

/-- A map entry for which nothing waits any more: RESIDENT, POISON, or not VALID. -/
def entryOver (x : Nat) : Bool := entryState x == 0 || entryState x == 3 || !entryValid x

/-- Whether map entries are all over, or cannot be read for good (R182, R190); `seen` is what is known of one on another
module, and `n` what their reader needs. -/
def State.kvReady (s : State) (ctx : Nat) (entries : List Nat) (n : Need) (seen : Nat → Option Nat) : Bool :=
  entries.all (fun va =>
    if 2 ^ 72 ≤ va then true
    else match s.agentRead 0 ctx va n with
      | (t, .phys pa) => entryOver (t.withState ctx (t.readHomeNat pa 8))
      | (t, .remote ..) => (seen va).any (fun x => entryOver (t.withState ctx x))
      | (_, .fault c _) => c != tierWait
      | (_, .busy) => false
      | (_, .nowhere _) => true)

/-- Paths at a KVLD.WAIT that is over issue it again. -/
def State.settleKv (s : State) (c slot : Nat) : State :=
  match s.weave? c slot with
  | none => s
  | some w =>
    w.livePaths.foldl (fun s i =>
      match (w.path? i).map (fun (q : Path) => q.cond) with
      | some (.blocked (.kvld entries)) =>
        -- an entry on another module is read again at every other turn
        if s.kvReady w.id.ctx entries needRead (fun _ => if s.turn % 2 = 1 then some 0 else none) then s.modifyPath { core := c, slot, path := i } (fun q => { q with cond := .ready })
        else s
      | _ => s) s

/-! ### KVAPP (R183, R331) -/

/-- A finite value as an integer times 2^E. -/
def FVal.atScale (base : Int) : FVal → Option Int
  | .fin neg mag exp => some (atExp neg mag exp base)
  | _ => none

/-- A vector of integers squared distance. -/
def sqDist (a b : List Int) : Nat := (a.zip b).foldl (fun n (x, y) => n + ((x - y) * (x - y)).toNat) 0

/-- The lowest entry nearest to a group of channels. -/
def nearest (x : List Int) (book : List (Nat × List Int)) : Nat :=
  match book with
  | [] => 0
  | b :: rest =>
    (rest.foldl (fun (best : Nat × Nat) c =>
      let n := sqDist x c.2
      if n < best.2 then (c.1, n) else best) (b.1, sqDist x b.2)).1

/-- The wholly finite entries of a codebook times the scale, as integers times 2^E. -/
def scaledBook (base : Int) (scale : FVal) (book : List (List FVal)) : List (Nat × List Int) :=
  ((List.range 256).zip book).filterMap (fun (i, row) =>
    let r := row.filterMap (fun x => (x.mul scale).atScale base)
    if r.length = 8 then some (i, r) else none)

/-- The codes of some channels, group by group. -/
def vqCodes (g : Nat) (xs : List Int) (book : List (Nat × List Int)) : List Byte :=
  (List.range g).map (fun i => BitVec.ofNat 8 (nearest ((xs.drop (8 * i)).take 8) book))

/-- Channel c of a register: lane c, and +0 where no acting lane holds it. -/
def Env.channels (e : Env) (o : Operand) (n : Nat) : List FVal :=
  (List.range n).map (fun c => fp32.decode (if e.acting.has c && c < e.w.laneCount then e.read 32 o c else 0))

/-- What an append does to its page: the codes to write, when a position is written; the trailer after it; and pd. -/
structure Append where
  codes : Option (List Byte × List Byte)
  trailer : Nat
  ok : Bool

/-- The append of R183 after its checks: the exact search of the codes. -/
def kvAppend (sealing : Bool) (g trl : Nat) (scale : FVal) (ks vs : List FVal) (book : List (List FVal)) : Append :=
  let base : Int := -160
  let cb := scaledBook base scale book
  let rng : Int := cb.foldl (fun m (_, r) => r.foldl (fun m x => max m x.natAbs) m) 0
  let isOver := fun (x : FVal) => match x.atScale base with
    | some i => rng < i.natAbs
    | none => true
  let clipped := ((ks ++ vs).filter isOver).length
  if sealing && clipped != 0 then { codes := none, trailer := withBits trl 32 32 1, ok := false }
  else
    let clamp := fun (x : FVal) => match x.atScale base with
      | some i => if rng < i.natAbs then (if x.isNeg then -rng else rng) else i
      | none => if x.isNeg then -rng else rng
    let trl := withBits trl 47 40 (pageFill trl + 1)
    let trl := withBits trl 63 48 (min 65535 (pageClips trl + clipped))
    { codes := some (vqCodes g (ks.map clamp) cb, vqCodes g (vs.map clamp) cb), trailer := trl
      ok := sealing || clipped != 0 }

/-- The append performed at the home slice of the page: codes first, then the trailer. -/
def State.performAppend (s : State) (c pa g fill : Nat) (x : Append) : State :=
  let s := match x.codes with
    | some (k, v) => (s.performHome c (pa + fill * g) k).performHome c (pa + 128 * g + fill * g) v
    | none => s
  s.performHome c (pa + trailerAt) (toBytes 8 x.trailer)

/-- KVAPP once its page and codebook have been read; `perform` makes the append and goes on. -/
def kvappEffect (e : Env) (s : State) (d va trl : Nat) (book : List (List FVal))
    (perform : State → Append → (State → Effect) → Effect) : Effect :=
  let sealing := bitAt e.f.modN 0
  let g := kvGroups d
  let ks := e.channels e.f.zOp (8 * g)
  let vs := e.channels e.f.wOp (8 * g)
  let finish := fun (s : State) (ok : Bool) =>
    let s := s.modifyWeave e.a.core e.a.slot (fun w => match e.f.xOp with
      | .pred n => e.setPred w n e.acting (if ok then e.acting else 0)
      | _ => w)
    Effect.done (e.startIf s .L)
  if (ks ++ vs).any FVal.isNan || !book.any (fun r => r.all (fun x => (x.atScale 0).isSome)) then kvTrap 4 va
  else if pageSealed trl || 128 ≤ pageFill trl then (if sealing then finish s false else kvTrap 3 va)
  else match ue8m8 (pageScale trl) with
    | none => .trap (cause 6 4) (BitVec.ofNat 96 (e.f.zN % 1024 * 2 ^ 8))
    | some scale =>
      let x := kvAppend sealing g trl scale ks vs book
      perform s x (fun s => finish s x.ok)

/-- An append to a page of another module: made there where the trailer is still the one read, and else tried anew. -/
def Env.appendRemote (e : Env) (m ctx va g trl : Nat) (s : State) (x : Append) (k : State → Effect) : Effect :=
  let codes := x.codes.getD ([], [])
  (e.remoteStep s (stepKey 0) m ctx va
      (.append (pageFill trl) g (trl % 2 ^ 64) (x.trailer % 2 ^ 64) codes.1 codes.2)).whole e 2 (fun s b =>
    if ofBytes b = 1 then k s
    else .wait (s.modifyPath e.a (fun q => { q with fetched := [] })) (.stall 3))

def kvappForm : Form :=
  { engine := .kv
    body := fun e =>
      if e.awaitsRemote then .wait e.s (.stall 7)
      else e.withKv (fun s _ d =>
        let va := e.kvSecond
        if va % 65536 != 0 then structAlign va 16
        else ((e.reach s va needBoth).andThen (fun s p =>
            match p with
            | .remote m c => (e.fetchRemote s m c (va + trailerAt) 64).andThen (fun s b => .ok s (p, ofBytes b))
            | .phys pa =>
              let s := s.bringHome e.a.core (pa + trailerAt) 64
              .ok s (p, s.readHomeNat (pa + trailerAt) 64))).whole e 2 (fun s (x : Place × Nat) =>
          let trl := x.2
          if pageBad trl || pageGm1 trl + 1 != kvGroups d then kvTrap 0 va
          else match e.tagsFail .f32 [e.f.zOp, e.f.wOp] with
            | some t => t
            | none =>
              (e.readRange s false (kvCbtab d + 4096 * pageBook trl) 4096).whole e 0 (fun s b =>
                let s := s.release e.a.core scopeMd
                kvappEffect e s d va trl (codebook b) (match x.1 with
                  | .phys pa => fun s y k => k (s.performAppend e.a.core pa (kvGroups d) (pageFill trl) y)
                  | .remote m c => e.appendRemote m c va (kvGroups d) trl)))) }

def execKvapp (f : Fields) (s : State) : Host.Outcome State Fault Refusal := issue (.kvapp f) kvappForm s

/-! ### VQLUT (R332) -/

/-- T[g][e] (R184): the exact sum of 8 products, rounded once. -/
def vqEntry (q row : List FVal) : Nat :=
  fp32.encode 0 false false 0 (((q.zip row).map (fun (a, b) => a.mul b)).foldl (FVal.add 0) (.fin true 0 0))

def vqlutForm : Form :=
  { engine := .kv
    body := fun e =>
      match e.tagFails .f32 e.f.yOp, e.f.xOp with
      | some t, _ => t
      | none, .areg n =>
        let g := bits e.f.immN 6 0 + 1
        let base := aregBase (e.areg n)
        let va := e.scalar e.f.zOp
        if va % 4096 != 0 then structAlign va 12
        else if base % 4 != 0 then structAlign base 2
        else if e.w.spadBytes < base + 1024 * g then spadWindow base 1
        else (e.readRange e.s false va 4096).whole e 0 (fun s b =>
          let book := codebook b
          let q := e.channels e.f.yOp (8 * g)
          let offs := (List.range (1024 * g)).map (fun i => base + i)
          (stashStore s e.a offs).whole e 1 (fun s _ =>
            let words := (List.range g).flatMap (fun i => book.map (vqEntry ((q.drop (8 * i)).take 8)))
            .done (e.startIf (s.modifyWeave e.a.core e.a.slot (fun w =>
              (words.zip (List.range (256 * g))).foldl (fun w (v, i) =>
                w.laneSpadWrite e.a.path e.serial i ((List.range 4).map (fun j => base + 4 * i + j)) (toBytes 4 v)) w)) .L)))
      | none, _ => .done e.s }

def execVqlut (f : Fields) (s : State) : Host.Outcome State Fault Refusal := issue (.vqlut f) vqlutForm s

end Sys2Proof.Machine
end

