-- ==== Sys2Proof/Machine/Continuation.lean ====
section
/-! DEFINITION. Continuations: records (R26), SPAWN, PARK, WAKE and ROLE (R30, R186 to R189, R334 to R337), and the
save pool of R417 and R433. -/

namespace Sys2Proof.Machine

/-! ### Continuation records (R26) -/

def recDone (r : Nat) : Nat := bits r 457 433
def recNext (r : Nat) : Nat := bits r 432 408
def recAffshift (r : Nat) : Nat := bits r 407 403
def recCtx (r : Nat) : Nat := bits r 402 397
def recPrio (r : Nat) : Nat := bits r 396 394
def recRole (r : Nat) : Nat := bits r 393 392
def recAregs (r : Nat) : Nat := bits r 391 387
def recStash (r : Nat) : Nat := bits r 386 382
def recSpad (r : Nat) : Nat := bits r 381 371
def recSregs (r : Nat) : Nat := bits r 370 364
def recVregs (r : Nat) : Nat := bits r 363 359
def recLanes (r : Nat) : Nat := bits r 358 354
def recJoin (r : Nat) : Nat := bits r 351 320
def recInstm1 (r : Nat) : Nat := bits r 311 288
def recAffinity (r : Nat) : Nat := bits r 287 216
def recParent (r : Nat) : Nat := bits r 215 144
def recFrame (r : Nat) : Nat := bits r 143 72
def recCode (r : Nat) : Nat := bits r 71 0
/-- The reserved bits that fault a record; its other reserved bits are ignored (R6, R26). -/
def recReserved (r : Nat) : Bool := bits r 511 458 != 0

/-- Byte offset of JOIN in its record. -/
def joinOffset : Nat := 40

/-- A trap of group 15 (R192). -/
def contTrap (index addr : Nat) : Effect := .trap (cause 15 index) (unitDetail addr 0 0)

/-! ### Continuation queues (R428, R429) -/

def queueTail (s : State) (q : Nat) : Nat := s.field (queueBlock q) 351 320
def queueHead (s : State) (q : Nat) : Nat := s.field (queueBlock q) 319 288
def queueCap (s : State) (q : Nat) : Nat := ringSize (s.field (queueBlock q) 407 403) 4 16
def queueHostFed (s : State) (q : Nat) : Bool := s.field (queueBlock q) 6 6 == 1
def queueEnabled (s : State) (q : Nat) : Bool := s.field (queueBlock q) 5 5 == 1
def queueFill (s : State) (q : Nat) : Nat := (queueTail s q + 2 ^ 32 - queueHead s q) % 2 ^ 32

/-- The address of entry `i`. -/
def queueEntryPa (s : State) (q i : Nat) : Nat := s.field (queueBlock q) 447 408 * 4096 + 16 * (i % queueCap s q)

/-- Whether a context may push to a queue by SPAWN. -/
def mayPush (s : State) (ctx q : Nat) : Bool :=
  q ≤ 255 && !queueHostFed s q && queueEnabled s q && bitAt (s.field (queueBlock q) 511 448) ctx

/-- An entry pushed at the ring's home slice. -/
def State.pushEntry (s : State) (q record ctx : Nat) (irq : Bool) : State :=
  let t := queueTail s q
  let s := s.writeHomeNat (queueEntryPa s q t) 16 (record + ctx * 2 ^ 72 + bit01 irq * 2 ^ 78)
  s.setField (queueBlock q) 351 320 (t + 1)

/-! ### SPAWN (R30, R334) -/

/-- The next issue of the instruction finds that it has made step `k` (R30). -/
def Env.stepMade (e : Env) (s : State) (k : Nat) : State :=
  s.modifyPath e.a (fun q => { q with fetched := q.fetched ++ [(stepKey k, [])] })

/-- The spawner's JOIN plus one at its home slice, once for the instruction; answers whether it would pass 2^32 − 1. On
another module it is a CAS, tried again while the word changes meanwhile. -/
def Env.joinOnce (e : Env) (s : State) (va : Nat) (p : Place) : Got Bool :=
  if e.p.fetched.any (fun x => x.1 == stepKey 0) then .ok s false
  else match p with
    | .phys pa =>
      let s := (s.bringHome e.a.core pa 4).touch pa
      if s.readHomeNat pa 4 = 2 ^ 32 - 1 then .ok s true
      else .ok (e.stepMade (s.atomicAt e.a.core scopeMd pa 4 (fun b => toBytes 4 (ofBytes b + 1))).1 0) false
    | .remote m c => (e.fetchRemote s m c va 4).andThen (fun s b =>
        let n := ofBytes b
        if n = 2 ^ 32 - 1 then .ok s true
        else (e.remoteStep s (stepKey 1) m c va (.atomic 9 4 (n + 1) n)).andThen (fun s old =>
          if ofBytes old = n then .ok (e.stepMade s 0) false
          else .wait (s.modifyPath e.a (fun q => { q with fetched := [] }))))

/-- The fields that SPAWN writes into the child, as (offset, bytes): PARENT, and CTX to DONE with the bits between. -/
def childFields (child parent ctx prio : Nat) : List (Nat × List Byte) :=
  let r := withBits child 215 144 parent
  let r := withBits (withBits r 402 397 ctx) 396 394 (min (recPrio child) prio)
  let r := withBits r 457 408 0
  let b := toBytes 64 r
  [(18, (b.drop 18).take 9), (49, (b.drop 49).take 9)]

/-- A field of the child written; on another module as a step of the instruction. -/
def Env.writeChild (e : Env) (s : State) (child : Nat) (p : Place) (x : Nat × List Byte) : Got Unit :=
  match p with
  | .phys pa => .ok (s.writeLines e.a.core (pa + x.1) x.2) ()
  | .remote m c => (e.remoteStep s (stepKey (2 + x.1)) m c (child + x.1) (.store x.2)).andThen (fun s _ => .ok s ())

/-- R30's four steps after the checks, with the release before the record is written and before it is pushed (R101). -/
def Env.spawn (e : Env) (s : State) (q child : Nat) (parent : Option Nat) (jp cp : Place) : Effect :=
  let join := e.w.id.record + joinOffset
  let ctx := e.w.id.ctx
  (e.joinOnce (s.release e.a.core scopeMd) join jp).whole e 2 (fun s past =>
    if past then contTrap 2 e.w.id.record
    else (e.readRangeNat s false child 64).whole e 1 (fun s r =>
      (Got.foldl (fun s _ x => e.writeChild s child cp x) s () (childFields r (parent.getD join) ctx e.w.prio)).whole e 1
        (fun s _ => .done (e.startIf ((s.release e.a.core scopeMd).pushEntry q child ctx false) .L))))

def spawnForm : Form :=
  { body := fun e =>
      let q := e.scalar e.f.xOp
      let child := e.scalar e.f.yOp
      let named := e.f.zOp != .vz
      let c := e.scalar e.f.zOp
      let join := e.w.id.record + joinOffset
      if child % 64 != 0 then structAlign child 6
      else if named && c % 4 != 0 then structAlign c 2
      else if !mayPush e.s e.w.id.ctx q then .trap (cause 8 3) (privDetail e.i q)
      else (e.reach e.s join needBoth).whole e 2 (fun s jp =>
        (e.reach s child needBoth).whole e 1 (fun s cp =>
          (if named then e.reach s c needBoth else .ok s jp).whole e 2 (fun s _ =>
            if queueCap s q ≤ queueFill s q then .wait s (.stall 6)
            else if e.awaitsRemote then .wait s (.stall 7)
            else e.spawn s q child (if named then some c else none) jp cp))) }

def execSpawn (f : Fields) (s : State) : Host.Outcome State Fault Refusal := issue (.spawn f) spawnForm s

/-! ### The save pool (R417, R433) -/

/-- Matrix resources a weave holds on its core: operand slots, permutation slots, tiles. -/
def Core.heldCounts (k : Core) (id : WeaveId) : Nat × Nat × Nat :=
  ((k.operands.filter (fun x => x.2.owner.holder == some id)).length,
   (k.perms.filter (fun x => x.2.owner.holder == some id)).length,
   (k.tiles.filter (fun x => x.2.owner.holder == some id)).length)

/-- S in units of 4 KiB. -/
def saveSize (k : Core) (w : Weave) : Nat :=
  let (a, p, t) := k.heldCounts w.id
  let shutter := if k.shutter.owner.holder == some w.id && k.shutter.state != .free then 16 else 0
  let n := 140 * 1024 + w.laneCount * ((w.vcount + 7) / 8 * 8) * 4 + w.spadBytes + 4096 * w.stashCount
    + 1024 * (41 * a + p + 64 * t + shutter)
  (n + 4095) / 4096

/-- The first free place for `n` units in a context's pool, by its lowest address (log 19). -/
def State.poolPlace (s : State) (ctx n : Nat) : Option Nat :=
  let base := s.field (serviceBlock ctx) 103 64
  let size := s.field (serviceBlock ctx) 63 32
  let mine := (s.saved.map (fun x => x.2)).filter (fun x => x.weave.id.ctx == ctx)
  let starts := base :: mine.map (fun x => x.pool + x.size)
  (sortNat starts).find? (fun a =>
    base ≤ a && a + n ≤ base + size && mine.all (fun x => a + n ≤ x.pool || x.pool + x.size ≤ a))

/-- PUSED follows the records saved. -/
def State.countPool (s : State) (ctx : Nat) : State :=
  let mine := (s.saved.map (fun x => x.2)).filter (fun x => x.weave.id.ctx == ctx)
  s.setField (serviceBlock ctx) 31 0 (mine.foldl (fun n x => n + x.size) 0)

/-- A PARK without room sets POOLWAIT and raises the context's fault vector. -/
def State.poolWait (s : State) (ctx : Nat) : State :=
  if s.field (serviceBlock ctx) 110 110 = 1 then s else (s.setField (serviceBlock ctx) 110 110 1).raiseVector ctx

/-! ### PARK (R186, R187, R335) -/

def parkNr (r : Nat) : Nat := bits r 298 294
def parkWreg (r : Nat) : Nat := bits r 293 288
def parkP (r : Nat) : Nat := bits r 287 272
def parkT2 (r : Nat) : Nat := bits r 271 240
def parkT1 (r : Nat) : Nat := bits r 239 208
def parkRanges (r : Nat) : Nat := bits r 207 136
def parkExpect (r : Nat) : Nat := bits r 135 72
def parkWake (r : Nat) : Nat := bits r 71 0

/-- A range entry's count, whether it is malformed, and its map entries. -/
def rangeCount (x : Nat) : Nat := bits x 111 96
def rangeBad (x : Nat) : Bool := bits x 127 112 != 0 || bits x 95 72 != 0 || rangeCount x == 0
def rangeEntries (x : Nat) : List Nat := (List.range (rangeCount x)).map (fun i => bits x 71 0 + 8 * i)

/-- The weave is to be saved: the watch armed, here at a place or at another module under a token, whose notice may have
come already; and the path at PARK's blocking point. -/
def Env.parkWeave (e : Env) (s : State) (va r pa : Nat) (remote : Option Nat) (entries : List Nat) (pd : Nat) : State :=
  let id := s.serial
  let mine := fun (x : Nat × Nat) => some x.1 == remote
  let s := { s with
    serial := id + 1
    notices := s.notices.filter (fun x => !mine x)
    parks := s.parks ++ [
      { saved := id, ctx := e.w.id.ctx, wakePa := pa, entries, p := parkP r, t1 := parkT1 r,
        t2 := parkT2 r, since := 0, wreg := parkWreg r, pd, armed := remote.isNone
        woken := (s.notices.find? mine).map (fun (x : Nat × Nat) => BitVec.ofNat 64 x.2), promoting := false, aged := 0, remote : ParkEntry }] }
  let s := if (s.poolPlace e.w.id.ctx (saveSize (s.core e.a.core) e.w)).isNone then s.poolWait e.w.id.ctx else s
  s.modifyWeave e.a.core e.a.slot (fun w =>
    let w := if e.f.setN = 0 then w else e.start w none .park []
    { w.modifyPath e.a.path (fun (q : Path) => { q with
        cond := .blocked (.park va e.next), captured := none, replayMask := none, fetched := [] }) with
      evicting := true, parking := some (id, pd) })

def parkForm : Form :=
  { body := fun e =>
      let va := e.scalar e.f.yOp
      let pd := match e.f.xOp with
        | .pred n => n
        | _ => 15
      if va % 64 != 0 then structAlign va 6
      else (e.readRangeNat e.s false va 64).whole e 0 (fun s r =>
        if bits r 511 299 != 0 || 16 < parkNr r || e.w.scount ≤ parkWreg r then contTrap 5 va
        else if parkRanges r % 16 != 0 then structAlign (parkRanges r) 4
        else if parkWake r % 8 != 0 then structAlign (parkWake r) 3
        else (e.readRange s false (parkRanges r) (16 * parkNr r)).whole e 0 (fun s b =>
          let rs := (List.range (parkNr r)).map (fun i => ofBytes ((b.drop (16 * i)).take 16))
          if rs.any rangeBad || rs.foldl (fun n x => n + rangeCount x) 0 < parkP r then contTrap 5 va
          else if e.w.livePaths.length != 1 then contTrap 4 va
          else (e.reach s (parkWake r) needRead).whole e 0 (fun s p =>
            let differs := fun (s : State) => Effect.done (s.modifyWeave e.a.core e.a.slot (fun w => e.setPred w pd e.acting 0))
            match p with
            | .remote m c =>
              (e.remoteStep s (stepKey 0) m c (parkWake r) (.watch (parkExpect r) s.serial)).whole e 0 (fun s b =>
                if ofBytes b = 0 then differs s
                else .moved (e.parkWeave s va r 0 (some (ofBytes b)) (rs.flatMap rangeEntries) pd))
            | .phys pa =>
              let s := s.touch pa
              if s.readHomeNat pa 8 != parkExpect r then differs s
              else .moved (e.parkWeave s va r pa none (rs.flatMap rangeEntries) pd)))) }

def execPark (f : Fields) (s : State) : Host.Outcome State Fault Refusal := issue (.park f) parkForm s

/-! ### WAKE and ROLE (R336, R337) -/

def wakeForm : Form :=
  { body := fun e =>
      let va := e.scalar e.f.yOp
      let v := e.scalar e.f.zOp
      if va % 8 != 0 then structAlign va 3
      else (e.reach e.s va needWrite).whole e 1 (fun s p =>
        if e.awaitsRemote then .wait s (.stall 7)
        else
          let s := s.release e.a.core scopeMd
          match p with
          | .phys pa => .done (e.startIf (s.performHome e.a.core pa (toBytes 8 v)) .L)
          | .remote m c => (e.remoteStep s (stepKey 0) m c va (.wake v)).whole e 1 (fun s _ => .done (e.startIf s .F))) }

def execWake (f : Fields) (s : State) : Host.Outcome State Fault Refusal := issue (.wake f) wakeForm s

def roleForm : Form :=
  { body := fun e =>
      let r := e.scalar e.f.yOp
      if 3 < r then .trap (cause 8 2) (privDetail e.i r)
      else .done (e.s.modifyWeave e.a.core e.a.slot (fun w => { w with role := r })) }

def execRole (f : Fields) (s : State) : Host.Outcome State Fault Refusal := issue (.role f) roleForm s

end Sys2Proof.Machine
end

