-- ==== Sys2Proof/Machine/Control.lean ====
section
/-! DEFINITION. Class 5: branches, calls, reconvergence, the ends of paths, TRAP, BKPT and NOP (R236 to R247). -/

namespace Sys2Proof.Machine

/-- The offset unit of a direct branch: 4 bytes, or 8 in Farno code (R236, R350). -/
def branchUnit (f : Fields) : Int :=
  match f.enc with
  | .native => 4
  | .farno .. => 8

/-- A direct target, exactly (R236). -/
def directTarget (e : Env) : Int := (e.p.pc.toNat : Int) + branchUnit e.f * signed 24 e.f.immN

/-- PC_WRAP on the branch (R212): KIND 3, a fetch, with the branch's own address. -/
def pcWrap (e : Env) : Effect := .trap (cause 1 6) (BitVec.ofNat 96 (e.p.pc.toNat + 3 * 2 ^ 72))

/-- The reconvergence identifier in Z. -/
def ridOf (f : Fields) : Nat := f.zN % 64

/-- R15 for the lanes `t`: to the target, or a trap with DEFER_OVERFLOW. `after` is applied to the resulting weave
with the path that holds `t`, which may come to a safe point there (R355). -/
def branchTo (e : Env) (t : LaneMask) (target : VAddr) (refine : Weave → Nat → Nat → Weave)
    (after : Weave → Nat → Weave) : Effect :=
  match e.w.branch e.a.path t target e.next (ridOf e.f) e.serial refine with
  | none => pathTrap 0 e.p.pc (ridOf e.f)
  | some (w, q) => .moved ((e.put e.s (after w q)).branched { e.a with path := q } e.p.pc)

def noRefine (w : Weave) (_ _ : Nat) : Weave := w
def noAfter (w : Weave) (_ : Nat) : Weave := w

/-- A direct branch of the acting lanes. -/
def withTarget (e : Env) (k : VAddr → Effect) : Effect :=
  let t := directTarget e
  if t < 0 || (2 ^ 72 : Nat) ≤ t then pcWrap e else k (BitVec.ofNat 72 t.toNat)

def braForm : Form := { body := fun e => withTarget e (fun t => branchTo e e.acting t noRefine noAfter) }

def execBra (f : Fields) (s : State) : Host.Outcome State Fault Refusal := issue (.bra f) braForm s

/-- BRX: the target is PC[71:64] joined to s (R238). -/
def brxForm : Form :=
  { body := fun e =>
      let t := BitVec.ofNat 72 (bits e.p.pc.toNat 71 64 * 2 ^ 64 + e.scalar e.f.yOp)
      branchTo e e.acting t noRefine noAfter }

def execBrx (f : Fields) (s : State) : Host.Outcome State Fault Refusal := issue (.brx f) brxForm s

/-! ### BCMP (R48, R49, R239) -/

/-- Narrowing x by a side's interval, when it has one (R44, R49). -/
def narrowBy (w : Weave) (p code width : Nat) (side : Option (Int × Int)) : Weave :=
  match side with
  | some (l, h) => w.narrowJamb p code (Jamb.mk width l h)
  | none => w

/-- Refining x in one path after a split. -/
def refineSide (w : Weave) (p code : Nat) (side : Option (Int × Int)) : Weave :=
  match side with
  | some (l, h) => if code = 0xFF then w else w.setRefinement p code (Jamb.mk 32 l h)
  | none => w

def bcmpForm : Form :=
  { body := fun e =>
      let x := e.f.xOp
      let w := x.width
      let code := x.code
      let c := e.f.cond
      match e.tagsFail .i32 [x, e.f.yOp] with
      | some t => t
      | none => withTarget e (fun target =>
        let holds := fun (k : Nat) => condHolds w c (e.read w x k) (e.read w e.f.yOp k)
        let t := LaneMask.ofLanes (e.lanes.filter holds)
        let sides := refineBy w c (e.jambAt w x) (e.jambAt w e.f.yOp)
        let unguarded := e.f.unguarded
        let fall := if unguarded then sides.2 else none
        if x.isS then
          let side := if holds e.lowLane then sides.1 else sides.2
          branchTo e t target noRefine (fun v _ => narrowBy v e.a.path code w side)
        else if t = 0 then branchTo e t target noRefine (fun v _ => narrowBy v e.a.path code w fall)
        else if e.p.mask &&& ~~~t = 0 then
          branchTo e t target noRefine (fun v _ => narrowBy v e.a.path code w sides.1)
        else branchTo e t target
          (fun v p n => refineSide (refineSide v p code fall) n code sides.1) noAfter) }

def execBcmp (f : Fields) (s : State) : Host.Outcome State Fault Refusal := issue (.bcmp f) bcmpForm s

/-! ### CALL and RET (R240, R241) -/

/-- The link: the low 32 bits of next. -/
def linkOf (e : Env) : Nat := e.next.toNat % 2 ^ 32

def callForm : Form :=
  { jambs := fun e => dstJamb e.f.xOp (.iv (signed 32 (linkOf e)) (signed 32 (linkOf e)))
    body := fun e => withTarget e (fun target =>
      if bits target.toNat 71 32 != bits e.next.toNat 71 32 then
        .trap (cause 9 9) (syncDetail target.toNat (ridOf e.f))
      else branchTo e e.acting target noRefine (fun v q =>
        let v := match e.f.xOp with
          | .vreg n => (e.setLanes v n e.acting (fun _ => linkOf e)).writeTag n .untyped
          | _ => v
        v.writeJamb q e.f.xOp.code (.iv (signed 32 (linkOf e)) (signed 32 (linkOf e))) false)) }

def execCall (f : Fields) (s : State) : Host.Outcome State Fault Refusal := issue (.call f) callForm s

def retForm : Form :=
  { body := fun e =>
      let link := fun (k : Nat) => e.read 32 e.f.yOp k
      let l0 := link e.lowLane
      let target := BitVec.ofNat 72 (bits e.p.pc.toNat 71 32 * 2 ^ 32 + l0)
      if ((e.jambAt 32 e.f.yOp).single 32).isSome || e.lanes.all (fun k => link k == l0) then branchTo e e.acting target noRefine noAfter
      else pathTrap 10 target (ridOf e.f) }

def execRet (f : Fields) (s : State) : Host.Outcome State Fault Refusal := issue (.ret f) retForm s

/-! ### RECONV, EXIT, END (R242 to R244) -/

def reconvForm : Form := { body := fun e => reconvEffect e (ridOf e.f) }

def execReconv (f : Fields) (s : State) : Host.Outcome State Fault Refusal := issue (.reconv f) reconvForm s

/-- EXIT: the acting lanes leave the path for good. -/
def exitForm : Form := { body := fun e => .moved (e.put e.s (e.w.removeLanes e.a.path e.acting e.next)) }

def execExit (f : Fields) (s : State) : Host.Outcome State Fault Refusal := issue (.exit f) exitForm s

def endForm : Form := { body := fun e => .moved (e.s.endWeave e.a.core e.a.slot) }

def execEndWeave (f : Fields) (s : State) : Host.Outcome State Fault Refusal := issue (.endWeave f) endForm s

/-! ### TRAP, BKPT, NOP (R245 to R247) -/

/-- TRAP n, code: the acting lanes park with group 31, to continue at next. -/
def trapForm : Form :=
  { body := fun e =>
      let detail := BitVec.ofNat 96 (bits e.f.immN 23 4)
      let fs := e.lanes.map (fun k => { lane := k, cause := cause 31 (bits e.f.immN 3 0), va := 0, detail : LaneFault })
      let (s, whole) := e.s.parkLanes e.a { e.site 0 with resumesNext := true } fs
      if whole then .moved s else .done s }

def execTrapSw (f : Fields) (s : State) : Host.Outcome State Fault Refusal := issue (.trapSw f) trapForm s

/-- BKPT: a halt when the context's debug enable is set. -/
def bkptForm : Form :=
  { body := fun e =>
      if e.s.debugEnabled e.w.id.ctx && !e.a.isHinge then
        .moved (e.s.haltPath e.a 0 (bits e.f.immN 7 0) false true e.next)
      else .done e.s }

def execBkpt (f : Fields) (s : State) : Host.Outcome State Fault Refusal := issue (.bkpt f) bkptForm s

def nopForm : Form := { body := fun e => .done e.s }

def execNop (f : Fields) (s : State) : Host.Outcome State Fault Refusal := issue (.nop f) nopForm s

end Sys2Proof.Machine
end

