-- ==== Sys2Proof/Machine/Convert.lean ====
section
/-! DEFINITION. Class 2, conversion: CVT, QUANT, DEQUANT, PACK and UNPACK (R258 to R265), and the block formats of
R120 to R123. -/

namespace Sys2Proof.Machine

/-! ### CVT (R258 to R260) -/

/-- One element converted (R259). -/
def convertElem (dst src : Nat) (uns sat : Bool) (mode r v : Nat) : Nat :=
  match tagFloat dst, tagFloat src with
  | some d, some f => d.encode mode sat false r (f.decode v)
  | some d, none =>
    let i : Int := if uns then (v : Int) else signed (elemBits src) v
    d.encode mode sat false r (.ofInteger i)
  | none, some f => uwrap (elemBits dst) (FVal.toInteger mode r (elemBits dst) uns (f.decode v))
  | none, none =>
    let i : Int := if uns then (v : Int) else signed (elemBits src) v
    let w := elemBits dst
    let lo : Int := if uns then 0 else minInt w
    let hi : Int := if uns then (2 ^ w : Nat) - 1 else maxInt w
    uwrap w (if sat then clampInt i lo hi else i)

/-- A source word of CVT: an 8-bit immediate is the integer it holds in every element (log 16). -/
def Env.readElems (e : Env) (c : Nat) (o : Operand) (k : Nat) : Nat :=
  match o with
  | .small v =>
    let x := match tagFloat c with
      | some f => f.encode 0 true false 0 (.ofInteger v)
      | none => uwrap (elemBits c) v
    (List.range (elemsPerWord c)).foldl (fun a i => setElem c a i x) 0
  | _ => e.read 32 o k

/-- The converted lane word: `old` is d's word, kept where a narrowing does not write. -/
def convertWord (f : Fields) (uns sat : Bool) (old v : Nat) (r : Nat → Nat) : Nat :=
  let dst := cvtDst f
  let src := cvtSrc f
  let ns := elemsPerWord src
  let nd := elemsPerWord dst
  let elem := bits f.immN 2 0
  let conv := fun (from_ dest : Nat) => convertElem dst src uns sat f.rnd (r dest) (elemAt src v from_)
  if nd ≤ ns then
    (List.range nd).foldl (fun a i => setElem dst a i (conv (elem * nd + i) i)) 0
  else
    (List.range ns).foldl (fun a i => setElem dst a (elem * ns + i) (conv i (elem * ns + i))) old

def cvtForm (uns sat : Bool) : Form :=
  { jambs := topJamb
    body := fun e =>
      match e.tagsFail (Tag.ofCode (cvtSrc e.f)) [e.f.yOp] with
      | some t => t
      | none =>
        let val := fun (k : Nat) => convertWord e.f uns sat (e.read 32 e.f.xOp k)
          (e.readElems (cvtSrc e.f) e.f.yOp k) (e.random k)
        let w := (e.writeDst e.w e.f.xOp val).tagDst e.f.xOp (Tag.ofCode (cvtDst e.f))
        .done (e.put e.s (e.drawn w e.f.rnd)) }

def execCvt (f : Fields) (s : State) : Host.Outcome State Fault Refusal := issue (.cvt f) (cvtForm false false) s
def execCvtSat (f : Fields) (s : State) : Host.Outcome State Fault Refusal := issue (.cvtSat f) (cvtForm false true) s
def execCvtUns (f : Fields) (s : State) : Host.Outcome State Fault Refusal := issue (.cvtUns f) (cvtForm true false) s
def execCvtSatUns (f : Fields) (s : State) : Host.Outcome State Fault Refusal :=
  issue (.cvtSatUns f) (cvtForm true true) s

/-! ### MX blocks (R120) -/

/-- The exponent of a format's largest finite element. -/
def mxEmax (c : Nat) : Int :=
  match c with
  | 5 => 8 | 6 => 15 | 10 => 4 | _ => 2

/-- The largest magnitude of some finite values, as a ratio. -/
def maxMag (xs : List FVal) : Nat × Nat :=
  xs.foldl (fun m x => match x with
    | .fin _ mag exp =>
      let r := dyadic mag exp
      if m.1 * r.2 < r.1 * m.2 then r else m
    | _ => m) (0, 1)

/-- mx_quantise: the scale byte and the element codes; `r` gives the random bits of an element. -/
def mxQuantise (c mode : Nat) (r : Nat → Nat) (xs : List FVal) : Nat × List Nat :=
  match tagFloat c with
  | none => (0, [])
  | some f =>
    let bad := xs.any (fun x => match x with
      | .fin _ _ _ => false
      | _ => true)
    let m := maxMag xs
    if bad then (0xFF, xs.map (fun _ => 0))
    else if m.1 = 0 then (0, xs.map (fun _ => 0))
    else
      let scale := (clampInt (ratioLog m.1 m.2 - mxEmax c + 127) 0 254).toNat
      (scale, (xs.zip (List.range 32)).map (fun (x, i) => match x with
        | .fin neg mag exp => f.encode mode true false (r i) (.fin neg mag (exp - ((scale : Int) - 127)))
        | _ => 0))

/-! ### Q4X blocks (R121 to R123, R263) -/

/-- The smallest UE8M8 scale at or above a positive ratio, or the largest. -/
def ue8m8Ceil (n d : Nat) : Nat :=
  let e := ratioLog n d
  let ceilDiv := fun (a b : Nat) => (a + b - 1) / b
  if e < -126 then ceilDiv (n * 2 ^ 134) d
  else
    let sh := 8 - e
    let f := ceilDiv (n * 2 ^ sh.toNat) (d * 2 ^ (-sh).toNat)
    let code := (e + 127).toNat * 256 + (f - 256)
    min code 0xFEFF

/-- The outliers: up to n indices of largest magnitude whose mates are not chosen. -/
def chooseOutliers (xs : List FVal) : (n : Nat) → List Nat → List Nat
  | 0, out => out
  | n + 1, out =>
    let cand := (List.range 32).filter (fun i =>
      !((xs[i]?).getD .nan).isZero && !out.contains i && !out.contains (i ^^^ 1))
    match cand with
    | [] => out
    | c :: cs =>
      let mag := fun (i : Nat) => maxMag [((xs[i]?).getD .nan)]
      let best := cs.foldl (fun b i => if (mag b).1 * (mag i).2 < (mag i).1 * (mag b).2 then i else b) c
      chooseOutliers xs n (out ++ [best])

/-- A finite value divided by a UE8M8 scale, as a ratio with its sign. -/
def divScale (x : FVal) (scale : Nat) : Bool × Nat × Nat :=
  match x, ue8m8 scale with
  | .fin neg mag exp, some (.fin _ sm se) =>
    let n := dyadic mag (exp - se)
    (neg, n.1, n.2 * sm)
  | _, _ => (false, 0, 1)

/-- q4x_quantise of 32 finite values: the slot codes and the scale word (SCALE, with OUTL above it). -/
def q4xQuantise (nmax mode : Nat) (r : Nat → Nat) (xs : List FVal) : List Nat × Nat :=
  let out := chooseOutliers xs nmax []
  let at_ := fun (i : Nat) => (xs[i]?).getD (.fin false 0 0)
  let rest := (List.range 32).filter (fun i => !out.contains i && !out.contains (i ^^^ 1))
  let amax := maxMag (rest.map at_)
  let scale := if amax.1 = 0 then 0x7F00 else ue8m8Ceil amax.1 (7 * amax.2)
  let plain := fun (i : Nat) =>
    let q := divScale (at_ i) scale
    let v : Int := roundInt mode q.1 q.2.1 q.2.2 (r i)
    uwrap 4 (clampInt (if q.1 then -v else v) (-7) 7)
  let byte := fun (o : Nat) =>
    let q := divScale (at_ o) scale
    let b := e4m3.round mode true false (r o) q.1 q.2.1 q.2.2
    if o % 2 = 1 ∧ b % 16 = 8 then b - 1 else b
  let codes := (List.range 32).map (fun i =>
    if out.contains i then 8 else if out.contains (i ^^^ 1) then byte (i ^^^ 1) % 16 else plain i)
  let outs := (List.range 32).filter out.contains
  let outl := (outs.zip (List.range 4)).foldl (fun a (o, j) => a + byte o / 16 * 2 ^ (4 * j)) 0
  (codes, scale + outl * 2 ^ 16)

/-- q4x_decode from slot pair m on: the element values, or the index of the group 6 cause. -/
def q4xDecodeFrom (codes : List Nat) (outl : Nat) : (fuel m j : Nat) → Except Nat (List FVal)
  | 0, _, _ => .ok []
  | fuel + 1, m, j =>
    let c0 := (codes[2 * m]?).getD 0
    let c1 := (codes[2 * m + 1]?).getD 0
    let small := fun (c : Nat) => FVal.ofInteger (signed 4 c)
    let more := fun (a b : FVal) (j : Nat) =>
      match q4xDecodeFrom codes outl fuel (m + 1) j with
      | .ok l => Except.ok (a :: b :: l)
      | .error x => .error x
    if c0 = 8 ∨ c1 = 8 then
      if j = 4 then .error 2
      else
        let b := outl / 2 ^ (4 * j) % 16 * 16 + (if c0 = 8 then c1 else c0)
        if b = 0x7F ∨ b = 0xFF then .error 3
        else if c0 = 8 then more (e4m3.decode b) (.fin false 0 0) (j + 1)
        else more (.fin false 0 0) (e4m3.decode b) (j + 1)
    else more (small c0) (small c1) j

def q4xDecode (codes : List Nat) (outl : Nat) : Except Nat (List FVal) := q4xDecodeFrom codes outl 16 0 0

/-! ### QUANT (R262) -/

/-- The groups that have an acting lane. -/
def Env.actingGroups (e : Env) : List Nat := (List.range e.w.groups).filter (fun g => e.acting.word g != 0)

/-- The block values of a group: acting lanes' FP32 values, +0 for the others. -/
def quantInputs (e : Env) (g : Nat) : List FVal :=
  (List.range 32).map (fun i =>
    let k := 32 * g + i
    if e.acting.has k then fp32.decode (e.read 32 e.f.yOp k) else .fin false 0 0)

/-- Group 6's detail of a block (R402): the operand code and the lowest failing lane. -/
def blockDetail (code lane : Nat) : BitVec 96 := BitVec.ofNat 96 ((code % 1024) * 2 ^ 8 + (lane % 1024) * 2 ^ 31)

/-- The codes and the scale of a group. -/
def quantBlock (e : Env) (g : Nat) : List Nat × Nat :=
  let r := fun (i : Nat) => e.random (32 * g + i) 0
  if e.f.fcond = 12 then q4xQuantise (bits e.f.immN 2 0) e.f.rnd r (quantInputs e g)
  else
    let b := mxQuantise e.f.fcond e.f.rnd r (quantInputs e g)
    (b.2, b.1)

def quantForm : Form :=
  { jambs := fun e => dstJamb e.f.xOp .top ++ dstJamb e.f.zOp .top
    body := fun e =>
      match e.tagsFail .f32 [e.f.yOp] with
      | some t => t
      | none =>
        let isQ := e.f.fcond == 12
        let bad := if isQ then e.lanes.find? (fun k => match fp32.decode (e.read 32 e.f.yOp k) with
            | .fin _ _ _ => false
            | _ => true) else none
        match bad with
        | some k => .trap (cause 6 3) (blockDetail e.f.yN k)
        | none =>
          let blocks := (List.range e.w.groups).map (fun g => if e.acting.word g != 0 then quantBlock e g else ([], 0))
          let block := fun (k : Nat) => (blocks[k / 32]?).getD ([], 0)
          let w := e.writeDst e.w e.f.xOp (fun k => ((block k).1[k % 32]?).getD 0)
          let w := e.writeDst w e.f.zOp (fun k => (block k).2)
          let w := (w.tagDst e.f.xOp (Tag.ofCode e.f.fcond)).tagDst e.f.zOp (if isQ then .q4x else .e8m0x4)
          .done (e.put e.s (e.drawn w e.f.rnd)) }

def execQuant (f : Fields) (s : State) : Host.Outcome State Fault Refusal := issue (.quant f) quantForm s

/-! ### DEQUANT (R264) -/

/-- The elements and the scale of a group's block, or the index of the group 6 cause. -/
def dequantBlock (e : Env) (g : Nat) : Except Nat (List FVal × FVal) :=
  let c := e.f.fcond
  let codes := (List.range 32).map (fun i => e.read 32 e.f.yOp (32 * g + i) % 2 ^ elemBits c)
  let sw := e.read 32 e.f.zOp (32 * g)
  if c = 12 then
    match q4xDecode codes (bits sw 31 16), ue8m8 (bits sw 15 0) with
    | .error x, _ => .error x
    | .ok _, none => .error 4
    | .ok l, some sc => .ok (l, sc)
  else
    match tagFloat c with
    | some f => .ok (codes.map f.decode, e8m0 sw)
    | none => .ok ([], .nan)

def dequantForm : Form :=
  { jambs := topJamb
    body := fun e =>
      let isQ := e.f.fcond == 12
      match (e.tagsFail (Tag.ofCode e.f.fcond) [e.f.yOp])
          <|> (e.tagsFail (if isQ then .q4x else .e8m0x4) [e.f.zOp]) with
      | some t => t
      | none =>
        let bad := e.actingGroups.findSome? (fun g => match dequantBlock e g with
          | .error x => some (x, g)
          | .ok _ => none)
        match bad with
        | some (x, g) => .trap (cause 6 x) (blockDetail e.f.yN (32 * g))
        | none =>
          let val := fun (k : Nat) =>
            match dequantBlock e (k / 32) with
            | .ok (l, sc) => fp32.encode e.f.rnd e.f.sat e.f.ftz (e.random k 0)
                (FVal.mul ((l[k % 32]?).getD .nan) sc)
            | .error _ => 0
          let w := (e.writeDst e.w e.f.xOp val).tagDst e.f.xOp .f32
          .done (e.put e.s (e.drawn w e.f.rnd)) }

def execDequant (f : Fields) (s : State) : Host.Outcome State Fault Refusal := issue (.dequant f) dequantForm s

/-! ### PACK and UNPACK (R265) -/

/-- The bit string of 32 codes of width w. -/
def packString (w : Nat) (codes : List Nat) : Nat :=
  (codes.zip (List.range 32)).foldl (fun a (c, i) => a + c % 2 ^ w * 2 ^ (w * i)) 0

def packForm : Form :=
  { jambs := topJamb
    body := fun e =>
      let c := e.f.modN
      match e.tagsFail (Tag.ofCode c) [e.f.yOp] with
      | some t => t
      | none =>
        let w := elemBits c
        let val := fun (k : Nat) =>
          let j := k % 32
          if j < w then
            packString w ((List.range 32).map (fun i => e.read 32 e.f.yOp (k - j + i))) / 2 ^ (32 * j) % 2 ^ 32
          else 0
        .done (e.put e.s ((e.writeDst e.w e.f.xOp val).tagDst e.f.xOp (if w = 6 then .untyped else Tag.ofCode c))) }

def execPack (f : Fields) (s : State) : Host.Outcome State Fault Refusal := issue (.pack f) packForm s

def unpackForm : Form :=
  { jambs := topJamb
    body := fun e =>
      let c := e.f.modN
      let w := elemBits c
      match (if w = 6 then none else e.tagsFail (Tag.ofCode c) [e.f.yOp]) with
      | some t => t
      | none =>
        let val := fun (k : Nat) =>
          let j := k % 32
          packString 32 ((List.range w).map (fun i => e.read 32 e.f.yOp (k - j + i))) / 2 ^ (w * j) % 2 ^ w
        .done (e.put e.s ((e.writeDst e.w e.f.xOp val).tagDst e.f.xOp (Tag.ofCode c))) }

def execUnpack (f : Fields) (s : State) : Host.Outcome State Fault Refusal := issue (.unpack f) unpackForm s

end Sys2Proof.Machine
end

