-- ==== Sys2Proof/Machine/Copy.lean ====
section
/-! DEFINITION. The copy and gather engine (R171 to R179, R319 to R321): CPY, GATHER and SCATTER, their sectors, and
the translation of rows in batches. -/

namespace Sys2Proof.Machine

/-! ### Chunks: what one destination sector takes (R110) -/

/-- Insertion by the destination of a chunk. -/
def insertChunk (key : Nat × Nat → Nat) (x : Nat × Nat) : List (Nat × Nat) → List (Nat × Nat)
  | [] => [x]
  | y :: l => if key x < key y then x :: y :: l else y :: insertChunk key x l

/-- Bytes [u, u + n) of a transfer cut at the destination's sectors, by ascending destination: (u, bytes). -/
def chunksOf (base swz u n : Nat) : List (Nat × Nat) :=
  let cs := (pieces 32 (base + u) n).map (fun (a, k) => (a - base, k))
  if swz = 0 then cs else cs.foldl (fun l x => insertChunk (fun c => swizzle c.1 swz) x l) []

/-- Bytes in a segment of a swizzled CPY: whole rows of every swizzle. -/
def segmentBytes : Nat := 768

/-- What a channel's head does next. `masked` credits a row that is not written. `last`: the transfer's final chunk. -/
inductive CopyUnit where
  | finished
  | held
  | masked (n : Nat) (last : Bool)
  | zero (off : Nat) (u n swz : Nat) (last : Bool)
  | move (src : Side) (srcU srcSwz : Nat) (dst : Side) (dstU dstSwz : Nat) (n : Nat) (last : Bool)

def Side.base : Side → Nat
  | .spad o => o
  | .global va _ => va

def Side.isSpad : Side → Bool
  | .spad _ => true
  | .global .. => false

/-- The next unit of a CPY, with the operation after it. -/
def CopyOp.copyUnit (o : CopyOp) : CopyUnit × CopyOp :=
  let srcSwz := if o.dst.isSpad then 0 else o.swz
  if o.dst.isSpad && o.swz != 0 then
    let start := o.seg * segmentBytes
    let cs := chunksOf o.dst.base o.swz start (min segmentBytes (o.len - start))
    match cs[o.moved]? with
    | none => (.finished, o)
    | some (u, n) =>
      let segOver := o.moved + 1 = cs.length
      let last := segOver && o.len ≤ start + segmentBytes
      (.move o.src u 0 o.dst u o.swz n last,
        if segOver then { o with seg := o.seg + 1, moved := 0 } else { o with moved := o.moved + 1 })
  else if o.len ≤ o.moved then (.finished, o)
  else
    let n := min (32 - (o.dst.base + o.moved) % 32) (o.len - o.moved)
    (.move o.src o.moved srcSwz o.dst o.moved 0 n (o.moved + n == o.len), { o with moved := o.moved + n })

/-- The next unit of a GATHER or SCATTER: the final one waits until every batch has been translated (R176). -/
def CopyOp.rowUnit (o : CopyOp) : CopyUnit × CopyOp :=
  match o.rows with
  | [] => (if o.untranslated.isEmpty then .finished else .held, o)
  | r :: rest =>
    let e := o.rowSize
    let next := { o with rows := rest, moved := 0 }
    if r.masked && !o.toSpad then
      if rest.isEmpty && !o.untranslated.isEmpty then (.held, o) else (.masked e rest.isEmpty, next)
    else
      let spad := if o.toSpad then o.dst else o.src
      let cs := if o.toSpad then chunksOf spad.base o.swz (r.lane * e) e else chunksOf r.va 0 0 e
      match cs[o.moved]? with
      | none => (.finished, next)
      | some (u, n) =>
        let rowOver := o.moved + 1 = cs.length
        let last := rowOver && rest.isEmpty
        let after := if rowOver then next else { o with moved := o.moved + 1 }
        if last && !o.untranslated.isEmpty then (.held, o)
        else if r.masked then (.zero spad.base u n o.swz last, after)
        else if o.toSpad then (.move (.global r.va r.places) (u - r.lane * e) 0 spad u o.swz n last, after)
        else (.move spad (r.lane * e + u) o.swz (.global r.va r.places) u 0 n last, after)

def CopyOp.unit (o : CopyOp) : CopyUnit × CopyOp := if o.isRows then o.rowUnit else o.copyUnit

/-! ### Performing a unit -/

def Core.channel (k : Core) (ch : Nat) : List CopyOp := (Table.find? k.channels ch).getD []
def Core.setChannel (k : Core) (ch : Nat) (l : List CopyOp) : Core := { k with channels := Table.set k.channels ch l }

/-- The head of a channel replaced, or dropped. -/
def State.setHead (s : State) (c ch : Nat) (o : Option CopyOp) : State :=
  s.modifyCore c (fun k => k.setChannel ch (match o with
    | some o => o :: (k.channel ch).drop 1
    | none => (k.channel ch).drop 1))

/-- Scratchpad offsets of n bytes from u on. -/
def sideOffsets (base u n swz : Nat) : List Nat := (List.range n).map (fun i => base + swizzle (u + i) swz)

/-- The remote pieces of a global range that have not arrived: address, length, module and context. -/
def CopyOp.missing (o : CopyOp) (t : Table Place) (va n : Nat) : List (Nat × Nat × Nat × Nat) :=
  (pieces 4096 va n).filterMap (fun (a, k) =>
    match Table.find? t (a / 4096) with
    | some (.remote m c) => if o.arrived.any (fun x => x.1 == a && x.2.length == k) then none else some (a, k, m, c)
    | _ => none)

/-- The bytes of a source. -/
def CopyOp.read (o : CopyOp) (s : State) (w : Weave) (src : Side) (u n swz : Nat) : List Byte :=
  match src with
  | .spad b => (sideOffsets b u n swz).map (w.engineByte o.cls o.op)
  | .global va t =>
    (pieces 4096 (va + u) n).flatMap (fun (a, k) =>
      match Table.find? t (a / 4096) with
      | some (.phys pa) => s.engineRead (pa + a % 4096) k
      | _ => (match o.arrived.find? (fun x => x.1 == a && x.2.length == k) with
        | some x => x.2
        | none => List.replicate k 0))

/-- The bytes of a unit's source whose sectors fail their integrity checks (R177). -/
def CopyOp.failing (s : State) (src : Side) (u n swz : Nat) : List Nat :=
  (List.range n).filter (fun i =>
    match src with
    | .spad b => Config.spadFails s.turn ((b + swizzle (u + i) swz) / 32)
    | .global va t =>
      match Table.find? t ((va + u + i) / 4096) with
      | some (.phys pa) => s.failsCheck (pa + (va + u + i) % 4096)
      | some (.remote ..) => Config.sectorFails s.turn ((va + u + i) / 32)
      | none => false)

/-- A unit's bytes with those of failing sectors zero, as the scratchpad receives them (R177). -/
def zeroAt (bytes : List Byte) (l : List Nat) : List Byte := bytes.mapIdx (fun i b => if l.contains i then 0 else b)

/-- The bytes of a global destination that failing sectors leave poisoned (R177). -/
def State.spoilAt (s : State) (t : Table Place) (va : Nat) (l : List Nat) : State :=
  { s with spoiled := l.foldl (fun acc i =>
      match Table.find? t ((va + i) / 4096) with
      | some (.phys pa) => acc ++ [pa + (va + i) % 4096]
      | _ => acc) s.spoiled }

/-- Status words written, before the final credit (R176). -/
def CopyOp.writeStatus (o : CopyOp) (w : Weave) : Weave :=
  match o.status with
  | none => w
  | some st => o.statusWords.foldl (fun w (g, v) => w.engineSpadWrite .C o.op (st + 4 * g) (toBytes 4 v.toNat) true) w

/-- The credit of a unit's bytes (R175). -/
def CopyOp.credit (o : CopyOp) (w : Weave) (n : Nat) (last : Bool) : Weave :=
  let w := if last then o.writeStatus w else w
  match o.barrier with
  | some b => (if last then w.creditOver b o.op else w).creditAb b n
  | none => w

/-- The fault that a copy which met a failing sector leaves for its path, once its last sector is performed (R177). -/
def CopyOp.poison (o : CopyOp) (w : Weave) : List MatrixFault :=
  o.bad.toList.map (fun va => { path := w.ownerOf o.op o.path, cause := cause 20 3, detail := ringDetail va 4 })

/-- A unit credited; the operation leaves its channel after its last. -/
def State.copyOver (s : State) (c ch : Nat) (o after : CopyOp) (n : Nat) (last : Bool) : State :=
  (s.modifyWeave c o.slot (fun w =>
    let w := o.credit w n last
    if last then { w with matrixFaults := w.matrixFaults ++ after.poison w } else w)).setHead c ch
      (if last then none else some { after with arrived := [], sent := false })

/-- A transfer that a fault ends: its path stops at the next boundary, and the rest is not moved (R442). -/
def State.copyFails (s : State) (c ch : Nat) (o : CopyOp) (cs : Cause) (d : BitVec 96) : State :=
  (s.noteFault (actorOf c o.slot o.path) o.op cs d).setHead c ch none

/-- The mask of bytes of a sector: those of a piece, and those of it that are named. -/
def sectorMask (va n : Nat) (pick : Nat → Bool) : BitVec 32 :=
  BitVec.ofNat 32 (((List.range n).filter pick).foldl (fun m i => m ||| 2 ^ ((va + i) % 32)) 0)

/-- A move whose source has arrived, written at its destination, with the bytes of failing sectors poisoned, or, in the
scratchpad, zero (R177). A store to another module holds the transfer until it has been performed there (R107, R175). -/
def State.copyWrite (s : State) (c ch : Nat) (o after : CopyOp) (dst : Side) (u swz n : Nat) (last : Bool)
    (bytes : List Byte) (bad : List Nat) : State :=
  let a := actorOf c o.slot o.path
  match dst with
  | .spad b =>
    (s.modifyWeave c o.slot (fun w => w.engineSpadWrite o.cls o.op (b + swizzle u swz) (zeroAt bytes bad))).copyOver
      c ch o after n last
  | .global va t =>
    let x := va + u
    match Table.find? t (x / 4096) with
    | some (.phys pa) => ((s.performHome c (pa + x % 4096) bytes).spoilAt t x bad).copyOver c ch o after n last
    | some (.remote m ctx) =>
      (match s.routeFails m with
        | some i => s.copyFails c ch o (cause 19 i) (s.routeDetail x m)
        | none =>
          if s.awaitsCredit m (.store []) then s
          else (s.engineStore a o.op o.weave o.next o.next o.captured m ctx (x - x % 32)
            (.sector (sectorMask x n (fun _ => true)) (sectorMask x n bad.contains)
              (List.replicate (x % 32) 0 ++ bytes ++ List.replicate (32 - x % 32 - n) 0))).setHead c ch
                (some { o with sent := true, bad := after.bad }))
    | none => s.copyOver c ch o after n last

/-- Requests for what a move's source still misses; one that cannot leave ends the transfer. -/
def State.copyFetch (s : State) (c ch : Nat) (o : CopyOp) (l : List (Nat × Nat × Nat × Nat)) : State :=
  if s.requests.any (fun r => r.op == o.op && r.weave == o.weave && r.dest == .copy ch) then s
  else l.foldl (fun s (a, n, m, ctx) =>
    match s.routeFails m with
    | some i => s.copyFails c ch o (cause 19 i) (s.routeDetail a m)
    | none =>
      if s.awaitsCredit m (.load n) then s
      else s.send {
        id := 0, weave := o.weave, core := c, slot := o.slot, path := o.path, lane := 0, op := o.op, port := 0
        module := m, sent := 0, ctx, va := a, what := .load n, dest := .copy ch, pc := o.next, next := o.next
        captured := o.captured, whole := true, waiting := false }) s

/-- Scratchpad bytes that an operation is about to touch, filled and checked first; a fault ends the transfer, and a part
that must wait leaves the unit for later (R79, R80). -/
def State.copyReach (s : State) (c ch : Nat) (o : CopyOp) (offs : List Nat) (write : Bool) (k : State → State) : State :=
  match s.engineReach (actorOf c o.slot o.path) offs write [] o.op with
  | .ok s _ => k s
  | .fault s cs va d =>
    if cs = tierWait then s else s.copyFails c ch o cs (if cs.toRing then ringDetail va (if write then 5 else 4) else d)
  | .wait s => s
  | .nowhere _ => s

/-- Scratchpad offsets of a side. -/
def Side.offsets (x : Side) (u n swz : Nat) : List Nat :=
  match x with
  | .spad b => sideOffsets b u n swz
  | .global .. => []

/-- Offsets that a unit's credit writes: the barrier word's, and after the last unit those of the status words. -/
def CopyOp.creditOffsets (o : CopyOp) (last : Bool) : List Nat :=
  (o.barrier.toList.flatMap (fun b => (List.range 4).map (fun i => b + i)))
    ++ (if last then o.status.toList.flatMap (fun st => o.statusWords.flatMap (fun x => (List.range 4).map (fun i => st + 4 * x.1 + i)))
        else [])

/-- COPY_SECTOR_PERFORMED (R175): the next unit of a channel's head. -/
def State.copySector (s : State) (c ch : Nat) : State :=
  let k := s.core c
  match k.frozen, k.channel ch with
  | false, o :: _ =>
    match o.unit with
    | (.finished, after) => s.setHead c ch (if after.rows.isEmpty then none else some after)
    | (.held, _) => s
    | (.masked n last, after) => s.copyReach c ch o (o.creditOffsets last) true (fun s => s.copyOver c ch o after n last)
    | (.zero b u n swz last, after) =>
      s.copyReach c ch o (sideOffsets b u n swz ++ o.creditOffsets last) true (fun s =>
        (s.modifyWeave c o.slot (fun w => w.engineSpadWrite o.cls o.op (b + swizzle u swz) (List.replicate n 0))).copyOver
          c ch o after n last)
    | (.move src su sswz dst du dswz n last, after) =>
      let miss := match src with
        | .global va t => o.missing t (va + su) n
        | .spad _ => []
      if o.sent then
        if s.requests.any (fun r => r.op == o.op && r.weave == o.weave) then s
        else s.copyReach c ch o (o.creditOffsets last) true (fun s => s.copyOver c ch o { after with bad := o.bad } n last)
      else if !miss.isEmpty then s.copyFetch c ch o miss
      else s.copyReach c ch o (src.offsets su n sswz) false (fun s =>
        s.copyReach c ch o (dst.offsets du n dswz ++ o.creditOffsets last) true (fun s =>
          match s.weave? c o.slot with
          | none => s
          | some w =>
            let bad := CopyOp.failing s src su n sswz
            let bytes := o.read s w src su n sswz
            let after := { after with bad := o.bad.or (bad.head?.map (fun i => src.base + su + i)) }
            let s := match src with
              | .global _ t => s.touchAll t
              | .spad _ => s
            s.copyWrite c ch o after dst du dswz n last bytes bad))
  | _, _ => s

def execCopySectorPerformed (core ch : Nat) (s : State) : Host.Outcome State Fault Refusal := .next (s.copySector core ch)

/-! ### Acceptance -/

/-- The barrier word of a copy, after R175's check. -/
def Env.withBar (e : Env) (ch : Nat) (k : Option Nat → Effect) : Effect :=
  if !copyHasBar e.f then k none
  else
    let b := e.scalar e.f.wOp
    if b % 16 != 0 || e.w.spadBytes < b + 16 then .trap (cause 12 1) (unitDetail b 0 ch) else k (some b)

/-- The bytes of a scratchpad side that are outside the window: one past the greatest, when they are. -/
def swizzledEnd (u n swz : Nat) : Nat :=
  if swz = 0 then u + n
  else
    let row := if swz = 1 then 128 else if swz = 2 then 256 else 192
    let lo := max u ((u + n - 1) / row * row)
    ((List.range (u + n - lo)).map (fun i => swizzle (lo + i) swz + 1)).foldl max 0

def outside (w : Weave) (base u n swz : Nat) : Bool := n != 0 && w.spadBytes < base + swizzledEnd u n swz

/-- An operation taken into its channel. -/
def Env.acceptCopy (e : Env) (s : State) (ch : Nat) (o : CopyOp) : State :=
  let s := s.modifyWeave e.a.core e.a.slot (fun w => e.start w (some o.cls) (.copy ch) [])
  let s := e.recordHistory s
  s.modifyCore e.a.core (fun k => k.setChannel ch (k.channel ch ++ [o]))

/-- The address of a global side (R320). -/
def Env.globalBase (e : Env) (o : Operand) : Nat :=
  match o with
  | .areg n => aregBase (e.areg n)
  | _ => e.scalar o

/-- The pages to read and those to write, marked false and true, in one ascending order. -/
def mergePages : (fuel : Nat) → List Nat → List Nat → List (Bool × Nat)
  | _, [], ws => ws.map (fun p => (true, p))
  | _, rs, [] => rs.map (fun p => (false, p))
  | 0, _, _ => []
  | fuel + 1, r :: rs, w :: ws =>
    if w < r then (true, w) :: mergePages fuel (r :: rs) ws else (false, r) :: mergePages fuel rs (w :: ws)

/-- Both sides of a CPY placed, in ascending address order of the pages (R173). -/
def Env.placeSides (e : Env) (s : State) (gsrc gdst : Bool) (src dst len : Nat) : Got (Table Place × Table Place) :=
  let rs := if gsrc then pagesOf [(src, len)] else []
  let ws := if gdst then pagesOf [(dst, len)] else []
  Got.foldl (fun s (t : Table Place × Table Place) (x : Bool × Nat) =>
    (s.placePage e.a.core e.w.id.ctx [(if x.1 then dst else src, len)] (if x.1 then needWrite else needRead) x.2).andThen (fun s y =>
      .ok s (if x.1 then (t.1, t.2 ++ [y]) else (t.1 ++ [y], t.2)))) s ([], [])
    (mergePages (rs.length + ws.length) rs ws)

def cpyForm : Form :=
  { engine := .copy
    body := fun e =>
      let dir := copyDir e.f
      let gdst := dir == 1 || dir == 2
      let gsrc := dir == 0 || dir == 2
      let dst := if gdst then e.globalBase e.f.xOp else e.scalar e.f.xOp
      let src := if gsrc then e.globalBase e.f.yOp else e.scalar e.f.yOp
      let len := e.scalar e.f.zOp
      let swz := bits e.f.modN 5 4
      let ch := e.f.modN % 4
      let origin := if gdst then src else dst
      let g := originLog2 swz
      let kind := fun (write : Bool) => if write then 5 else 4
      if dst % 4 != 0 then structAlign dst 2
      else if src % 4 != 0 then structAlign src 2
      else if len % 4 != 0 || 2 ^ 24 < len then .trap (cause 12 0) (unitDetail 0 0 ch)
      else if origin % 2 ^ g != 0 then .trap (cause 4 4) (alignDetail origin g 0)
      else if !gsrc && outside e.w src 0 len (if gdst then swz else 0) then spadWindow src (kind false)
      else if !gdst && outside e.w dst 0 len swz then spadWindow dst (kind true)
      else e.withBar ch (fun bar =>
        if 16 ≤ ((e.s.core e.a.core).channel ch).length then .wait e.s (.stall 8)
        else (e.placeSides e.s gsrc gdst src dst len).whole e (if gsrc then 4 else 5) (fun s tt =>
          let offs := fun (isSpad : Bool) (b swz : Nat) => if isSpad && e.w.windows.any winValid then sideOffsets b 0 len swz else []
          ((stashStore s e.a (offs (!gdst) dst swz)).andThen (fun s _ =>
            fillLines s e.a (offs (!gsrc) src (if gdst then swz else 0)))).whole e 5 (fun s _ =>
            .done (e.acceptCopy s ch {
              weave := e.w.id, slot := e.a.slot, path := e.a.path, op := e.serial, next := e.next
              cls := if hasRemote tt.2 then .F else .C
              dst := if gdst then .global dst tt.2 else .spad dst
              src := if gsrc then .global src tt.1 else .spad src
              len, seg := 0, moved := 0, swz, barrier := bar, status := none, isRows := false, toSpad := !gdst
              rowSize := 0, untranslated := [], rows := [], statusWords := [], faults := [], captured := e.capture
              arrived := [], bad := none, sent := false })))) }

def execCpy (f : Fields) (s : State) : Host.Outcome State Fault Refusal := issue (.cpy f) cpyForm s

/-! ### GATHER and SCATTER (R174) -/

/-- The rows of the participating lanes, and the lanes that TRAP parks. -/
def Env.rowsOf (e : Env) (a : BitVec 128) (o : Int) (n size : Nat) : List Row × List LaneFault :=
  e.lanes.foldl (fun acc k =>
    let at_ := (aregBase a : Int) + (e.index e.f.zOp k + o) * (size : Int)
    if !e.inRange a o size k then
      (if aregChk a = 0 then (acc.1 ++ [{ lane := k, va := 0, masked := true, places := [] }], acc.2)
       else (acc.1, acc.2 ++ [e.boundsFault n o 0 k]))
    else if at_ < 0 || (2 ^ 72 : Int) ≤ at_ then
      (acc.1, acc.2 ++ [{ lane := k, cause := cause 1 7, va := uwrap 72 at_, detail := BitVec.ofNat 96 (uwrap 72 at_) }])
    else (acc.1 ++ [{ lane := k, va := at_.toNat, masked := false, places := [] }], acc.2)) ([], [])

/-- The first status word outside the window or misaligned (R176). -/
def statusBad (w : Weave) (st : Nat) (rows : List Row) : Bool :=
  st % 4 != 0 || rows.any (fun r => w.spadBytes < st + 4 * (r.lane / 32) + 4)

/-- The lanes whose rows faulted park from the issuing path, whose other lanes go on (R174). -/
def State.endBatches (s : State) (a : Actor) (o : CopyOp) (kind : Nat) (next : VAddr) : State :=
  if o.faults.isEmpty then s.modifyPath a (fun q => q.goOn next)
  else
    let s := s.modifyPath a (fun q => { q with captured := some o.captured })
    let (s, whole) := s.parkLanes a { kind, next, resumesNext := false, captured := some o.captured } o.faults
    if whole then s else s.modifyPath a (fun q => q.goOn next)

/-- A path halted at the acceptance stays so, with what it has come to (R345). -/
def Path.rehalt (q : Path) (h : Halted) : Path :=
  let parked := match q.cond with
    | .parked k => some k
    | _ => none
  { q with cond := .halted { h with batches := none, atNext := false, parked } }

/-- The issuing path goes on once every batch has been translated (R174); one that steps to completion waits on (R345). -/
def State.batchesOver (s : State) (c : Nat) (o : CopyOp) (kind : Nat) : State :=
  let a := actorOf c o.slot o.path
  match s.path? a with
  | none => s
  | some q =>
    match q.cond with
    | .blocked (.batches op next) =>
      if op != o.op then s
      else (s.endBatches a o kind next).modifyPath a (fun q =>
        if q.stepping = 4 then
          (if q.cond = .ready && q.issued.contains op then { q with cond := .blocked (.hold op), stepping := 3 }
           else { q with stepping := 3 })
        else q)
    | .halted h =>
      if h.batches != some o.op then s
      else ((s.modifyPath a (fun q => { q with cond := .ready })).endBatches a o kind h.next).modifyPath a (fun q => q.rehalt h)
    | _ => s

def rowsForm (toSpad : Bool) : Form :=
  { engine := .copy
    body := fun e =>
      match e.f.yOp with
      | .areg n =>
        let a := e.areg n
        let size := 2 ^ aregEsz a
        let o := offset14 e.f
        let base := e.scalar e.f.xOp
        let swz := bits e.f.modN 5 4
        let ch := e.f.modN % 4
        let g := originLog2 swz
        let kind := if toSpad then 4 else 5
        if aregEsz a < 2 then .trap (cause 12 3) (unitDetail 0 0 ch)
        else match e.tagFails .i32 e.f.zOp with
        | some t => t
        | none =>
        if base % 2 ^ g != 0 then .trap (cause 4 4) (alignDetail base g 0)
        else match e.trapAll o size with
        | some t => t
        | none =>
        let (rows, faults) := e.rowsOf a o n size
        match rows.find? (fun r => (toSpad || !r.masked) && outside e.w base (r.lane * size) size swz) with
        | some r => spadWindow (base + r.lane * size) (if toSpad then 5 else 4)
        | none => e.withBar ch (fun bar =>
          let st := if bitAt e.f.modN 7 then bar.map (fun b => b + 16) else none
          if st.any (fun x => statusBad e.w x rows) then .trap (cause 12 2) (unitDetail (st.getD 0) 0 ch)
          else if 16 ≤ ((e.s.core e.a.core).channel ch).length then .wait e.s (.stall 8)
          else
            let offs := if e.w.windows.any winValid then
                rows.flatMap (fun r => if toSpad || !r.masked then sideOffsets base (r.lane * size) size swz else []) else []
            (if toSpad then stashStore e.s e.a offs else fillLines e.s e.a offs).whole e kind (fun s _ =>
              let s := e.addHeat s n o size
              let s := if toSpad then e.prefetchFootprint s n o size else s
              let op : CopyOp := {
                weave := e.w.id, slot := e.a.slot, path := e.a.path, op := e.serial, next := e.next
                cls := .C, dst := .spad base, src := .spad base, len := 0, seg := 0, moved := 0, swz, barrier := bar
                status := st, isRows := true, toSpad, rowSize := size, untranslated := rows, rows := []
                statusWords := [], faults, captured := e.capture, arrived := [], bad := none, sent := false }
              let s := e.acceptCopy s ch op
              let s := s.modifyPath e.a (fun q => { q with
                cond := .blocked (.batches e.serial e.next), captured := none, replayMask := none })
              .moved (if rows.isEmpty then s.batchesOver e.a.core op kind else s)))
      | _ => .done e.s }

def execGather (f : Fields) (s : State) : Host.Outcome State Fault Refusal := issue (.gather f) (rowsForm true) s
def execScatter (f : Fields) (s : State) : Host.Outcome State Fault Refusal := issue (.scatter f) (rowsForm false) s

/-- A row's pages translated: its places, or its fault; none while a walk waits. -/
def State.placeRow (s : State) (c : Nat) (o : CopyOp) (r : Row) : State × Option (Except LaneFault Row) :=
  if r.masked then (s, some (.ok r))
  else (pagesOf [(r.va, o.rowSize)]).foldl (fun acc page =>
    match acc with
    | (s, some (.ok r)) =>
      let va := max r.va (page * 4096)
      let bad := fun (cs : Cause) (v : Nat) (d : BitVec 96) =>
        some (Except.error { lane := r.lane, cause := cs, va := v, detail := d, acc := some va : LaneFault })
      (match s.translate c o.weave.ctx va { (if o.toSpad then needRead else needWrite) with ahead := true } with
        | (s, .phys pa) => (s, some (.ok { r with places := r.places ++ [(page, .phys (pa - va % 4096))] }))
        | (s, .remote m x) =>
          (match s.routeFails m with
            | some i => (s, bad (cause 19 i) va (s.routeDetail va m))
            | none => (s, some (.ok { r with places := r.places ++ [(page, .remote m x)] })))
        | (s, .fault cs v) => (s, bad cs v (BitVec.ofNat 96 v))
        | (s, .busy) => (s, none)
        | (s, .nowhere v) => (s, bad (cause 1 3) v 0))
    | r => r) (s, some (.ok r))

/-- The status bit of a row that did not park (R176). -/
def setStatus (t : Table (BitVec 32)) (r : Row) : Table (BitVec 32) :=
  let g := r.lane / 32
  let old := (Table.find? t g).getD 0
  Table.set t g (if r.masked then old ||| BitVec.ofNat 32 (2 ^ (r.lane % 32)) else old)

/-- GATHER_BATCH_TRANSLATE (R174): eight lanes' rows of the first operation that has some left. -/
def State.translateBatch (s : State) (c ch : Nat) : State :=
  let k := s.core c
  match k.frozen, (k.channel ch).find? (fun o => !o.untranslated.isEmpty) with
  | false, some o =>
    let (s1, done) := (o.untranslated.take 8).foldl (fun (acc : State × Option CopyOp) r =>
      match acc with
      | (s, some o) =>
        (match s.placeRow c o r with
          | (s, some (.ok r)) => (s, some { o with rows := o.rows ++ [r], statusWords := setStatus o.statusWords r
                                                   cls := if hasRemote r.places && !o.toSpad then .F else o.cls })
          | (s, some (.error f)) => (s, some { o with faults := o.faults ++ [f] })
          | (s, none) => (s, none))
      | x => x) (s, some { o with untranslated := o.untranslated.drop 8 })
    (match done with
      | none => s1
      | some o' =>
        let s2 := s1.modifyCore c (fun k => k.setChannel ch ((k.channel ch).map (fun x =>
          if x.op == o.op && x.weave == o.weave then o' else x)))
        let s2 := s2.modifyWeave c o.slot (fun w => { w with
          ops := w.ops.map (fun x => if x.id == o.op then { x with cls := some o'.cls } else x) })
        if o'.untranslated.isEmpty then s2.batchesOver c o' (if o.toSpad then 4 else 5) else s2)
  | _, _ => s

def execGatherBatchTranslate (core ch : Nat) (s : State) : Host.Outcome State Fault Refusal :=
  .next (s.translateBatch core ch)

/-- OPERATION_COMPLETE of a copy (R315): it has left its channel, and no remote store of it is outstanding. -/
def State.completeCopy (s : State) (c slot ch op : Nat) : State :=
  match s.weave? c slot with
  | none => s
  | some w =>
    if ((s.core c).channel ch).any (fun o => o.op == op && o.weave == w.id)
        || s.requests.any (fun r => r.op == op && r.weave == w.id) then s
    else s.modifyWeave c slot (fun w => w.completeOp op)

end Sys2Proof.Machine
end

