-- ==== Sys2Proof/Machine/Tile.lean ====
section
/-! DEFINITION. Tensor shape records (R316, R317), the stores of the matrix engine (R139), the tiles that MLOAD, ACCLD
and ACCST move (R144, R153, R323, R328), and the arithmetic of a tile task (R135 to R138, R152). -/

namespace Sys2Proof.Machine

/-! ### Shape records -/

def shBase (s : BitVec 512) : Nat := bits s.toNat 71 0
def shStr0 (s : BitVec 512) : Nat := bits s.toNat 111 72
def shDim1 (s : BitVec 512) : Nat := bits s.toNat 135 112
def shDim0 (s : BitVec 512) : Nat := bits s.toNat 159 136
def shSbase (s : BitVec 512) : Nat := bits s.toNat 231 160
def shSstr0 (s : BitVec 512) : Nat := bits s.toNat 271 232
def shFmt (s : BitVec 512) : Nat := bits s.toNat 275 272
def shKind (s : BitVec 512) : Nat := bits s.toNat 277 276
def shSwz (s : BitVec 512) : Nat := bits s.toNat 279 278
def shSpad (s : BitVec 512) : Bool := bitAt s.toNat 280

/-- KIND and FMT pair (R317). -/
def shPairs (kind fmt : Nat) : Bool :=
  match kind with
  | 0 => [3, 4, 5, 6, 7, 8, 12, 1, 2].contains fmt
  | 1 => [5, 6, 9, 10, 11].contains fmt
  | 2 => fmt == 0
  | _ => false

/-- R143: the record breaks R317. -/
def shapeBad (s : BitVec 512) : Bool :=
  bits s.toNat 511 281 != 0 || !shPairs (shKind s) (shFmt s) || shDim0 s == 0 || shDim1 s == 0
    || shStr0 s % 4 != 0 || shBase s % 4 != 0

/-- Elements of a line that one operand slot holds (R146); a permutation slot holds 512 entries. -/
def slotK (fmt : Nat) : Nat :=
  match fmt with
  | 3 | 4 => 128
  | 5 | 6 | 7 | 9 | 10 => 256
  | _ => 512

/-- Where element k of a line begins, in bits (R316). -/
def elemBit (fmt k : Nat) : Nat :=
  match fmt with
  | 0 | 3 | 4 => 16 * k
  | 1 | 2 => 32 * k
  | 8 | 11 => 4 * k
  | 9 | 10 => 192 * (k / 32) + 6 * (k % 32)
  | 12 => 160 * (k / 32) + 4 * (k % 32)
  | _ => 8 * k

/-- Bits of an element in memory. -/
def elemWidth (fmt : Nat) : Nat := if fmt = 0 then 16 else elemBits fmt

/-- The bytes of a line that hold elements [ka, kb), ka < kb: the first, and how many; a Q4X block is read whole. -/
def lineSpan (fmt ka kb : Nat) : Nat × Nat :=
  if fmt = 12 then (20 * (ka / 32), 20 * ((kb - 1) / 32 + 1) - 20 * (ka / 32))
  else
    let lo := elemBit fmt ka / 8
    (lo, (elemBit fmt (kb - 1) + elemWidth fmt + 7) / 8 - lo)

/-- The elements of a line that a slot takes: from ka up to kb, both within the tensor. -/
def lineElems (sh : BitVec 512) (k0 : Int) : Nat × Nat :=
  ((max k0 0).toNat, (min (k0 + slotK (shFmt sh)) (shDim1 sh)).toNat)

/-- The line of a record that row r of a slot takes, when it lies within the tensor and some element does. -/
def slotLine (sh : BitVec 512) (row0 k0 : Int) (r : Nat) : Option Nat :=
  let l := row0 + r
  let (ka, kb) := lineElems sh k0
  if 0 ≤ l && l < (shDim0 sh : Int) && ka < kb then some l.toNat else none

/-- The rows that an MLOAD fills: 128, or one for a permutation. -/
def loadRows (perm : Bool) : Nat := if perm then 1 else 128

/-- The element bytes that an MLOAD reads, as distances from BASE. -/
def loadSpans (sh : BitVec 512) (perm : Bool) (row0 k0 : Int) : List (Nat × Nat) :=
  (List.range (loadRows perm)).filterMap (fun r =>
    (slotLine sh row0 k0 r).map (fun l =>
      let (ka, kb) := lineElems sh k0
      let (lo, n) := lineSpan (shFmt sh) ka kb
      (l * shStr0 sh + lo, n)))

/-- The scale bytes that an MLOAD of an MX record reads, as distances from SBASE. -/
def scaleSpans (sh : BitVec 512) (row0 k0 : Int) : List (Nat × Nat) :=
  if shKind sh != 1 then []
  else (List.range 128).filterMap (fun r =>
    (slotLine sh row0 k0 r).map (fun l =>
      let (ka, kb) := lineElems sh k0
      (l * shSstr0 sh + ka / 32, (kb - 1) / 32 + 1 - ka / 32)))

/-- The element bytes of accumulator rows, as distances from BASE. -/
def accSpans (sh : BitVec 512) (row0 col0 : Nat) : List (Nat × Nat) :=
  (List.range 128).map (fun r => ((row0 + r) * shStr0 sh + 4 * col0, 512))

/-- Scratchpad offsets of the bytes of spans from an origin, swizzled. -/
def spanOffsets (origin swz : Nat) (spans : List (Nat × Nat)) : List Nat :=
  spans.flatMap (fun (u, n) => (List.range n).map (fun i => origin + swizzle (u + i) swz))

/-- Every scratchpad offset that a record's transfer touches. -/
def touchedOffsets (sh : BitVec 512) (spans scales : List (Nat × Nat)) : List Nat :=
  spanOffsets (shBase sh) (shSwz sh) spans ++ spanOffsets (shSbase sh) 0 scales

/-- The global ranges that a record's transfer touches. -/
def touchedRanges (sh : BitVec 512) (spans scales : List (Nat × Nat)) : List (Nat × Nat) :=
  spans.map (fun (u, n) => (shBase sh + u, n)) ++ scales.map (fun (u, n) => (shSbase sh + u, n))

/-- `n` bytes at distance u from an origin, read as class M. -/
def readMatrix (s : State) (a : Actor) (serial : Nat) (sh : BitVec 512) (t : Table Place)
    (fetched : List (Nat × List Byte)) (origin swz u n : Nat) : List Byte :=
  if shSpad sh then
    match s.weave? a.core a.slot with
    | some w => (spanOffsets origin swz [(u, n)]).map (w.engineByte .M serial)
    | none => List.replicate n 0
  else s.placedRead t fetched (origin + u) n

/-! ### Slots and tiles -/

def OperandSlot.blank : OperandSlot := { owner := Owner.none, tag := .untyped, poisoned := false, rows := [], scales := [] }
def PermSlot.blank : PermSlot := { owner := Owner.none, entries := [], poisoned := false }
def Tile.blank : Tile := { owner := Owner.none, tag := .untyped, rows := [] }

def Core.operand (k : Core) (n : Nat) : OperandSlot := (Table.find? k.operands n).getD OperandSlot.blank
def Core.perm (k : Core) (n : Nat) : PermSlot := (Table.find? k.perms n).getD PermSlot.blank
def Core.tile (k : Core) (n : Nat) : Tile := (Table.find? k.tiles n).getD Tile.blank
def Core.setOperand (k : Core) (n : Nat) (x : OperandSlot) : Core := { k with operands := Table.set k.operands n x }
def Core.setPerm (k : Core) (n : Nat) (x : PermSlot) : Core := { k with perms := Table.set k.perms n x }
def Core.setTile (k : Core) (n : Nat) (x : Tile) : Core := { k with tiles := Table.set k.tiles n x }

/-- Whether a weave owns resource i of a claim mask's numbering (R140). -/
def Core.matrixOwner (k : Core) (i : Nat) : Owner :=
  if i < 32 then (k.operand i).owner else if i < 40 then (k.tile (i - 32)).owner else (k.perm (i - 40)).owner

/-- The resources of a 48-bit mask. -/
def maskBits (m : Nat) : List Nat := (List.range 48).filter (bitAt m)

/-- A weave holds every resource of a mask. -/
def Core.holdsAll (k : Core) (id : WeaveId) (m : Nat) : Bool :=
  (maskBits m).all (fun i => (k.matrixOwner i).holder == some id)

/-- The claim of resource i by a weave (R140): zeroed when the last owner is another. -/
def Core.claimResource (k : Core) (id : WeaveId) (i : Nat) : Core :=
  let o := k.matrixOwner i
  if o.holder = some id then k
  else
    let fresh := o.last != some id
    let owner : Owner := { holder := some id, last := some id }
    if i < 32 then k.setOperand i { (if fresh then OperandSlot.blank else k.operand i) with owner }
    else if i < 40 then k.setTile (i - 32) { (if fresh then Tile.blank else k.tile (i - 32)) with owner }
    else k.setPerm (i - 40) { (if fresh then PermSlot.blank else k.perm (i - 40)) with owner }

/-- The release of resource i (R141): the contents stay. -/
def Core.releaseResource (k : Core) (i : Nat) : Core :=
  let owner : Owner := { holder := none, last := (k.matrixOwner i).last }
  if i < 32 then k.setOperand i { k.operand i with owner }
  else if i < 40 then k.setTile (i - 32) { k.tile (i - 32) with owner }
  else k.setPerm (i - 40) { k.perm (i - 40) with owner }

/-! ### Filling a slot (R144, R323) -/

/-- Row r of a slot: the codes, and the block scales. -/
def slotRow (s : State) (a : Actor) (serial : Nat) (sh : BitVec 512) (t : Table Place)
    (fetched : List (Nat × List Byte)) (row0 k0 : Int) (r : Nat) : List Nat × List Nat :=
  let fmt := shFmt sh
  let k := slotK fmt
  let one := if fmt = 12 then 0x7F00 else 0x7F
  match slotLine sh row0 k0 r with
  | none => (List.replicate k 0, List.replicate (k / 32) one)
  | some l =>
    let (ka, kb) := lineElems sh k0
    let (lo, n) := lineSpan fmt ka kb
    let v := ofBytes (readMatrix s a serial sh t fetched (shBase sh) (shSwz sh) (l * shStr0 sh + lo) n)
    let codes := (List.range k).map (fun (j : Nat) =>
      let i : Int := k0 + (j : Int)
      if (ka : Int) ≤ i && i < kb then v / 2 ^ (elemBit fmt i.toNat - 8 * lo) % 2 ^ elemWidth fmt else 0)
    let sc := if shKind sh = 1 then
        ofBytes (readMatrix s a serial sh t fetched (shSbase sh) 0 (l * shSstr0 sh + ka / 32) ((kb - 1) / 32 + 1 - ka / 32))
      else 0
    let scales := (List.range (k / 32)).map (fun (j : Nat) =>
      let i : Int := k0 + 32 * (j : Int)
      if i < 0 || (shDim1 sh : Int) ≤ i then one
      else if fmt = 12 then v / 2 ^ (160 * (i.toNat / 32) + 128 - 8 * lo) % 2 ^ 32
      else if shKind sh = 1 then sc / 2 ^ (8 * (i.toNat / 32 - ka / 32)) % 256
      else one)
    (codes, scales)

/-- The slot after an MLOAD. -/
def fillSlot (s : State) (a : Actor) (serial : Nat) (sh : BitVec 512) (t : Table Place)
    (fetched : List (Nat × List Byte)) (row0 k0 : Int) (x : OperandSlot) : OperandSlot :=
  let rows := (List.range 128).map (slotRow s a serial sh t fetched row0 k0)
  { x with tag := Tag.ofCode (shFmt sh), poisoned := false, rows := rows.map (fun x => x.1), scales := rows.map (fun x => x.2) }

/-! ### Tile tasks (R146, R147, R324 to R327) -/

/-- The slot tag that a format code expects (R324). -/
def taskTag (scaled : Bool) (code : Nat) : Tag :=
  match scaled, code with
  | false, 0 => .f16x2 | false, 1 => .bf16x2 | false, 2 => .e4m3x4 | false, 3 => .e5m2x4 | false, 4 => .i8x4
  | false, _ => .i4x8
  | true, 0 => .e4m3x4 | true, 1 => .e5m2x4 | true, 2 => .e2m3x4 | true, 3 => .e3m2x4 | true, 4 => .e2m1x8
  | true, _ => .q4x

/-- MACs of a cell in a cycle (R146). -/
def taskMacs (scaled : Bool) (af : Nat) : Nat :=
  if scaled then (if af ≤ 3 then 4 else 8) else if af ≤ 1 then 2 else if af ≤ 4 then 4 else 8

def TileTask.macs (t : TileTask) : Nat := taskMacs t.scaled t.af
def TileTask.slotK (t : TileTask) : Nat := 64 * t.macs
def TileTask.isInt (t : TileTask) : Bool := !t.scaled && 4 ≤ t.af
def TileTask.accTag (t : TileTask) : Tag := if t.isInt then .i32 else .f32

/-- The task that a record names (R326). -/
def TileTask.ofRecord (r : BitVec 256) : TileTask :=
  let v := r.toNat
  { tile := bits v 2 0, aslot := bits v 7 3, bslot := bits v 12 8, n := bits v 14 13 + 1
    perm := if bitAt v 15 then some (bits v 18 16) else none
    ftz := bitAt v 26, af := bits v 22 20, bf := bits v 25 23, scaled := bitAt v 19
    first := bits v 39 32, count := bits v 48 40, record := some r }

/-- A task found bad at its start (R327): TILE_BAD. -/
def TileTask.recordBad (t : TileTask) : Bool :=
  match t.record with
  | none => false
  | some r =>
    bits r.toNat 255 49 != 0 || bits r.toNat 31 27 != 0 || !tilePairOk t.scaled t.af t.bf || t.count == 0
      || 64 * t.n < t.first + t.count || 31 < t.aslot + t.n - 1 || 31 < t.bslot + t.n - 1
      || (t.perm.isSome && (!t.scaled || t.n != 1))

/-- The resources that a task names. -/
def TileTask.names (t : TileTask) : Nat :=
  let range := fun (a : Nat) => (List.range t.n).foldl (fun m i => if a + i ≤ 31 then m ||| 2 ^ (a + i) else m) 0
  range t.aslot ||| range t.bslot ||| 2 ^ (32 + t.tile) ||| (match t.perm with
    | some p => 2 ^ (40 + p)
    | none => 0)

/-- The resources that a matrix operation names. -/
def MatrixWork.names : MatrixWork → Nat
  | .release m => m.toNat
  | .load n perm .. => 2 ^ (if perm then 40 + n else n)
  | .task t => t.names
  | .accLoad t .. | .accStore t .. | .accZero t _ => 2 ^ (32 + t)

/-- The tile and the tag that the acceptance of an operation writes (R325, R328); a record that is bad, or that names a tile
which the weave does not hold, writes none then. -/
def MatrixWork.tagSet (k : Core) (id : WeaveId) : MatrixWork → Option (Nat × Tag)
  | .task t => if t.recordBad || (k.tile t.tile).owner.holder != some id then none else some (t.tile, t.accTag)
  | .accLoad n sh .. => some (n, Tag.ofCode (shFmt sh))
  | .accZero n int => some (n, if int then .i32 else .f32)
  | _ => none

def MatrixWork.isTask : MatrixWork → Bool
  | .task _ => true
  | _ => false

/-! ### The arithmetic of a step -/

/-- FTZ on an element's value, before its scale (R137): `sub` bounds the magnitudes of subnormals at `exp`. -/
def flushValue (ftz : Bool) (f : FloatFmt) (v : FVal) : FVal :=
  match v with
  | .fin neg mag exp =>
    if ftz && mag < 2 ^ f.mb && exp == 1 - (f.bias : Int) - f.mb then .fin neg 0 exp else v
  | _ => v

/-- A block as it enters the array: 32 values and the scale, or the index of the group 6 cause (R124). -/
def taskBlock (scaled ftz : Bool) (code : Nat) (x : OperandSlot) (row block : Nat) : Except Nat (List FVal × FVal) :=
  let codes := (((x.rows[row]?).getD []).drop (32 * block)).take 32
  let codes := codes ++ List.replicate (32 - codes.length) 0
  let sc := (((x.scales[row]?).getD [])[block]?).getD 0
  if scaled && code = 5 then
    match q4xDecode codes (bits sc 31 16), ue8m8 (bits sc 15 0) with
    | .error i, _ => .error i
    | .ok _, none => .error 4
    | .ok l, some v => .ok (l.map (flushValue ftz e4m3), v)
  else
    let vals := match tagFloat (taskTag scaled code).code with
      | some f => codes.map (fun c => flushValue ftz f (f.decode c))
      | none => codes.map (fun c => FVal.ofInteger (signed (elemBits (taskTag scaled code).code) c))
    .ok (vals, if scaled then e8m0 sc else .fin false 1 0)

/-- The operand slot and the place in it of element k of a row of A, or of a column of B. -/
def Core.taskSide (k : Core) (t : TileTask) (first code row kk : Nat) : Except Nat (FVal × FVal) :=
  let slot := k.operand (first + kk / t.slotK)
  let j := kk % t.slotK
  match taskBlock t.scaled t.ftz code slot row (j / 32) with
  | .error i => .error i
  | .ok (l, sc) => .ok ((l[j % 32]?).getD (.fin false 0 0), sc)

/-- The elements of a row of A, or a column of B, that a step uses: (value, scale) for each. -/
def Core.stepSide (k : Core) (t : TileTask) (first code row : Nat) (ks : List Nat) :
    Except Nat (List (FVal × FVal)) :=
  ks.foldl (fun acc kk =>
    match acc with
    | .error i => .error i
    | .ok l => (match k.taskSide t first code row kk with
      | .error i => .error i
      | .ok v => .ok (l ++ [v]))) (.ok [])

/-- The exact sum of products of a cell: no product starts it (R136). -/
def sumProducts : List FVal → FVal
  | [] => .fin false 0 0
  | p :: ps => ps.foldl (FVal.add 0) p

/-- Cell (i, j) after a step. A negative sum that a UE8M8 scale of 0 takes to zero keeps its sign, which the spec leaves open (log
77). -/
def cellStep (t : TileTask) (a b : List (FVal × FVal)) (old : Word32) : Word32 :=
  if t.isInt then
    let p := (a.zip b).foldl (fun acc (x, y) => match FVal.mul x.1 y.1 with
      | .fin neg mag _ => if neg then acc - (mag : Int) else acc + mag
      | _ => acc) (0 : Int)
    BitVec.ofNat 32 (uwrap 32 (signed 32 old.toNat + p))
  else
    let scaleOf := fun (l : List (FVal × FVal)) => match l with
      | x :: _ => x.2
      | [] => .fin false 1 0
    let p := if t.perm.isSome then
        FVal.mul (sumProducts ((a.zip b).map (fun (x, y) => FVal.mul (FVal.mul x.1 y.1) y.2))) (scaleOf a)
      else
        let p := sumProducts ((a.zip b).map (fun (x, y) => FVal.mul x.1 y.1))
        if t.scaled then FVal.mul (FVal.mul p (scaleOf a)) (scaleOf b) else p
    BitVec.ofNat 32 (fp32.encode 0 false t.ftz 0 (FVal.add 0 (fp32.decode old.toNat) p))

/-- A cell of rows that may be short. -/
def cellAt (rows : List (List Word32)) (i j : Nat) : Word32 := (((rows[i]?).getD [])[j]?).getD 0

/-- The B elements of a step, through the permutation when one is named (R152). -/
def Core.stepKs (k : Core) (t : TileTask) (step : Nat) : List Nat × List Nat :=
  let ks := (List.range t.macs).map (fun i => step * t.macs + i)
  (ks, match t.perm with
    | some p => ks.map (fun x => (((k.perm p).entries[x]?).getD 0))
    | none => ks)

/-- The sides of a step for the 128 rows of A or columns of B, or the first failure: its row, slot, block and cause. -/
def Core.stepSides (k : Core) (t : TileTask) (first code : Nat) (ks : List Nat) :
    Except (Nat × Nat × Nat) (List (List (FVal × FVal))) :=
  (List.range 128).foldl (fun acc r =>
    match acc with
    | .error x => .error x
    | .ok l => (match k.stepSide t first code r ks with
      | .ok v => .ok (l ++ [v])
      | .error i => .error (i, first + ks.headD 0 / t.slotK, ks.headD 0 % t.slotK / 32))) (.ok [])

/-- One step of a task on the cells (R135), or its failure: cause index, slot and block within the line. -/
def Core.taskStep (k : Core) (t : TileTask) (step : Nat) (cells : List (List Word32)) :
    Except (Nat × Nat × Nat) (List (List Word32)) :=
  let (ka, kb) := k.stepKs t step
  match k.stepSides t t.aslot t.af ka, k.stepSides t t.bslot t.bf kb with
  | .error x, _ => .error x
  | .ok _, .error x => .error x
  | .ok a, .ok b =>
    .ok ((a.zip (List.range 128)).map (fun (x, i) => (b.zip (List.range 128)).map (fun (y, j) =>
      cellStep t x y (cellAt cells i j))))

/-- Steps of a task from `step` on: the cells, with the failing step when one fails. -/
def Core.taskSteps (k : Core) (t : TileTask) : (fuel step : Nat) → List (List Word32) →
    List (List Word32) × Option (Nat × Nat × Nat × Nat)
  | 0, _, cells => (cells, none)
  | fuel + 1, step, cells =>
    match k.taskStep t step cells with
    | .error x => (cells, some (step, x))
    | .ok cells => k.taskSteps t fuel (step + 1) cells

end Sys2Proof.Machine
end

