-- ==== Sys2Proof/Machine/Place.lean ====
section
/-! DEFINITION. Where a weave may run (R28, R33, R154, R170): room on a scheduler and a core, and the order in which
the schedulers of the module are tried. -/

namespace Sys2Proof.Machine

/-- What a weave needs of a scheduler and a core (R27, R28), with the engine resources a returning one needs free. -/
structure Shape where
  /-- Lanes times vector registers, in 32-bit words. -/
  words : Nat
  spad : Nat
  stash : Nat
  operands : List Nat
  perms : List Nat
  tiles : List Nat
  shutter : Bool
deriving DecidableEq, Repr

/-- Vector registers for the field VREGS (R26): v0 to v254 for 31, which count as 255 (log 75). -/
def vregCount (v : Nat) : Nat := if v = 31 then 255 else 8 * (v + 1)

def Shape.ofRecord (r : Nat) : Shape :=
  { words := 32 * (recLanes r + 1) * vregCount (recVregs r), spad := 256 * recSpad r, stash := recStash r
    operands := [], perms := [], tiles := [], shutter := false }

def Shape.ofSaved (x : Saved) : Shape :=
  { words := x.weave.laneCount * x.weave.vcount, spad := x.weave.spadBytes, stash := x.weave.stashCount
    operands := x.engines.operands.map (fun o => o.1), perms := x.engines.perms.map (fun o => o.1)
    tiles := x.engines.tiles.map (fun o => o.1), shutter := x.engines.shutter.isSome }

/-- Words of a scheduler's 512 KiB register file, and bytes of a core's scratchpad (R27, R70). -/
def registerWords : Nat := 131072
def spadCapacity : Nat := 384 * 1024

/-- R27: no empty scheduler can hold the record's shape. -/
def shapeUnfit (r : Nat) : Bool :=
  registerWords < 32 * (recLanes r + 1) * vregCount (recVregs r) || 16 < recAregs r || 16 < recStash r
    || 1536 < recSpad r || recSregs r < 2 || 64 < recSregs r

/-- The weaves of a core, or of one of its four schedulers. -/
def Core.weaves (k : Core) : Table Weave := k.slots.filter (fun x => x.1 < hingeSlot)
def Core.schedWeaves (k : Core) (sched : Nat) : Table Weave := k.weaves.filter (fun x => x.1 / 16 == sched)

/-- A sum over a table. -/
def sumOf (t : Table Weave) (f : Weave → Nat) : Nat := t.foldl (fun n x => n + f x.2) 0

/-- The lowest free slot of a scheduler. -/
def Core.freeSlot (k : Core) (sched : Nat) : Option Nat :=
  (List.range 16).findSome? (fun i =>
    if (Table.find? k.slots (16 * sched + i)).isNone then some (16 * sched + i) else none)

/-- A scheduler of a core can hold a shape now; the slot it would take. -/
def Core.room (k : Core) (sched : Nat) (x : Shape) : Option Nat :=
  let heldBy := fun (o : Owner) => o.holder.isSome
  if k.frozen || k.outOfService || k.draining then none
  else if registerWords < sumOf (k.schedWeaves sched) (fun w => w.laneCount * w.vcount) + x.words then none
  else if spadCapacity < sumOf k.weaves (fun w => w.spadBytes) + x.spad then none
  else if 16 < sumOf k.weaves (fun w => w.stashCount) + x.stash then none
  else if x.operands.any (fun n => heldBy (k.operand n).owner) || x.perms.any (fun n => heldBy (k.perm n).owner)
      || x.tiles.any (fun n => heldBy (k.tile n).owner) then none
  else if x.shutter && heldBy k.shutter.owner then none
  else k.freeSlot sched

/-- Resident weaves of a quad. -/
def State.quadLoad (s : State) (q : Nat) : Nat :=
  (List.range 4).foldl (fun n j => n + (s.core (4 * q + j)).weaves.length) 0

/-- The first of a list with the least key. -/
def leastBy (f : Nat → Nat) : List Nat → Option Nat
  | [] => none
  | x :: l => some (l.foldl (fun best y => if f y < f best then y else best) x)

/-- The scheduler of a quad that takes a shape: the one with the fewest resident weaves, the lowest index on a tie. -/
def State.roomInQuad (s : State) (q : Nat) (x : Shape) : Option (Nat × Nat) :=
  let fits := (List.range 16).filter (fun i =>
    (s.die (q / Config.quadsPerDie)).powered && ((s.core (4 * q + i / 4)).room (i % 4) x).isSome)
  match leastBy (fun i => ((s.core (4 * q + i / 4)).schedWeaves (i % 4)).length) fits with
  | none => none
  | some i => ((s.core (4 * q + i / 4)).room (i % 4) x).map (fun slot => (4 * q + i / 4, slot))

/-- The quads of a die in ascending distance from one of them. -/
def quadsByDistance (q : Nat) : List Nat :=
  let d := q / Config.quadsPerDie
  let own := (List.range Config.quadsPerDie).map (fun i => d * Config.quadsPerDie + i)
  let dist := fun (p : Nat) => if p ≤ q then q - p else p - q
  (List.range Config.quadsPerDie).flatMap (fun n => own.filter (fun p => dist p == n))

/-- Every quad of the module by resident weaves, then by index. -/
def State.quadsByLoad (s : State) : List Nat :=
  let all := List.range (Config.dies * Config.quadsPerDie)
  let loads := sortNat (all.map s.quadLoad)
  loads.flatMap (fun n => all.filter (fun q => s.quadLoad q == n))

/-- Where the page of an affinity address lies (R33): the quad it chooses, and a page to promote. A page that a weave could
not read is a translation that fails, and one of the host window has no affinity (log 71). -/
def State.affinity (s : State) (ctx a : Nat) : Nat × Bool :=
  let least := (s.quadsByLoad.head?).getD 0
  let ofDie := fun (d : Nat) =>
    (leastBy s.quadLoad ((List.range Config.quadsPerDie).map (fun i => d * Config.quadsPerDie + i))).getD 0
  if a = 0 || 2 ^ 72 ≤ a then (least, false)
  else match s.walk ctx a with
    | .leaf e _ size sub =>
      let l := Leaf.of e sub
      let pa := l.pa sub size a
      let f := s.frame (frameKey l.tier (if l.tier = 2 then l.frame else pa / 65536))
      if sub || l.frameBad sub size || (l.w && l.x) || (l.denies needRead).isSome || l.poison || l.tier = 3
          || !(f.free || f.shared || f.owner == ctx) then (least, false)
      else
        if l.tier = 0 then
          (pa / hbmPerDie * Config.quadsPerDie + pa / 65536 % 96 / 4, false)
        else if l.tier = 1 then (ofDie (homeDie pa), true)
        else (ofDie (min (l.frame / 2 ^ 26 / 4) 3), true)
    | _ => (least, false)

/-- An instance to be placed. -/
structure Instance where
  ctx : Nat
  record : Nat
  inst : Nat
  affinity : Nat
  shape : Shape
deriving DecidableEq, Repr

/-- The affinity address of an instance (R26). -/
def instanceAffinity (r inst : Nat) : Nat := if recAffinity r = 0 then 0 else recAffinity r + inst * 2 ^ recAffshift r

/-- Cycles of a spill time in ns (R440). -/
def spillCycles (ns : Nat) : Nat := (ns * 21 + 9) / 10

/-- The core and slot that R33 gives an instance now. -/
def State.placeInstance (s : State) (x : Instance) : Option (Nat × Nat) :=
  let q := (s.affinity x.ctx x.affinity).1
  let near := (quadsByDistance q).findSome? (fun p => s.roomInQuad p x.shape)
  let d := q / Config.quadsPerDie
  let ns := s.field fabricBlock (32 * d + 159) (32 * d + 128)
  let spilled := ns != 2 ^ 32 - 1 && s.spills.any (fun y =>
    y.ctx == x.ctx && y.record == x.record && y.inst == x.inst && y.die == d && y.since + spillCycles ns ≤ s.tick)
  match near with
  | some p => some p
  | none => if spilled then s.quadsByLoad.findSome? (fun p => s.roomInQuad p x.shape) else none

/-- A page of the CXL or flash tier that an instance's affinity names is promoted at once. -/
def State.promoteAffinity (s : State) (x : Instance) : State :=
  let (q, promote) := s.affinity x.ctx x.affinity
  if promote then s.planPromotion x.ctx x.affinity (q / Config.quadsPerDie) else s

/-- The spill time of an instance starts when it first finds no room on its chosen die. -/
def State.startSpill (s : State) (x : Instance) : State :=
  let s := s.promoteAffinity x
  let d := (s.affinity x.ctx x.affinity).1 / Config.quadsPerDie
  if s.spills.any (fun y => y.ctx == x.ctx && y.record == x.record && y.inst == x.inst && y.die == d) then s
  else { s with spills := s.spills ++ [{ ctx := x.ctx, record := x.record, inst := x.inst, die := d, since := s.tick }] }

/-- A placed instance waits no longer. -/
def State.placed (s : State) (x : Instance) : State :=
  let s := s.promoteAffinity x
  { s with spills := s.spills.filter (fun y => !(y.ctx == x.ctx && y.record == x.record && y.inst == x.inst)) }

end Sys2Proof.Machine
end

