-- ==== Sys2Proof/Machine/Lane.lean ====
section
/-! DEFINITION. Class 1: tags, moves, shuffles, votes, ballots and reductions (R267 to R275). QPERM stands with the
matrix forms. -/

namespace Sys2Proof.Machine

/-- The sources of a move: a register's jamb at its own width, and everything else at 64 bits (R47, R268). -/
def moveJamb (e : Env) (wd : Nat) (o : Operand) : Jamb :=
  if o.isVec then JambRule.move 32 wd (e.jambAt 32 o) else JambRule.move 64 wd (e.jambAt 64 o)

/-! ### FMTSET and FMTGET (R267) -/

def fmtsetForm : Form :=
  { body := fun e => .done (e.put e.s (e.w.tagDst e.f.xOp (Tag.ofCode (bits e.f.immN 3 0)))) }

def execFmtset (f : Fields) (s : State) : Host.Outcome State Fault Refusal := issue (.fmtset f) fmtsetForm s

/-- The tag code of an operand: 0 for vz. -/
def Env.tagCode (e : Env) (o : Operand) : Nat :=
  match o with
  | .vreg n => (e.w.tag n).code
  | _ => 0

def fmtgetForm : Form :=
  { jambs := fun e => dstJamb e.f.xOp (.iv 0 15)
    body := fun e =>
      .done (e.put e.s ((e.writeDst e.w e.f.xOp (fun _ => e.tagCode e.f.yOp)).tagDst e.f.xOp .i32)) }

def execFmtget (f : Fields) (s : State) : Host.Outcome State Fault Refusal := issue (.fmtget f) fmtgetForm s

/-! ### MOV and MOVS (R196, R268, R269) -/

/-- The bits of sr_mode that a write changes: [1:0], [2] and [41:6] (R33, R196). -/
def modeMask : Nat := 0x3FFFFFFFFC7

/-- A write of sr_rng or sr_mode. -/
def Weave.writeSpecial (w : Weave) (code v : Nat) : Weave :=
  if code = 0x145 then { w with rng := BitVec.ofNat 64 v }
  else if code = 0x146 then { w with mode := BitVec.ofNat 64 (v &&& modeMask) }
  else w

def movForm : Form :=
  { jambs := fun e => dstJamb e.f.xOp (moveJamb e e.f.xOp.width e.f.yOp)
    body := fun e =>
      match e.f.xOp with
      | .special c => .done (e.put e.s (e.w.writeSpecial c (e.scalar e.f.yOp)))
      | x =>
        let w := e.writeDst e.w x (fun k => e.read 64 e.f.yOp k)
        .done (e.put e.s (w.tagDst x (Tag.ofCode (e.tagCode e.f.yOp)))) }

def execMov (f : Fields) (s : State) : Host.Outcome State Fault Refusal := issue (.mov f) movForm s

/-- MOVS keeps the source's 64-bit jamb where it lies within the signed 32-bit range (R269). -/
def movsJamb (a : Jamb) : Jamb := if a.within 64 (minInt 32) (maxInt 32) then a else .top

/-- MOVS: the low 32 bits, sign-extended. -/
def movsForm : Form :=
  { jambs := fun e => dstJamb e.f.xOp (movsJamb (e.jambAt 64 e.f.yOp))
    body := fun e =>
      .done (e.put e.s (e.writeDst e.w e.f.xOp (fun k => uwrap 64 (signed 32 (e.read 32 e.f.yOp k))))) }

def execMovs (f : Fields) (s : State) : Host.Outcome State Fault Refusal := issue (.movs f) movsForm s

/-! ### S2V and V2S (R270) -/

/-- The lane that Z names. -/
def Env.namedLane (e : Env) : Nat := e.scalar e.f.zOp % e.w.laneCount

/-- S2V: the jamb is joined with the old one, since the other lanes keep their values. -/
def s2vForm : Form :=
  { jambs := fun e =>
      dstJamb e.f.xOp (Jamb.hull 32 (e.jambAt 32 e.f.xOp) (moveJamb e 32 e.f.yOp))
    body := fun e =>
      match e.f.xOp with
      | .vreg n =>
        let l := e.namedLane
        .done (e.put e.s (e.setLanes e.w n (e.acting &&& LaneMask.ofLanes [l]) (fun _ => e.scalar e.f.yOp)))
      | _ => .done e.s }

def execS2v (f : Fields) (s : State) : Host.Outcome State Fault Refusal := issue (.s2v f) s2vForm s

def v2sForm : Form :=
  { jambs := fun e =>
      dstJamb e.f.xOp (if e.p.mask.has e.namedLane then JambRule.move 32 64 (e.jambAt 32 e.f.yOp) else .top)
    body := fun e =>
      .done (e.put e.s (e.writeDst e.w e.f.xOp (fun _ => uwrap 64 (e.readInt 32 e.f.yOp e.namedLane)))) }

def execV2s (f : Fields) (s : State) : Host.Outcome State Fault Refusal := issue (.v2s f) v2sForm s

/-! ### SHFL (R271, R272) -/

/-- The lane that lane `k` reads under `mode`, with sub-group width `wd` and index `b`. -/
def shflSource (mode wd k b : Nat) : Nat :=
  let pos := k % wd
  let r := match mode with
    | 0 => b % wd
    | 1 => (((pos : Int) - b) % (wd : Int)).toNat
    | 2 => (pos + b) % wd
    | _ => (pos ^^^ b) % wd
  k - pos + r

def shflForm : Form :=
  { jambs := fun e => dstJamb e.f.xOp (e.jambAt 32 e.f.yOp)
    body := fun e =>
      let src := fun (k : Nat) => shflSource (bits e.f.modN 1 0) (2 ^ bits e.f.modN 5 2) k (e.read 32 e.f.zOp k)
      let hit := fun (k : Nat) => src k < e.w.laneCount && e.p.mask.has (src k)
      let w := e.writeDst e.w e.f.xOp (fun k => e.read 32 e.f.yOp (if hit k then src k else k))
      let w := w.tagDst e.f.xOp (Tag.ofCode (e.tagCode e.f.yOp))
      .done (e.put e.s (e.writeDst w e.f.wOp (fun k => bit01 (hit k)))) }

def execShfl (f : Fields) (s : State) : Host.Outcome State Fault Refusal := issue (.shfl f) shflForm s

/-! ### VOTE and BALLOT (R273, R274) -/

def voteForm : Form :=
  { body := fun e =>
      let ps := e.predOf e.f.yOp
      let any := e.lanes.any ps.has
      let all := e.lanes.all ps.has
      let r := match e.f.modN with
        | 0 => any
        | 1 => all
        | _ => all || !any
      .done (e.put e.s (e.writeDst e.w e.f.xOp (fun _ => bit01 r))) }

def execVote (f : Fields) (s : State) : Host.Outcome State Fault Refusal := issue (.vote f) voteForm s

/-- BALLOT: the words of the acting lanes whose ps is true, and their summary (R10). -/
def ballotForm : Form :=
  { jambs := fun e => dstJamb e.f.xOp .top
    body := fun e =>
      let b : LaneMask := e.acting &&& e.predOf e.f.yOp
      match e.f.xOp with
      | .sreg _ =>
        let g := e.scalar e.f.zOp % 32
        .done (e.put e.s (e.writeDst e.w e.f.xOp (fun _ => (b.word g).toNat + b.summary.toNat * 2 ^ 32)))
      | x => .done (e.put e.s ((e.writeDst e.w x (fun k => (b.word (k / 32)).toNat)).tagDst x .untyped)) }

def execBallot (f : Fields) (s : State) : Host.Outcome State Fault Refusal := issue (.ballot f) ballotForm s

/-! ### WRED (R275) -/

/-- A fold over a non-empty list. -/
def foldOne {α : Type} (d : α) (g : α → α → α) : List α → α
  | [] => d
  | x :: l => l.foldl g x

/-- An integer reduction: type 0 signed, 1 unsigned. -/
def wredInt (op : Nat) (vs : List Int) : Int :=
  match op with
  | 0 => foldOne 0 (fun a b => a + b) vs
  | 1 => foldOne 0 min vs
  | _ => foldOne 0 max vs

def wredBits (op : Nat) (vs : List Nat) : Nat :=
  match op with
  | 3 => foldOne 0 (fun a b => a &&& b) vs
  | 4 => foldOne 0 (fun a b => a ||| b) vs
  | _ => foldOne 0 (fun a b => a ^^^ b) vs

/-- A NaN as the canonical NaN (R116, R254). -/
def canonical (v : Nat) : Nat := if (fp32.decode v).isNan then fp32.nan else v

/-- An FP32 reduction; ADD is summed exactly and rounded once. -/
def wredFloat (op mode : Nat) (ftz : Bool) (r : Nat) (vs : List Nat) : Nat :=
  let vs := vs.map (fp32.flushIn ftz)
  match op with
  | 0 => fp32.encode mode false ftz r (foldOne .nan (FVal.add mode) (vs.map fp32.decode))
  | 1 => canonical (foldOne 0 (fpSelect fp32 true) vs)
  | _ => canonical (foldOne 0 (fpSelect fp32 false) vs)

/-- R47's rules for an integer WRED, at the destination's width. -/
def wredJamb (e : Env) : Jamb :=
  let a := e.jambAt 32 e.f.yOp
  let w := e.f.xOp.width
  let n : Int := e.w.laneCount
  if e.f.ft = 2 || 3 ≤ e.f.fcond || (e.f.ft = 1 && a.lo 32 < 0) then .top
  else if e.f.fcond = 0 then Jamb.mk w (min (a.lo 32) (n * a.lo 32)) (max (a.hi 32) (n * a.hi 32))
  else Jamb.mk w (a.lo 32) (a.hi 32)

/-- The tag that the type names. -/
def wredTag (f : Fields) : Tag := if 3 ≤ f.fcond then .untyped else if f.ft = 2 then .f32 else .i32

def wredForm : Form :=
  { jambs := fun e => dstJamb e.f.xOp (wredJamb e)
    body := fun e =>
      let f := e.f
      match (if 3 ≤ f.fcond then none else e.tagFails (wredTag f) f.yOp) with
      | some t => t
      | none =>
        let vs := e.lanes.map (fun k => e.read 32 f.yOp k)
        let r : Nat :=
          if 3 ≤ f.fcond then wredBits f.fcond vs
          else if f.ft = 2 then wredFloat f.fcond f.rnd f.ftz (e.random e.lowLane 0) vs
          else uwrap 64 (wredInt f.fcond (vs.map (asNumber (f.ft == 0) 32)))
        let w := (e.writeDst e.w f.xOp (fun _ => r)).tagDst f.xOp (wredTag f)
        .done (e.put e.s (e.drawn w f.rnd)) }

def execWred (f : Fields) (s : State) : Host.Outcome State Fault Refusal := issue (.wred f) wredForm s

end Sys2Proof.Machine
end

