-- ==== Sys2Proof/Machine/Matrix.lean ====
section
/-! DEFINITION. The matrix forms (R140 to R156, R318, R322 to R328) and QPERM (R266), with the tile scheduler. -/

namespace Sys2Proof.Machine

/-! ### The core's matrix operations -/

/-- An earlier operation of the weave holds this one back (R148). -/
def blockedIn (m : MatrixOp) : List MatrixOp → Bool
  | [] => false
  | x :: l =>
    if x.op == m.op && x.weave == m.weave then false
    else
      let isRelease := match x.work with
        | .release _ => true
        | _ => false
      (x.weave == m.weave && !isRelease && x.work.names &&& m.work.names != 0) || blockedIn m l

/-- A cut task of the weave has not resumed yet (R154). -/
def Core.cutWaits (k : Core) (m : MatrixOp) : Bool :=
  k.matrix.any (fun x => x.weave == m.weave && x.op != m.op
    && (match x.work with
      | .task t => t.cut
      | _ => false)
    && !k.running.any (fun r => r.mop.op == x.op && r.mop.weave == x.weave))

def Core.blocked (k : Core) (m : MatrixOp) : Bool := blockedIn m k.matrix || k.cutWaits m

/-- An operation of the queue replaced. -/
def Core.setMatrix (k : Core) (m : MatrixOp) : Core :=
  { k with matrix := k.matrix.map (fun x => if x.op == m.op && x.weave == m.weave then m else x) }

def Core.dropMatrix (k : Core) (id : WeaveId) (op : Nat) : Core :=
  { k with matrix := k.matrix.filter (fun m => !(m.op == op && m.weave == id)) }

/-- Releases whose resources no earlier operation names any more take effect, bit by bit (R141). Operations accepted after an
MREL do not hold it back, and a later MREL of the same resource, which the weave holds until the first takes effect, stands
for itself: the spec says nothing of either (log 77). -/
def settleReleases (k : Core) : (before rest : List MatrixOp) → Core
  | _, [] => k
  | before, m :: rest =>
    match m.work with
    | .release mask =>
      let busy := before.foldl (fun b x => match x.work with
        | .release _ => b
        | w => if x.weave = m.weave then b ||| w.names else b) 0
      let free := (maskBits mask.toNat).filter (fun i => !bitAt busy i)
      let left : MatrixOp := { m with work := .release (free.foldl (fun v i => v &&& ~~~(BitVec.ofNat 48 (2 ^ i))) mask) }
      let k := free.foldl (fun k i => if (k.matrixOwner i).holder == some m.weave then k.releaseResource i else k) k
      settleReleases (k.setMatrix left) (before ++ [left]) rest
    | _ => settleReleases k (before ++ [m]) rest

def State.settleMatrix (s : State) (c : Nat) : State := s.modifyCore c (fun k => settleReleases k [] k.matrix)

/-! ### Issue of matrix forms -/

/-- Group 11's trap that a resource is not held, with its number. -/
def slotNotHeld (i : Nat) : Effect :=
  .trap (cause 11 0) (unitDetail 0 (if i < 32 then i else if i < 40 then 0 else i - 40) (if 32 ≤ i && i < 40 then i - 32 else 0))

/-- MATRIX_ABORTED (R155), and SLOT_NOT_HELD for the resources of a mask (R142), before a form's other checks of group 11: an
order that the spec leaves open (log 77). -/
def Env.commandMatrix (e : Env) (mask : Nat) (k : Effect) : Effect :=
  if e.w.matrixAbort then .trap (cause 11 5) 0
  else match (maskBits mask).find? (fun i => ((e.s.core e.a.core).matrixOwner i).holder != some e.w.id) with
    | some i => slotNotHeld i
    | none => k

/-- An operation put at the end of a core's queue; its acceptance writes its tile's tag (R132, R325, R328). -/
def Core.enqueue (k : Core) (m : MatrixOp) : Core :=
  match m.work.tagSet k m.weave with
  | none => { k with matrix := k.matrix ++ [m] }
  | some (n, tag) =>
    let work := match m.work with
      | .task t => .task { t with before := some (k.tile n).tag }
      | x => x
    { k.setTile n { k.tile n with tag } with matrix := k.matrix ++ [{ m with work }] }

/-- A matrix operation accepted. -/
def Env.submit (e : Env) (s : State) (work : MatrixWork) : State :=
  let s := s.modifyWeave e.a.core e.a.slot (fun w => e.start w (some .M) .matrix [])
  let s := e.recordHistory s
  (s.modifyCore e.a.core (fun k => k.enqueue {
    weave := e.w.id, slot := e.a.slot, path := e.a.path, op := e.serial, pc := e.p.pc
    work })).settleMatrix e.a.core

def mclaimForm : Form :=
  { engine := .matrix
    body := fun e =>
      let m := e.scalar e.f.yOp
      let k := e.s.core e.a.core
      if e.w.matrixAbort then .trap (cause 11 5) 0
      else if m / 2 ^ 48 != 0 then .trap (cause 11 1) 0
      else
        let ok := (maskBits m).all (fun i => (k.matrixOwner i).holder == none || (k.matrixOwner i).holder == some e.w.id)
        let s := if ok then e.s.modifyCore e.a.core (fun k => (maskBits m).foldl (fun k i => k.claimResource e.w.id i) k)
          else e.s
        let s := s.modifyWeave e.a.core e.a.slot (fun w => e.writeActive w e.f.xOp ok)
        .done (e.countOnly s .M) }

def mrelForm : Form :=
  { engine := .matrix
    body := fun e =>
      let m := e.scalar e.f.yOp
      if e.w.matrixAbort then .trap (cause 11 5) 0
      else if m / 2 ^ 48 != 0 then .trap (cause 11 1) 0
      else e.commandMatrix m (.done (e.submit e.s (.release (BitVec.ofNat 48 m)))) }

def execMclaim (f : Fields) (s : State) : Host.Outcome State Fault Refusal := issue (.mclaim f) mclaimForm s
def execMrel (f : Fields) (s : State) : Host.Outcome State Fault Refusal := issue (.mrel f) mrelForm s

/-- TSRLD (R143, R318): a class L load of a record into a shape register. -/
def tsrldForm : Form :=
  { engine := .copy
    body := fun e => e.withRecord 6 (fun s va v =>
      let sh := BitVec.ofNat 512 v
      if shapeBad sh then .trap (cause 11 2) (unitDetail va 0 0)
      else match e.f.xOp with
        | .shape n => .done (s.modifyWeave e.a.core e.a.slot (fun w => e.start w (some .L) .result [.shape n sh]))
        | _ => .done s) }

def execTsrld (f : Fields) (s : State) : Host.Outcome State Fault Refusal := issue (.tsrld f) tsrldForm s

/-! ### Transfers -/

/-- The first scratchpad offset outside the window that a transfer would touch. -/
def outsideWindow (bytes : Nat) (sh : BitVec 512) (spans scales : List (Nat × Nat)) : Option Nat :=
  if shSwz sh = 0 then
    ((touchedRanges sh spans scales).find? (fun (a, n) => bytes < a + n)).map (fun (a, _) => max a bytes)
  else (touchedOffsets sh spans scales).find? (fun o => bytes ≤ o)

/-- Everything before acceptance that a transfer through a shape register needs (R75, R145, R323, R328): the window, or
the places of every page. -/
def Env.transfer (e : Env) (sh : BitVec 512) (spans scales : List (Nat × Nat)) (write : Bool)
    (k : State → Table Place → Effect) : Effect :=
  let kind := if write then 5 else 4
  let need := if write then needWrite else needRead
  if shSpad sh then
    let g := originLog2 (shSwz sh)
    if shBase sh % 2 ^ g != 0 then .trap (cause 4 4) (alignDetail (shBase sh) g 0)
    else match outsideWindow e.w.spadBytes sh spans scales with
      | some o => spadWindow o kind
      | none =>
        let offs := if e.w.windows.any winValid then touchedOffsets sh spans scales else []
        ((e.s.engineReach e.a offs write).andThen (fun s _ =>
          s.placePages e.a.core e.w.id.ctx (e.w.stashRanges offs) need)).whole e kind k
  else (e.s.placePages e.a.core e.w.id.ctx (touchedRanges sh spans scales) need).whole e kind k

/-- The shape register that Y names. -/
def Env.shapeOf (e : Env) : BitVec 512 :=
  match e.f.yOp with
  | .shape n => BitVec.ofNat 512 ((e.w.owedLane (0x236 + n) 0).getD (e.w.shape n).toNat)
  | _ => 0

/-- A record pairs with MLOAD, or with MLOAD.P (R317, R323). -/
def loadPairs (perm : Bool) (sh : BitVec 512) (row0 k0 : Int) : Bool :=
  if perm then shKind sh == 2 && row0 == 0
  else
    (shKind sh == 0 && [3, 4, 5, 6, 7, 8, 12].contains (shFmt sh) || shKind sh == 1)
      && !((shKind sh == 1 || shFmt sh == 8 || shFmt sh == 11 || shFmt sh == 12) && k0 % 32 != 0)

def mloadForm : Form :=
  { engine := .matrix
    body := fun e =>
      let perm := e.f.modN == 1
      let n := e.f.xN % (if perm then 8 else 32)
      let sh := e.shapeOf
      let row0 := signed 64 (e.scalar e.f.zOp)
      let k0 := signed 64 (e.scalar e.f.wOp)
      e.commandMatrix (2 ^ (if perm then 40 + n else n)) (
        if !loadPairs perm sh row0 k0 then .trap (cause 11 2) (unitDetail 0 n 0)
        else e.transfer sh (loadSpans sh perm row0 k0) (scaleSpans sh row0 k0) false (fun s t =>
          .done (e.submit s (.load n perm sh row0 k0 t [])))) }

def execMload (f : Fields) (s : State) : Host.Outcome State Fault Refusal := issue (.mload f) mloadForm s

/-- R328's check of a record and coordinates. -/
def accPairs (sh : BitVec 512) (row0 col0 : Nat) : Bool :=
  shKind sh == 0 && (shFmt sh == 1 || shFmt sh == 2) && row0 + 128 ≤ shDim0 sh && col0 + 128 ≤ shDim1 sh

def accForm (store : Bool) : Form :=
  { engine := .matrix
    body := fun e =>
      let t := e.f.xN % 8
      let sh := e.shapeOf
      let row0 := e.scalar e.f.zOp
      let col0 := e.scalar e.f.wOp
      e.commandMatrix (2 ^ (32 + t)) (
        if !accPairs sh row0 col0 then .trap (cause 11 2) (unitDetail 0 0 t)
        else
          let tag := ((e.s.core e.a.core).tile t).tag
          let want := Tag.ofCode (shFmt sh)
          if store && tag != .untyped && tag != want then .trap (cause 6 0) (tagDetail tag want t)
          else e.transfer sh (accSpans sh row0 col0) [] store (fun s pages =>
            .done (e.submit s (if store then .accStore t sh row0 col0 pages 0 else .accLoad t sh row0 col0 pages [])))) }

def execAccld (f : Fields) (s : State) : Host.Outcome State Fault Refusal := issue (.accld f) (accForm false) s
def execAccst (f : Fields) (s : State) : Host.Outcome State Fault Refusal := issue (.accst f) (accForm true) s

def acczForm : Form :=
  { engine := .matrix
    body := fun e =>
      let t := e.f.xN % 8
      e.commandMatrix (2 ^ (32 + t)) (.done (e.submit e.s (.accZero t (e.f.modN == 1)))) }

def execAccz (f : Fields) (s : State) : Host.Outcome State Fault Refusal := issue (.accz f) acczForm s

/-! ### Tile tasks (R147, R324, R327) -/

/-- Tasks accepted and not completed. One that has started holds its place among the 16 until it completes, of which the spec
says nothing (log 77). -/
def Core.taskCount (k : Core) : Nat := (k.matrix.filter (fun m => m.work.isTask)).length

/-- A task accepted into the queue of 16, or the path waits. -/
def Env.acceptTask (e : Env) (s : State) (t : TileTask) : Effect :=
  if 16 ≤ (s.core e.a.core).taskCount then .wait s (.stall 8) else .done (e.submit s (.task t))

def mmaForm (scaled : Bool) : Form :=
  { engine := .matrix
    body := fun e =>
      let n := e.f.immN % 4 + 1
      let pen := bitAt e.f.immN 5
      let t : TileTask :=
        { tile := e.f.xN % 8, aslot := e.f.yN % 32, bslot := e.f.zN % 32, n
          perm := if pen then some (bits e.f.immN 4 2) else none
          ftz := e.f.ftz, af := mmaAf e.f, bf := mmaBf e.f, scaled, first := 0, count := 64 * n, record := none }
      if e.w.matrixAbort then .trap (cause 11 5) 0
      else if 31 < t.aslot + n - 1 || 31 < t.bslot + n - 1 || (pen && n != 1) then .trap (cause 11 3) (unitDetail 0 0 t.tile)
      else e.commandMatrix t.names (e.acceptTask e.s t) }

def execMma (f : Fields) (s : State) : Host.Outcome State Fault Refusal := issue (.mma f) (mmaForm false) s
def execMmas (f : Fields) (s : State) : Host.Outcome State Fault Refusal := issue (.mmas f) (mmaForm true) s

def mtaskForm : Form :=
  { engine := .matrix
    body := fun e =>
      if e.w.matrixAbort then .trap (cause 11 5) 0
      else e.withRecord 5 (fun s _ v => e.acceptTask s (TileTask.ofRecord (BitVec.ofNat 256 v))) }

def execMtask (f : Fields) (s : State) : Host.Outcome State Fault Refusal := issue (.mtask f) mtaskForm s

/-! ### QPERM (R266) -/

def qpermForm : Form :=
  { jambs := topJamb
    body := fun e =>
      let n := e.f.zN % 8
      let k := e.s.core e.a.core
      if (k.perm n).owner.holder != some e.w.id then slotNotHeld (40 + n)
      else if k.matrix.any (fun m => m.weave == e.w.id && bitAt m.work.names (40 + n)) then .wait e.s (.stall 8)
      else
        let entry := fun (i : Nat) => ((k.perm n).entries[i]?).getD 0
        let mask := LaneMask.ofLanes (e.lanes.filter (fun i => i < 512))
        let tag := match e.f.yOp with
          | .vreg r => e.w.tag r
          | _ => .untyped
        let w := match e.f.xOp with
          | .vreg d => e.setLanes e.w d mask (fun i =>
              if entry i < e.w.laneCount then e.read 32 e.f.yOp (entry i) else 0)
          | _ => e.w
        .done (e.put e.s (w.tagDst e.f.xOp tag)) }

def execQperm (f : Fields) (s : State) : Host.Outcome State Fault Refusal := issue (.qperm f) qpermForm s

/-! ### The engine's work -/

/-- An accepted operation that ends in a fault: its path stops at its next boundary, and the rest is not moved (R442). -/
def State.matrixFails (s : State) (c : Nat) (m : MatrixOp) (cs : Cause) (d : BitVec 96) : State :=
  ((s.noteFault (actorOf c m.slot m.path) m.op cs d).modifyCore c (fun k => k.dropMatrix m.weave m.op)).settleMatrix c

/-- A part of an operation that may fault, or must wait: `k` once it has gone well, and whether the operation is over. -/
def Got.orMatrixFails {α : Type} (c : Nat) (m : MatrixOp) (kind : Nat) (s : State) (k : State → α → State × Bool) :
    Got α → State × Bool
  | .ok s v => k s v
  | .fault t cs va d =>
    if cs = tierWait then (t, false)
    else (t.matrixFails c m cs (if cs.toRing then ringDetail va kind else d), true)
  | .wait s => (s, false)
  | .nowhere _ => (s, false)

/-- An operation is still in its core's queue. -/
def Core.queued (k : Core) (m : MatrixOp) : Bool := k.matrix.any (fun x => x.op == m.op && x.weave == m.weave)

/-- A piece of an ACCST put in its place, by its destination, after those of the same destination. -/
def placePiece (x : Nat × List Byte) : List (Nat × List Byte) → List (Nat × List Byte)
  | [] => [x]
  | y :: l => if x.1 < y.1 then x :: y :: l else y :: placePiece x l

/-- The bytes that an ACCST moves, in the order of R110: ascending destinations of 32 bytes each in the scratchpad, swizzled,
and row by row within the pages of global memory. -/
def storePieces (sh : BitVec 512) (row0 col0 : Nat) (rows : List (List Word32)) : List (Nat × List Byte) :=
  let l := (List.range 128).flatMap (fun r =>
    let u := (row0 + r) * shStr0 sh + 4 * col0
    let bytes := (List.range 128).flatMap (fun j => toBytes 4 (cellAt rows r j).toNat)
    (pieces (if shSpad sh then 32 else 4096) (shBase sh + u) 512).map (fun (o, n) =>
      (if shSpad sh then shBase sh + swizzle (o - shBase sh) (shSwz sh) else o,
        (bytes.drop (o - (shBase sh + u))).take n)))
  if shSpad sh && shSwz sh != 0 then l.foldl (fun acc x => placePiece x acc) [] else l

/-- A piece of an ACCST at its destination, and whether the next may follow at once: not before a piece on another module has
been performed there (R110). None while that store must wait for a credit. -/
def State.storePiece (s : State) (a : Actor) (m : MatrixOp) (sh : BitVec 512) (pages : Table Place) (x : Nat × List Byte) :
    Option (State × Bool) :=
  if shSpad sh then some (s.modifyWeave a.core a.slot (fun w => w.engineSpadWrite .M m.op x.1 x.2), true)
  else match Table.find? pages (x.1 / 4096) with
    | some (.phys pa) => some (s.performHome a.core (pa + x.1 % 4096) x.2, true)
    | some (.remote mo c) =>
      (match s.routeFails mo with
        | some i => some (s.matrixFails a.core m (cause 19 i) (s.routeDetail x.1 mo), false)
        | none =>
          if s.awaitsCredit mo (.store x.2) then none
          else some (s.engineStore a m.op m.weave m.pc m.pc { sregs := [], aregs := [], rng := 0 } mo c x.1 (.store x.2), false))
    | none => some (s, true)

/-- Pieces of an ACCST, as many as may follow each other now; answers how many. -/
def State.storeFrom (s : State) (a : Actor) (m : MatrixOp) (sh : BitVec 512) (pages : Table Place) :
    List (Nat × List Byte) → State × Nat
  | [] => (s, 0)
  | x :: l =>
    match s.storePiece a m sh pages x with
    | none => (s, 0)
    | some (s, false) => (s, 1)
    | some (s, true) =>
      let (s, n) := s.storeFrom a m sh pages l
      (s, n + 1)

/-- The rows that an ACCLD reads. -/
def State.loadTile (s : State) (a : Actor) (serial : Nat) (sh : BitVec 512) (row0 col0 : Nat) (pages : Table Place)
    (fetched : List (Nat × List Byte)) : List (List Word32) :=
  (List.range 128).map (fun r =>
    let b := readMatrix s a serial sh pages fetched (shBase sh) (shSwz sh) ((row0 + r) * shStr0 sh + 4 * col0) 512
    (List.range 128).map (fun j => BitVec.ofNat 32 (ofBytes ((b.drop (4 * j)).take 4))))

/-- Whether a sector that an MLOAD reads fails its integrity check: the slot is then poisoned (R155, R177). -/
def State.slotFails (s : State) (sh : BitVec 512) (t : Table Place) (spans scales : List (Nat × Nat)) : Bool :=
  if shSpad sh then (touchedOffsets sh spans scales).any (fun o => Config.spadFails s.turn (o / 32))
  else (touchedRanges sh spans scales).any (fun (va, n) => (pieces 32 va n).any (fun (a, _) =>
    match Table.find? t (a / 4096) with
    | some (.phys pa) => s.failsCheck (pa + a % 4096)
    | _ => false))

/-- The remote pages of a source that have not arrived: address, module and context. -/
def missingPages (t : Table Place) (got : List (Nat × List Byte)) : List (Nat × Nat × Nat) :=
  t.filterMap (fun x => match x.2 with
    | .remote m c => if got.any (fun y => y.1 == x.1 * 4096) then none else some (x.1 * 4096, m, c)
    | .phys _ => none)

/-- Requests for the remote pages that an operation reads, ascending, as credits allow; one that cannot leave ends it. -/
def State.fetchMatrix (s : State) (c : Nat) (m : MatrixOp) (l : List (Nat × Nat × Nat)) : State :=
  l.foldl (fun s (va, mo, ctx) =>
    if !(s.core c).queued m || s.requests.any (fun r => r.op == m.op && r.weave == m.weave && r.va == va) then s
    else match s.routeFails mo with
      | some i => s.matrixFails c m (cause 19 i) (s.routeDetail va mo)
      | none =>
        if s.awaitsCredit mo (.load 4096) then s
        else s.send {
          id := 0, weave := m.weave, core := c, slot := m.slot, path := m.path, lane := 0, op := m.op, port := 0
          module := mo, sent := 0, ctx, va, what := .load 4096, dest := .matrix, pc := m.pc, next := m.pc
          captured := { sregs := [], aregs := [], rng := 0 }, whole := true, waiting := false }) s

/-- The spans of elements and of scales that an operation moves, with its record, its pages and what has arrived. -/
def MatrixWork.moves : MatrixWork → Option (BitVec 512 × List (Nat × Nat) × List (Nat × Nat) × Table Place × List (Nat × List Byte))
  | .load _ perm sh row0 k0 pages got => some (sh, loadSpans sh perm row0 k0, scaleSpans sh row0 k0, pages, got)
  | .accLoad _ sh row0 col0 pages got => some (sh, accSpans sh row0 col0, [], pages, got)
  | .accStore _ sh row0 col0 pages _ => some (sh, accSpans sh row0 col0, [], pages, [])
  | _ => none

def MatrixWork.isStore : MatrixWork → Bool
  | .accStore .. => true
  | _ => false

def MatrixWork.withPages (t : Table Place) : MatrixWork → MatrixWork
  | .load n perm sh row0 k0 _ got => .load n perm sh row0 k0 t got
  | .accLoad n sh row0 col0 _ got => .accLoad n sh row0 col0 t got
  | .accStore n sh row0 col0 _ next => .accStore n sh row0 col0 t next
  | x => x

/-- The pages of an operation that an eviction withdrew, translated again (R145, R154). One that fails then ends the operation,
and its path stops at its next boundary: the spec does not say what becomes of it (log 77). -/
def State.placeAgain (s : State) (c : Nat) (m : MatrixOp) (k : State → MatrixOp → State × Bool) : State × Bool :=
  match m.placed, m.work.moves, s.weave? c m.slot with
  | false, some (sh, spans, scales, _, _), some w =>
    let ranges := if shSpad sh then w.stashRanges (touchedOffsets sh spans scales) else touchedRanges sh spans scales
    (s.placePages c m.weave.ctx ranges (if m.work.isStore then needWrite else needRead)).orMatrixFails c m
      (if m.work.isStore then 5 else 4) s (fun s t =>
        let m := { m with work := m.work.withPages t, placed := true }
        k (s.modifyCore c (fun k => k.setMatrix m)) m)
  | _, _, _ => k s m

/-- What an operation's transfer needs first: the bytes of remote pages, or the sectors of stash windows (R79, R80, R144). -/
def State.beforeMove (s : State) (c : Nat) (m : MatrixOp) (k : State → State × Bool) : State × Bool :=
  match m.work.moves with
  | none => k s
  | some (sh, spans, scales, pages, got) =>
    if shSpad sh then
      (s.engineReach (actorOf c m.slot m.path) (touchedOffsets sh spans scales) m.work.isStore pages m.op).orMatrixFails c m
        (if m.work.isStore then 5 else 4) s (fun s _ => k s)
    else if m.work.isStore || (missingPages pages got).isEmpty then k (if m.work.isStore then s else s.touchAll pages)
    else (s.fetchMatrix c m (missingPages pages got), false)

/-- A transfer, a zeroing or a release carried out; answers whether it is over. -/
def State.performMatrix (s : State) (c : Nat) (m : MatrixOp) : State × Bool :=
  s.placeAgain c m (fun s m => s.beforeMove c m (fun s =>
    let a := actorOf c m.slot m.path
    match m.work with
    | .task _ => (s, false)
    | .release mask => (s, mask == 0)
    | .load n perm sh row0 k0 pages got =>
      if perm then
        (s.modifyCore c (fun k => k.setPerm n { k.perm n with
          entries := (slotRow s a m.op sh pages got 0 k0 0).1
          poisoned := s.slotFails sh pages (loadSpans sh perm row0 k0) [] }), true)
      else
        let bad := s.slotFails sh pages (loadSpans sh perm row0 k0) (scaleSpans sh row0 k0)
        (s.modifyCore c (fun k => k.setOperand n
          { fillSlot s a m.op sh pages got row0 k0 (k.operand n) with
            poisoned := bad, tag := if bad then .untyped else Tag.ofCode (shFmt sh) }), true)
    | .accLoad t sh row0 col0 pages got =>
      (s.modifyCore c (fun k => k.setTile t { k.tile t with rows := s.loadTile a m.op sh row0 col0 pages got }), true)
    | .accStore t sh row0 col0 pages next =>
      let all := storePieces sh row0 col0 ((s.core c).tile t).rows
      let (s, n) := s.storeFrom a m sh pages (all.drop next)
      (s.modifyCore c (fun k => k.setMatrix { m with work := .accStore t sh row0 col0 pages (next + n) }),
        all.length ≤ next + n && !s.requests.any (fun r => r.op == m.op && r.weave == m.weave))
    | .accZero t _ => (s.modifyCore c (fun k => k.setTile t { k.tile t with rows := [] }), true)))

/-- OPERATION_COMPLETE of a matrix operation that is no task: performed once nothing earlier holds it back; its count
falls when no remote store of it is outstanding. -/
def State.completeMatrix (s : State) (c slot op : Nat) : State :=
  match s.weave? c slot with
  | none => s
  | some w =>
    match (s.core c).matrix.find? (fun m => m.op == op && m.weave == w.id) with
    | none =>
      if s.requests.any (fun r => r.op == op && r.weave == w.id) then s
      else s.modifyWeave c slot (fun w => w.completeOp op)
    | some m =>
      if m.work.isTask || (s.core c).blocked m then s
      else
        let (s, finished) := s.performMatrix c m
        if !finished then s
        else
          let s := (s.modifyCore c (fun k => k.dropMatrix w.id op)).settleMatrix c
          if s.requests.any (fun r => r.op == op && r.weave == w.id) then s
          else s.modifyWeave c slot (fun w => w.completeOp op)

/-! ### The tile scheduler (R149, R150, R155) -/

/-- Tasks of a weave from an operation on, in queue order. -/
def tasksFrom (id : WeaveId) (op : Nat) (l : List MatrixOp) : List MatrixOp :=
  (l.dropWhile (fun m => !(m.op == op && m.weave == id))).filter (fun m => m.weave == id && m.work.isTask)

/-- A task withdrawn with the weave's later ones, their counters decremented; the cells return to the tile (R155). -/
def State.withdrawTask (s : State) (c : Nat) (m : MatrixOp) (tile : Nat) (cells : List (List Word32)) : State :=
  let gone := tasksFrom m.weave m.op (s.core c).matrix
  let s := s.modifyCore c (fun k =>
    let k := k.setTile tile { k.tile tile with rows := cells }
    gone.foldl (fun k x => k.dropMatrix x.weave x.op) { k with running := none })
  s.modifyWeave c m.slot (fun w => gone.foldl (fun w x => w.completeOp x.op) w)

/-- A task that fails: it is withdrawn, the matrix-abort bit is set and the fault waits for its path (R155). -/
def State.failTask (s : State) (c : Nat) (m : MatrixOp) (tile : Nat) (cells : List (List Word32)) (cs : Cause)
    (d : BitVec 96) : State :=
  let s := (s.noteFault (actorOf c m.slot m.path) m.op cs d).withdrawTask c m tile cells
  (s.modifyWeave c m.slot (fun w => { w with matrixAbort := true })).settleMatrix c

/-- R458: the sequencer finds itself inconsistent: the task is withdrawn and MICROCODE_FAULT recorded. No path stops
(R400), and so the matrix-abort bit, which the end of the stop would clear, stays clear (log 38). -/
def State.failSequencer (s : State) (c : Nat) (m : MatrixOp) (t : TileTask) : State :=
  ((s.withdrawTask c m t.tile ((s.core c).tile t.tile).rows).settleMatrix c).firmwareCause 2 (dieOf c) c

/-- Group 6's detail of a tile task (R402). -/
def taskTagDetail (found want : Tag) (slot step : Nat) : BitVec 96 :=
  BitVec.ofNat 96 (found.code + want.code * 2 ^ 4 + slot % 1024 * 2 ^ 8 + step % 256 * 2 ^ 18)

/-- The lowest feature that a record's task needs and the present mask lacks (R360); that of a word was checked when it
issued. -/
def TileTask.absent (t : TileTask) (present : BitVec 512) : Option Nat :=
  if t.record.isNone then none
  else (tileFeature t.scaled t.af t.bf ++ (if t.perm.isSome then [6] else [])).find? (fun b => !present.getLsbD b)

/-- The failure of a task at its start, if it has one (R133, R151, R155, R325, R327, R360). -/
def Core.startFault (k : Core) (present : BitVec 512) (id : WeaveId) (t : TileTask) : Option (Cause × BitVec 96) :=
  let unit := unitDetail 0 t.first t.tile
  let slots := fun (a code : Nat) => (List.range t.n).map (fun i => (a + i, taskTag t.scaled code))
  let all := slots t.aslot t.af ++ slots t.bslot t.bf
  let wrong := all.find? (fun (n, want) => (k.operand n).tag != .untyped && (k.operand n).tag != want)
  let tileTag := t.before.getD (k.tile t.tile).tag
  if t.recordBad then some (cause 11 3, unit)
  else if let some b := t.absent present then some (cause 7 2, BitVec.ofNat 96 b)
  else if !k.holdsAll id t.names then some (cause 11 0, unit)
  else match wrong with
    | some (n, want) => some (cause 6 0, taskTagDetail (k.operand n).tag want n t.first)
    | none =>
      if tileTag != .untyped && tileTag != t.accTag then some (cause 6 0, taskTagDetail tileTag t.accTag t.tile t.first)
      else if all.any (fun x => (k.operand x.1).poisoned) || t.perm.any (fun p => (k.perm p).poisoned) then some (cause 20 4, ringDetail 0 4)
      else match t.perm with
        | none => none
        | some p =>
          let es := (k.perm p).entries.take t.slotK
          if es.length = t.slotK && es.all (fun x => x < t.slotK) && (sortNat es).length == t.slotK then none
          else some (cause 11 4, unit)

/-- TILE_TASK_START (R149): the head task of the queue, once its inputs are ready; whether the sequencer then finds itself
inconsistent is open (R458, log 38). -/
def State.startTask (s : State) (c : Nat) : State :=
  let k := s.core c
  match k.frozen || k.running.isSome, k.matrix.find? (fun m => m.work.isTask) with
  | false, some m =>
    (match m.work with
      | .task t =>
        if k.blocked m then s
        else match k.startFault s.present m.weave t with
          | some (cs, d) => s.failTask c m t.tile (k.tile t.tile).rows cs d
          | none =>
            if Config.sequencerFails s.serial c then s.failSequencer c m t
            else s.modifyCore c (fun k => { k.setTile t.tile { k.tile t.tile with
                tag := if t.before.isSome then (k.tile t.tile).tag else t.accTag } with
              running := some { mop := m, task := t, step := t.first, cells := (k.tile t.tile).rows } })
      | _ => s)
  | _, _ => s

/-- Steps of the running task: its cells after `n` more, or its failure carried out. -/
def State.runTask (s : State) (c n : Nat) (r : RunningTask) (finished : List (List Word32) → State) : State :=
  match (s.core c).taskSteps r.task n r.step r.cells with
  | (cells, none) => finished cells
  | (cells, some (step, ix, slot, block)) =>
    s.failTask c r.mop r.task.tile cells (cause 6 ix)
      (BitVec.ofNat 96 (slot % 1024 * 2 ^ 8 + step % 256 * 2 ^ 18 + block % 32 * 2 ^ 26))

/-- TILE_TASK_COMPLETE (R150). -/
def State.finishTask (s : State) (c : Nat) : State :=
  let k := s.core c
  match k.frozen, k.running with
  | false, some r =>
    s.runTask c (r.task.first + r.task.count - r.step) r (fun cells =>
      let s := s.modifyCore c (fun k => ({ k with running := none }.setTile r.task.tile
        { k.tile r.task.tile with rows := cells }).dropMatrix r.mop.weave r.mop.op)
      (s.modifyWeave c r.mop.slot (fun w => w.completeOp r.mop.op)).settleMatrix c)
  | _, _ => s

def execTileTaskStart (core : Nat) (s : State) : Host.Outcome State Fault Refusal := .next (s.startTask core)
def execTileTaskComplete (core : Nat) (s : State) : Host.Outcome State Fault Refusal := .next (s.finishTask core)

end Sys2Proof.Machine
end

