-- ==== Sys2Proof/Machine/Shutter.lean ====
section
/-! DEFINITION. The shutter array (R157 to R170). -/

namespace Sys2Proof.Machine

/-! ### Times and cells (R157 to R160) -/

/-- sat(t, d). -/
def satTime (t d : Nat) : Nat := if t = 255 || 254 < t + d then 255 else t + d

/-- The time of a cell from its delay word and its inputs west, north and north-west (R160). -/
def cellTime (word : Nat) (chain : Bool) (west north nw : Nat) : Nat :=
  let ins := (if bitAt word 13 then [satTime west (bits word 3 0)] else [])
    ++ (if bitAt word 14 then [satTime north (bits word 7 4)] else [])
    ++ (if bitAt word 15 && !chain then [satTime nw (bits word 11 8)] else [])
  match ins with
  | [] => 255
  | t :: ts => if bitAt word 12 then ts.foldl max t else ts.foldl min t

def Shutter.word (h : Shutter) (i j : Nat) : Nat := ((h.words[64 * i + j]?).getD 0).toNat
def Shutter.westIn (h : Shutter) (i : Nat) : Nat := (h.west[i]?).getD 255
def Shutter.northIn (h : Shutter) (j : Nat) : Nat := (h.north[j]?).getD 255

/-- The times of row i, columns from j on, given the row above, the last time and the one above it. -/
def rowTimes (h : Shutter) (i : Nat) (above : List Nat) : (fuel j west : Nat) → List Nat
  | 0, _, _ => []
  | fuel + 1, j, west =>
    let north := if h.chain || i = 0 then h.northIn j else (above[j]?).getD 255
    let nw := if 0 < j then (if i = 0 then h.northIn (j - 1) else (above[j - 1]?).getD 255)
      else if 0 < i then h.westIn (i - 1) else 255
    let t := cellTime (h.word i j) h.chain west north nw
    t :: rowTimes h i above fuel (j + 1) t

/-- The rows from i on. -/
def raceRows (h : Shutter) (above : List Nat) : (fuel i : Nat) → List (List Nat)
  | 0, _ => []
  | fuel + 1, i =>
    let row := rowTimes h i above 64 0 (h.westIn i)
    row :: raceRows h row fuel (i + 1)

/-- The captured times of a race, under the window in force when it began (R158, R160, R162). -/
def Shutter.race (h : Shutter) : List (List Nat) :=
  (raceRows h [] 64 0).map (fun row => row.map (fun t => if t ≤ h.tw then t else 255))

/-- The captured time C(i, j): 255 everywhere before a race (R160, R161). -/
def Shutter.captured (h : Shutter) (i j : Nat) : Nat :=
  match h.state with
  | .risen => (((h.times[i]?).getD [])[j]?).getD 255
  | _ => 255

/-! ### Holding the array (R161, R168) -/

def State.shutter (s : State) (c : Nat) : Shutter := (s.core c).shutter
def State.setShutter (s : State) (c : Nat) (h : Shutter) : State := s.modifyCore c (fun k => { k with shutter := h })

/-- Group 13's trap. -/
def shutterTrap (index : Nat) : Effect := .trap (cause 13 index) 0

/-- A path waits at a shutter form: for a race or an earlier form (9), or for its bytes (10). -/
def Path.waitsShutter (q : Path) : Bool :=
  match q.cond with
  | .blocked (.stall n) => n == 9 || n == 10
  | _ => false

/-- A shutter form in its turn (R162): while one of its weave that issued before it waits, it waits too. -/
def Env.inTurn (e : Env) (k : Effect) : Effect :=
  let earlier := e.w.livePaths.any (fun i => i != e.a.path
    && (e.w.path? i).any (fun q => q.waitsShutter && q.waitSince < e.issuedAt))
  if earlier then .wait e.s (.stall 9)
  else match k with
    | .wait s (.stall 3) => .wait s (.stall 10)
    | x => x

/-- A shutter form other than SHWIN, in its turn: the array is its weave's. -/
def Env.withArray (e : Env) (k : Shutter → Effect) : Effect :=
  e.inTurn (
    let h := e.s.shutter e.a.core
    if h.owner.holder != some e.w.id then shutterTrap 1 else k h)

/-- A form that waits for a race to end. -/
def Env.afterRace (e : Env) (h : Shutter) (k : Effect) : Effect :=
  if h.state == .racing then .wait e.s (.stall 9) else k

/-- The array becomes FREE, keeping what it holds. -/
def Shutter.free (h : Shutter) : Shutter :=
  { h with kept := h.state, state := .free, owner := { h.owner with holder := none } }

def shwinForm : Form :=
  { engine := .shutter
    body := fun e => e.inTurn (
      let h := e.s.shutter e.a.core
      let tw := e.scalar e.f.yOp
      let mine := h.owner.holder == some e.w.id
      let done := fun (h : Shutter) (ok : Bool) =>
        let s := (e.s.setShutter e.a.core h).modifyWeave e.a.core e.a.slot (fun w => e.writeActive w e.f.xOp ok)
        Effect.done (e.countOnly s .S)
      if tw < 1 || 254 < tw then shutterTrap 2
      else if mine then e.afterRace h (done { h with tw } true)
      else if h.owner.holder.isSome then done h false
      else
        let owner : Owner := { holder := some e.w.id, last := some e.w.id }
        if h.owner.last = some e.w.id then done { h with state := h.kept, owner, tw } true
        else done { Shutter.reset with state := .ready, owner, tw } true) }

def execShwin (f : Fields) (s : State) : Host.Outcome State Fault Refusal := issue (.shwin f) shwinForm s

/-- The scratchpad offset of SHLOAD and SHINJ: IMM[23:0] is read unsigned (R164). -/
def Env.shutterOffset (e : Env) : Nat :=
  match e.f.yOp, e.f.lit with
  | .wide, none => e.f.immN
  | o, _ => e.scalar o

/-- n bytes of the scratchpad read as class S, after R166's checks. -/
def Env.shutterBytes (e : Env) (h : Shutter) (n : Nat) (k : State → List Byte → Effect) : Effect :=
  let off := e.shutterOffset
  if off % 64 != 0 then structAlign off 6
  else if e.w.spadBytes < off + n then spadWindow off 4
  else e.afterRace h ((fillLines e.s e.a ((List.range n).map (fun i => off + i))).whole e 4 (fun s _ =>
    k s ((e.now s).engineSpadRead .S e.serial off n)))

/-- The 16-bit words of some bytes. -/
def words16 : List Byte → List (BitVec 16)
  | a :: b :: l => BitVec.ofNat 16 (a.toNat + 256 * b.toNat) :: words16 l
  | _ => []

def shloadForm : Form :=
  { engine := .shutter
    body := fun e => e.withArray (fun h => e.shutterBytes h 8192 (fun s b =>
      .done (e.countOnly (s.setShutter e.a.core { h with words := words16 b }) .S))) }

def shinjForm : Form :=
  { engine := .shutter
    body := fun e => e.withArray (fun h => e.shutterBytes h 128 (fun s b =>
      let t := b.map BitVec.toNat
      .done (e.countOnly (s.setShutter e.a.core { h with west := t.take 64, north := t.drop 64 }) .S))) }

/-- SHINJ.V: byte b of lane k; a lane that does not act gives 255. -/
def shinjVForm : Form :=
  { engine := .shutter
    body := fun e => e.withArray (fun h => e.afterRace h (
      let t := fun (k b : Nat) => if e.acting.has k then bits (e.read 32 e.f.yOp k) (8 * b + 7) (8 * b) else 255
      let side := fun (first : Nat) => (List.range 64).map (fun i => t (first + i / 4) (i % 4))
      .done (e.countOnly (e.s.setShutter e.a.core { h with west := side 0, north := side 16 }) .S))) }

def execShload (f : Fields) (s : State) : Host.Outcome State Fault Refusal := issue (.shload f) shloadForm s
def execShinj (f : Fields) (s : State) : Host.Outcome State Fault Refusal := issue (.shinj f) shinjForm s
def execShinjV (f : Fields) (s : State) : Host.Outcome State Fault Refusal := issue (.shinjV f) shinjVForm s

def shlaunchForm : Form :=
  { engine := .shutter
    body := fun e => e.withArray (fun h =>
      if h.state != .ready then shutterTrap 0
      else
        let h := { h with state := .racing, chain := e.f.modN == 1, raceOp := e.serial }
        .done ((e.s.setShutter e.a.core h).modifyWeave e.a.core e.a.slot (fun w => e.start w (some .S) .shutter []))) }

def execShlaunch (f : Fields) (s : State) : Host.Outcome State Fault Refusal := issue (.shlaunch f) shlaunchForm s

/-- Element e of a selector (R167). -/
def Shutter.element (h : Shutter) (sel n x : Nat) : Nat :=
  if 63 < x then 255
  else match sel with
    | 0 => h.captured n x
    | 1 => h.captured x n
    | 2 => if x ≤ n && n - x ≤ 63 then h.captured x (n - x) else 255
    | _ =>
      let c := h.captured n x
      ((List.range 64).filter (fun k => h.captured n k < c || (k < x && h.captured n k == c))).length

def shcapForm : Form :=
  { engine := .shutter
    jambs := fun e => dstJamb e.f.xOp (.iv 0 255)
    body := fun e => e.withArray (fun h =>
      let sel := e.f.modN % 4
      let n := e.scalar e.f.yOp
      let e0 := e.scalar e.f.zOp
      if (if sel = 2 then 126 else 63) < n || 63 < e0 then shutterTrap 3
      else e.afterRace h (
        .done (e.put e.s ((e.writeDst e.w e.f.xOp (fun k => h.element sel n (e0 + k))).tagDst e.f.xOp .i32)))) }

def execShcap (f : Fields) (s : State) : Host.Outcome State Fault Refusal := issue (.shcap f) shcapForm s

def shresetForm : Form :=
  { engine := .shutter
    body := fun e => e.withArray (fun h => e.afterRace h (
      let h := { h with state := .ready, times := [] }
      .done (e.s.setShutter e.a.core (if e.f.modN = 1 then h.free else h)))) }

def execShreset (f : Fields) (s : State) : Host.Outcome State Fault Refusal := issue (.shreset f) shresetForm s

/-- SHUTTER_RACE_END (R166): the times are held, and the launch's count falls. -/
def State.endRace (s : State) (c : Nat) : State :=
  let k := s.core c
  let h := k.shutter
  if k.frozen || h.state != .racing then s
  else
    let s := s.setShutter c { h with state := .risen, times := h.race }
    match List.find? (fun (x : Nat × Weave) => some x.2.id == h.owner.holder) k.slots with
    | some (slot, _) => s.modifyWeave c slot (fun w => w.completeOp h.raceOp)
    | none => s

def execShutterRaceEnd (core : Nat) (s : State) : Host.Outcome State Fault Refusal := .next (s.endRace core)

end Sys2Proof.Machine
end

