-- ==== Sys2Proof/Machine/Fetch.lean ====
section
/-! DEFINITION. Fetching an instruction: alignment, translation, Farno ranges (R194, R212, R351) and what a word that is
no instruction does (R210, R458). -/

namespace Sys2Proof.Machine

/-! ### Fetch lines (R194, R342, R387) -/

/-- The fetch line of an address that a core holds, when this fetch still finds it (R342). -/
def State.heldLine (s : State) (c ctx va : Nat) : Option FetchLine :=
  ((s.core c).fetch.find? (fun l => l.ctx == ctx && l.line == va / 192)).filter
    (fun _ => Config.lineKept s.serial (va / 192))

/-- How a fetch at an address decodes: as its held line does, else by the range table. -/
def State.decodesFarno (s : State) (c ctx va : Nat) : Bool :=
  match s.heldLine c ctx va with
  | some l => if va / 65536 = l.line * 192 / 65536 then l.farno else l.farnoEnd
  | none => s.inFarnoRange ctx va

/-- The context number under which a hinge core's own fetch lines are kept. -/
def hingeCtx : Nat := 64

/-! ### Bytes -/

/-- A fetch line with the part of it that lies in the page of an address, [lo, hi), read at once at the die's slice (R387). -/
def State.fetchLine (s : State) (c ctx va pa : Nat) : State × FetchLine :=
  let first := va / 192 * 192
  let old : FetchLine := (s.heldLine c ctx va).getD {
    ctx, line := va / 192, farno := s.inFarnoRange ctx first, farnoEnd := s.inFarnoRange ctx (first + 191), bytes := [] }
  if (Table.find? old.bytes va).isSome then (s, old)
  else
    let size := if ctx = hingeCtx then 65536 else s.pageSize ctx va
    let lo := max first (va - va % size)
    let hi := min (first + 192) (va - va % size + size)
    let (s, fresh) := (pieces 128 (pa - (va - lo)) (hi - lo)).foldl (fun (acc : State × List Byte) x =>
      let (s, b) := acc.1.readL2 (dieOf c) x.1 x.2
      (s, acc.2 ++ b)) (s, [])
    (s, { old with bytes := ((List.range (hi - lo)).zip fresh).foldl (fun t (i, b) => Table.set t (lo + i) b) old.bytes })

/-- Bytes [va, va + n) of one fetch line and one page, which lie at [pa, pa + n). -/
def State.fetchLinePart (s : State) (c ctx va pa n : Nat) : State × List Byte :=
  let (s, line) := s.fetchLine c ctx va pa
  (s.modifyCore c (fun k => { k with
    fetch := k.fetch.filter (fun l => !(l.ctx == ctx && l.line == va / 192)) ++ [line] }),
    (List.range n).map (fun i => (Table.find? line.bytes (va + i)).getD 0))

/-- Instruction bytes from another module: what has arrived, or a request and a wait. -/
def State.fetchRemoteCode (s : State) (a : Actor) (w : Weave) (q : Path) (m ctx va n : Nat) : Got (List Byte) :=
  s.remoteStep q
    { id := 0, weave := w.id, core := a.core, slot := a.slot, path := a.path, lane := 0, op := 0, port := 0,
      module := m, sent := 0, ctx, va, what := .load n, dest := .none, pc := q.pc, next := q.pc,
      captured := { sregs := [], aregs := [], rng := 0 }, whole := true, waiting := false } (loadKey va n)

/-- Bytes [va, va + n) for a path's next instruction. -/
def State.fetchBytes (s : State) (a : Actor) (w : Weave) (q : Path) (va n : Nat) : Got (List Byte) :=
  if q.pastEnd || 2 ^ 72 < va + n then .fault s (cause 1 6) q.pc.toNat (BitVec.ofNat 96 q.pc.toNat)
  else
    let ctx := if a.isHinge then hingeCtx else w.id.ctx
    Got.foldl (fun s l (x : Nat × Nat) =>
      (Got.ofXlate (s.translateFor a w.id.ctx x.1 needFetch)).andThen (fun s p =>
        match p with
        | .phys pa =>
          let (s, b) := (pieces 192 x.1 x.2).foldl (fun (acc : State × List Byte) y =>
            let (s, b) := acc.1.fetchLinePart a.core ctx y.1 (pa + (y.1 - x.1)) y.2
            (s, acc.2 ++ b)) (s, [])
          .ok s (l ++ b)
        | .remote m c => (s.fetchRemoteCode a w q m c x.1 x.2).andThen (fun s b => .ok s (l ++ b)))) s [] (pieces 4096 va n)

/-- The bytes of the instruction at a path's PC: its first word, and what its bits say follows. -/
def State.fetchWords (s : State) (a : Actor) (w : Weave) (q : Path) (farno : Bool) : Got (List Byte) :=
  let pc := q.pc.toNat
  let more := fun (s : State) (b : List Byte) (n : Nat) (wanted : Bool) =>
    if wanted then (s.fetchBytes a w q (pc + b.length) n).andThen (fun s c => .ok s (b ++ c)) else .ok s b
  if farno then
    (s.fetchBytes a w q pc 8).andThen (fun s b =>
      let base := BitVec.ofNat 64 (ofBytes b)
      let e := farnoHasExtension base && base != BitVec.allOnes 64
      (more s b 8 e).andThen (fun s b =>
        more s b 8 (e && farnoHasLiteral (BitVec.ofNat 64 (ofBytes (b.drop 8))))))
  else
    (s.fetchBytes a w q pc 12).andThen (fun s b =>
      let x := word96 b
      more s b 12 (nativeHasLiteral x && x != BitVec.allOnes 96))

/-! ### The outcome of a fetch -/

/-- What a fetch comes to: an instruction to run, a path that has stopped or waits, or a machine that stops. -/
inductive Fetched where
  | instr (s : State) (i : Instr)
  | moved (s : State)
  | stop (f : Fault)

/-- A path stopped at its fetch. A hinge core that cannot fetch an instruction is reloaded (R458). -/
def State.fetchStops (s : State) (a : Actor) (q : Path) (c : Cause) (detail : BitVec 96) (size : Nat) : Fetched :=
  let next := if q.pastEnd then q.pc else BitVec.ofNat 72 (q.pc.toNat + size)
  if q.haltRequest then .moved (s.haltPath a 2 0 false false q.pc)
  else
    let s := s.takeStop a c detail { kind := 3, next, resumesNext := false, captured := none } [] none true
    .moved (if c.group = 7 then s.modifyPath a (fun q => { q with stepping := 0 }) else s)

/-- The next instruction of a path. -/
def State.fetch (s : State) (a : Actor) : Fetched :=
  match s.weave? a.core a.slot, s.path? a with
  | some w, some q =>
    let pc := q.pc.toNat
    let farno := !a.isHinge && s.decodesFarno a.core w.id.ctx pc
    let n := if farno then 8 else 12
    let log2 := if farno then 3 else 2
    if pc % 2 ^ log2 != 0 then s.fetchStops a q (cause 4 1) (alignDetail pc log2 0) n
    else match s.fetchWords a w q farno with
      | .fault s c _ d => s.fetchStops a q c d n
      | .wait s => .moved (s.modifyPath a (fun q => { q with cond := .blocked (.stall 13), held := none }))
      | .nowhere x => .stop (.hingeAddress x)
      | .ok s b =>
        match decodeBytes farno b with
        | .ok (i, _) => .instr s i
        | .error .fellOff => s.fetchStops a q (cause 7 0) 0 b.length
        | .error (.opcUnassigned o) => s.fetchStops a q (cause 7 1) (Defect.opcUnassigned o).detail b.length
        | .error .truncated => s.fetchStops a q (cause 7 1) 0 b.length
  | _, _ => .stop .noPath

/-- The address after the instruction at a path's PC, as it would be fetched now; the PC where it cannot be. -/
def State.nextOf (s : State) (a : Actor) : VAddr :=
  match s.path? a with
  | none => 0
  | some q =>
    match s.fetch a with
    | .instr _ i => BitVec.ofNat 72 (q.pc.toNat + ((i.fields.map Fields.size).getD 0))
    | _ => q.pc

end Sys2Proof.Machine
end

