-- ==== Sys2Proof/Machine/Trace.lean ====
section
/-! DEFINITION. The trace ring and the path sampler (R459 to R463). -/

namespace Sys2Proof.Machine

/-- PARKED or HALTED. -/
def Cond.isStopped : Cond → Bool
  | .parked _ | .halted _ => true
  | _ => false

/-- Kinds of trace records (R461). -/
def kindStop : Nat := 1
def kindResume : Nat := 2
def kindDispatch : Nat := 3
def kindEnd : Nat := 4
def kindEvict : Nat := 5
def kindReturn : Nat := 6
def kindPark : Nat := 7
def kindWake : Nat := 8
def kindFreeze : Nat := 9
def kindRestore : Nat := 10

/-- A trace record but for PH (R460). -/
def traceRecord (tick core slot path kind stall cause tag : Nat) (issued : Bool) (w : Weave) (q : Path) : Nat :=
  let (g, word) := LaneMask.lowGroup q.mask
  w.id.gen % 2 ^ 32 * 2 ^ 259 + tag % 256 * 2 ^ 251 + cause % 512 * 2 ^ 242 + bit01 issued * 2 ^ 241
    + stall % 32 * 2 ^ 236 + kind % 32 * 2 ^ 231 + core % 512 * 2 ^ 222 + slot % 64 * 2 ^ 216 + path % 8 * 2 ^ 213
    + g * 2 ^ 208 + word.toNat * 2 ^ 176 + q.mask.summary.toNat * 2 ^ 144 + q.pc.toNat * 2 ^ 72 + tick % 2 ^ 72

/-- A record that is not written (R461, R462). -/
def State.dropTrace (s : State) (ctx : Nat) : State := s.bumpField (debugBlock ctx) 303 272 true

/-- A trace write that faults, or finds a flash-tier page: it is dropped, and tracing is suspended (R462). -/
def State.suspendTrace (s : State) (ctx va : Nat) : State :=
  ((s.dropTrace ctx).setField (debugBlock ctx) 3 3 1).setField (debugBlock ctx) 511 440 va

/-- TTAIL advances once a record's PH has been performed (R461). -/
def State.traceWritten (s : State) (ctx : Nat) : State :=
  s.setField (debugBlock ctx) 367 336 (s.field (debugBlock ctx) 367 336 + 1)

/-- The pseudo-slot of trace records on their way to other modules, and those of a context. -/
def traceSlot : Nat := 68
def State.tracesSent (s : State) (ctx : Nat) : Nat :=
  (s.requests.filter (fun r => r.slot == traceSlot && r.weave.ctx == ctx)).length

/-- A record written to the context's ring through its own translation, or sent where the page lies on another module; one that
faults suspends tracing (R461, R462). None while the page or a node moves, or its module's credits are away. -/
def State.tryTrace (s : State) (die ctx record : Nat) : State × Bool :=
  let b := debugBlock ctx
  let tail := s.field b 367 336 + s.tracesSent ctx
  let cap := ringSize (s.field b 271 264) 6 24
  if s.field b 3 3 = 1 then (s.dropTrace ctx, true)
  else if cap ≤ (tail + 2 ^ 32 - s.field b 335 304) % 2 ^ 32 then (s.dropTrace ctx, true)
  else
    let va := s.field b 439 368 + 64 * (tail % cap)
    let whole := record + (1 - tail / cap % 2) * 2 ^ 511
    match (if va < 2 ^ 72 then s.agentRead die ctx va needWrite else (s, .nowhere va)) with
    | (s, .phys pa) => ((s.writeHomeNat pa 64 whole).traceWritten ctx, true)
    | (s, .busy) => (s, false)
    | (s, .remote m rctx) =>
      let op := RemoteOp.store (toBytes 64 whole)
      if (s.routeFails m).isSome then (s.suspendTrace ctx va, true)
      else if s.awaitsCredit m op then (s, false)
      else (s.send {
        id := 0, weave := { ctx, record := 0, inst := 0, gen := 0 }, core := 512, slot := traceSlot, path := 0, lane := 0
        op := 0, port := 0, module := m, sent := 0, ctx := rctx, va, what := op, dest := .none, pc := 0, next := 0
        captured := { sregs := [], aregs := [], rng := 0 }, whole := true, waiting := false }, true)
    | (s, _) => (s.suspendTrace ctx va, true)

/-- A record of a context: it waits behind those of the context that wait. -/
def State.writeTrace (s : State) (die ctx record : Nat) : State :=
  if s.lateTraces.any (fun x => x.2.1 == ctx) then { s with lateTraces := s.lateTraces ++ [(die, ctx, record)] }
  else match s.tryTrace die ctx record with
    | (s, true) => s
    | (s, false) => { s with lateTraces := s.lateTraces ++ [(die, ctx, record)] }

/-- The records that wait, tried again in order. -/
def State.settleTraces (s : State) : State :=
  s.lateTraces.foldl (fun s (die, ctx, record) => s.writeTrace die ctx record) { s with lateTraces := [] }

/-- An event of a kind recorded for one path, where the context asks for it (R461). -/
def State.tracePath (s : State) (c slot path kind cause tag : Nat) (w : Weave) (q : Path) : State :=
  let b := debugBlock w.id.ctx
  if s.field b 1 1 = 1 && bitAt (s.field b 47 32) kind then
    s.writeTrace (dieOf c) w.id.ctx (traceRecord s.tick c slot path kind 0 cause tag false w q)
  else s

/-- An event recorded for every live path of a weave. -/
def State.traceWeave (s : State) (c slot kind : Nat) (w : Weave) : State :=
  w.livePaths.foldl (fun s i => match w.path? i with
    | some q => s.tracePath c slot i kind 0 0 w q
    | none => s) s

/-- A path made READY by the end of its stop is recorded as resumed. -/
def State.traceResume (s before : State) (a : Actor) : State :=
  match before.path? a, s.weave? a.core a.slot, s.path? a with
  | some p, some w, some q =>
    if p.cond.isStopped && q.cond == .ready then s.tracePath a.core a.slot a.path kindResume 0 0 w q else s
  | _, _, _ => s

/-! ### The sampler (R463) -/

/-- STALL of a path: the first reason that applies and that the model's state shows; `chosen` is whether its scheduler
chose it last. -/
def stallCode (q : Path) (chosen : Bool) : Nat :=
  match q.cond with
  | .ready => if chosen then 0 else 1
  | .blocked (.stall 0) => 4
  | .blocked (.stall 1) => 3
  | .blocked (.stall 3) | .blocked (.stall 10) => 10
  | .blocked (.stall 12) => 5
  | .blocked (.stall 13) => 6
  | .blocked (.stall 6) | .blocked (.qpop _ _) => 19
  | .blocked (.stall 7) => 15
  | .blocked (.stall 11) => 14
  | .blocked (.stall 8) => 22
  | .blocked (.stall 9) => 24
  | .blocked (.stall _) => 18
  | .blocked (.bar _) => 16
  | .blocked (.abwait ..) => 17
  | .blocked (.hbar ..) => 18
  | .blocked (.waitc ..) => 20
  | .blocked (.sleep ..) => 21
  | .blocked (.kvld _) => 25
  | .blocked (.park ..) | .blocked (.hold _) | .blocked (.batches ..) => 23
  | .arrived .. => 26
  | .parked _ => 27
  | .halted _ => 28

/-- The paths a scheduler may sample: its 16 slots' live paths in contexts with SMEN = 1, as 8 × slot + path. -/
def State.samplePaths (s : State) (c sched : Nat) : List Nat :=
  ((s.core c).slots.filter (fun x => x.1 / 16 == sched && x.1 < 64)).flatMap (fun (slot, w) =>
    if s.field (debugBlock w.id.ctx) 2 2 = 1 then w.livePaths.map (fun i => 8 * slot + i) else [])

/-- PATH_SAMPLE: the next resident path in rotation. -/
def State.samplePath (s : State) (c sched : Nat) : State :=
  let l := s.samplePaths c sched
  let last := (Table.find? (s.core c).sampleNext sched).getD 0
  match (l.find? (fun x => last < x)) <|> l.head? with
  | none => s
  | some x =>
    let slot := x / 8
    let i := x % 8
    let s := s.modifyCore c (fun k => { k with sampleNext := Table.set k.sampleNext sched x })
    match s.weave? c slot with
    | none => s
    | some w =>
      match w.path? i with
      | none => s
      | some q =>
        let issued := s.cur == { core := c, slot, path := i } && q.lastIssue + 1 == s.serial
        s.writeTrace (dieOf c) w.id.ctx
          (traceRecord s.tick c slot i 0 (stallCode q issued) 0 0 issued w q)

def execPathSample (core scheduler : Nat) (s : State) : Host.Outcome State Fault Refusal :=
  .next (if (s.core core).frozen then s else s.samplePath core scheduler)

end Sys2Proof.Machine
end

