-- ==== Sys2Proof/Machine/System.lean ====
section
/-! DEFINITION. Class 7, the privileged forms of a hinge core (R338 to R344): control and status registers (R405, R406,
R464), ERET, TLBINV and ICINV, the debug window (R409 to R411), and HALT. -/

namespace Sys2Proof.Machine

/-- An event that comes before any other move. -/
def State.pushEvent (s : State) (i : Instr) : State := { s with agenda := .event i :: s.agenda }

def State.modifyHinge (s : State) (c : Nat) (f : Hinge → Hinge) : State :=
  s.modifyCore c (fun k => { k with hinge := f k.hinge })

/-- The eviction of a weave is over: EVICT gives its outcome when it was the last request's (R413). -/
def State.evictionOver (s : State) (c : Nat) (id : WeaveId) (code : Nat) : State :=
  s.modifyHinge c (fun h => if h.evictFor = some id then { h with evict := BitVec.ofNat 64 code, evictFor := none } else h)

/-! ### Control and status registers -/

/-- INSTOP of HSTATUS. -/
def Hinge.inStop (h : Hinge) : Bool := bitAt h.hstatus.toNat 2
def Hinge.takesInterrupts (h : Hinge) : Bool := bitAt h.hstatus.toNat 1
def Hinge.takesStops (h : Hinge) : Bool := bitAt h.hstatus.toNat 0

/-- What CSRR reads: none for an absent register. -/
def Core.readCsr (k : Core) (csr : Nat) : Option Nat :=
  let h := k.hinge
  if 0x20 ≤ csr && csr ≤ 0x27 then some (bits h.cmap.toNat (64 * (csr - 0x20) + 63) (64 * (csr - 0x20)))
  else match csr with
    | 0x000 => some h.hstatus.toNat
    | 0x001 => some h.tvec.toNat
    | 0x002 => some h.tret.toNat
    | 0x003 => some h.tstop.toNat
    | 0x004 => some h.tlanes.toNat
    | 0x005 => some h.tpc.toNat
    | 0x006 => some h.tpch.toNat
    | 0x007 => some h.ivec.toNat
    | 0x008 => some (bits h.tdet.toNat 31 0)
    | 0x009 => some (bits h.tdet.toNat 63 32)
    | 0x00A => some (bits h.tdet.toNat 95 64)
    | 0x00B => some h.ttoken.toNat
    | 0x00C => some h.tsave.toNat
    | 0x00D => some h.icause.toNat
    | 0x010 => some k.stops.length
    | 0x030 => some (h.evict.toNat % 8)
    | 0x031 => some 0
    | 0x032 => some h.slice.toNat
    | 0x040 => some 0
    | 0x041 => some h.step.toNat
    | _ => none

/-- The effect of writing a value to a register, by the Access codes of its fields (R5). -/
def State.writeCsr (s : State) (c csr v : Nat) : State :=
  let w := BitVec.ofNat 64 v
  if 0x20 ≤ csr && csr ≤ 0x27 then
    s.modifyHinge c (fun h => { h with cmap := h.cmap &&& ~~~(BitVec.ofNat 512 (v % 2 ^ 64 * 2 ^ (64 * (csr - 0x20)))) })
  else match csr with
    | 0x000 => s.modifyHinge c (fun h => { h with hstatus := (h.hstatus &&& 4) ||| (w &&& 3) })
    | 0x001 => s.modifyHinge c (fun h => { h with tvec := w })
    | 0x002 => s.modifyHinge c (fun h => { h with tret := w })
    | 0x007 => s.modifyHinge c (fun h => { h with ivec := w })
    | 0x00C => s.modifyHinge c (fun h => { h with tsave := w })
    | 0x00D => s.modifyHinge c (fun h => { h with icause := h.icause &&& ~~~w, taken := h.taken &&& ~~~w })
    | 0x030 =>
      if bitAt v 63 then s.pushEvent (.evictRequest c (bits v 5 0))
      else if bitAt v 62 then s.pushEvent (.evictReturn c) else s
    | 0x031 => if bitAt v 0 then s.pushEvent (.hfwd c) else s
    | 0x032 => s.modifyHinge c (fun h => { h with slice := w })
    | 0x040 => if bitAt v 63 then s.pushEvent (.haltreq c (bits v 5 0) (bits v 8 6)) else s
    | 0x041 => s.modifyHinge c (fun h => { h with step := w &&& 3 })
    | _ => s

/-- CSR_ABSENT. -/
def csrAbsent (i : Instr) (csr : Nat) : Effect := .trap (cause 8 4) (privDetail i csr)

def csrNumber (f : Fields) : Nat := bits f.immN 15 0

def csrrForm : Form :=
  { jambs := fun e => dstJamb e.f.xOp .top
    body := fun e =>
      match (e.s.core e.a.core).readCsr (csrNumber e.f), e.f.xOp with
      | some v, .sreg n =>
        .done (e.put e.s (e.owe e.w none .result [.sreg n (BitVec.ofNat 64 v)]))
      | _, _ => csrAbsent e.i (csrNumber e.f) }

def execCsrr (f : Fields) (s : State) : Host.Outcome State Fault Refusal := issue (.csrr f) csrrForm s

def csrwForm : Form :=
  { body := fun e =>
      let csr := csrNumber e.f
      match (e.s.core e.a.core).readCsr csr with
      | none => csrAbsent e.i csr
      | some old =>
        let v := e.scalar e.f.yOp
        let new := match e.f.modN with
          | 1 => old ||| v
          | 2 => old &&& (2 ^ 64 - 1 - v)
          | _ => v
        .done (e.s.writeCsr e.a.core csr new) }

def execCsrw (f : Fields) (s : State) : Host.Outcome State Fault Refusal := issue (.csrw f) csrwForm s

/-! ### ERET (R340) -/

/-- A slice expiry held while a path was HALTED is raised once none is (R412). -/
def State.releaseSlice (s : State) (c slot : Nat) : State :=
  match s.weave? c slot with
  | none => s
  | some w =>
    let halted := w.livePaths.any (fun i => match (w.path? i).map (fun (q : Path) => q.cond) with
      | some (.halted _) => true
      | _ => false)
    if w.slicePending && !halted then s.pushEvent (.sliceExpired c slot) else s

/-- The step that an ERET.REPLAY arms (R464): 0 none, 1 step, 2 step to completion. -/
def Hinge.armed (h : Hinge) (disp : Nat) : Nat :=
  if disp = 0 && bitAt h.step.toNat 0 then (if bitAt h.step.toNat 1 then 2 else 1) else 0

/-- A .SKIP of a HALTED path goes to the instruction after the one that it halted before, as it is fetched now (R340). -/
def State.aimSkip (s : State) (a : Actor) : State :=
  let next := s.nextOf a
  s.modifyPath a (fun q => match q.cond with
    | .halted h => if h.atNext || h.parked.isSome then q else { q with cond := .halted { h with next } }
    | _ => q)

/-- Whether a path is HALTED. -/
def State.isHalted (s : State) (a : Actor) : Bool :=
  match (s.path? a).map (fun (q : Path) => q.cond) with
  | some (.halted _) => true
  | _ => false

/-- The disposition of the stop in service applied to its path, when its weave is still in its slot. -/
def State.endService (s : State) (c disp : Nat) : State :=
  let h := (s.core c).hinge
  match h.serving with
  | none => s
  | some e =>
    let a : Actor := { core := c, slot := e.slot, path := e.path }
    let fault := (s.path? a).any (fun q => q.holdsFault e.cause)
    let stepping := if s.isHalted a && !fault then h.armed disp else 0
    let s := if disp = 1 then s.aimSkip a else s
    let s := s.modifyHinge c (fun h => { h with
      serving := none, hstatus := h.hstatus &&& 3
      step := if stepping = 0 then h.step else h.step &&& 2 })
    if e.slot != hingeSlot && (s.weave? c e.slot).map (fun w => w.id) == some e.weave then
      let t := if fault && disp ≤ 1 then (s.clearAbort c e.slot).modifyPath a (fun q => q.unparkHalted disp)
        else s.returnStop a disp stepping
      (t.traceResume s a).releaseSlice c e.slot
    else s

/-- The stop in service is the hinge core's own. -/
def Hinge.servesItself (h : Hinge) : Bool := (h.serving.map (fun e => e.slot == hingeSlot)).getD false

/-- The hinge core goes on at TRET, or, where it skips the instruction of its own that stopped there, after that. -/
def State.backToTret (s : State) (a : Actor) (skips : Bool) : State :=
  let s := s.modifyPath a (fun q => q.goOn ((s.core a.core).hinge.tret.setWidth 72))
  if skips then s.modifyPath a (fun q => q.goOn (s.nextOf a)) else s

def eretForm (disp : Nat) : Form :=
  { body := fun e =>
      let skips := disp == 1 && (e.s.core e.a.core).hinge.servesItself
      .moved ((e.s.endService e.a.core disp).backToTret e.a skips) }

def execEretReplay (f : Fields) (s : State) : Host.Outcome State Fault Refusal := issue (.eretReplay f) (eretForm 0) s
def execEretSkip (f : Fields) (s : State) : Host.Outcome State Fault Refusal := issue (.eretSkip f) (eretForm 1) s
def execEretKill (f : Fields) (s : State) : Host.Outcome State Fault Refusal := issue (.eretKill f) (eretForm 2) s
def execEretEnd (f : Fields) (s : State) : Host.Outcome State Fault Refusal := issue (.eretEnd f) (eretForm 3) s

/-! ### TLBINV and ICINV (R341, R342) -/

/-- INV_RANGE. -/
def invRange (i : Instr) : Effect := .trap (cause 8 5) (privDetail i 0)

/-- A page of a context meets what an invalidation covers. -/
def pageHit (hit : TlbEntry → Bool) (ctx base size : Nat) : Bool := hit { ctx, base, size, entry := 0, sub := false }

/-- Accesses translated through the entries that an invalidation removes, and not yet performed (R342): requests to other
modules, and accepted operations of the engines, whose numbers no other operation has. -/
def State.accessesThrough (s : State) (hit : TlbEntry → Bool) : List Nat × List Nat :=
  let works := s.cores.flatMap (fun x =>
    x.2.channels.flatMap (fun ch => ch.2.map (fun (o : CopyOp) => (o.op, o.weave.ctx, o.pages)))
    ++ x.2.matrix.map (fun (m : MatrixOp) => (m.op, m.weave.ctx, m.work.pages)))
  let through := fun (ctx va : Nat) =>
    let e := s.entrySpan ctx va
    pageHit hit ctx e.1 e.2
  ((s.requests.filter (fun r => through r.weave.ctx r.va)).map (fun r => r.id),
    (works.filter (fun x => x.2.2.any (fun p => through x.2.1 (p.1 * 4096)))).map (fun x => x.1))

/-- The acknowledgement that HINT.SET counts. -/
def Env.acknowledge (e : Env) (s : State) (pending : List Nat × List Nat) : State :=
  if e.f.setN = 0 then s
  else s.modifyWeave e.a.core e.a.slot (fun w => e.start w none (.invalidate pending.1 pending.2) [])

/-- TLBINV: the translations that `hit` picks go, and with them the code built through entries that it picks (R342, R356). -/
def Env.invalidate (e : Env) (hit : TlbEntry → Bool) : State :=
  e.acknowledge ((e.s.purgeTlbs hit).dropCode (fun t => t.spans.any (fun x => pageHit hit t.entry.ctx x.1 x.2))) (e.s.accessesThrough hit)

def tlbinvForm (kind : Nat) : Form :=
  { body := fun e =>
      let c := e.scalar e.f.xOp
      let va := e.scalar e.f.yOp
      let n := e.scalar e.f.zOp
      match kind with
      | 0 =>
        if va % 65536 != 0 then structAlign va 16
        else if n < 1 || 2 ^ 24 < n then invRange e.i
        else .done (e.invalidate (fun t => t.ctx == c && t.base < va + n * 65536 && va < t.base + t.size))
      | 1 => .done (e.invalidate (fun t => t.ctx == c))
      | _ => .done (e.invalidate (fun _ => true)) }

def execTlbinvVa (f : Fields) (s : State) : Host.Outcome State Fault Refusal := issue (.tlbinvVa f) (tlbinvForm 0) s
def execTlbinvCtx (f : Fields) (s : State) : Host.Outcome State Fault Refusal := issue (.tlbinvCtx f) (tlbinvForm 1) s
def execTlbinvAll (f : Fields) (s : State) : Host.Outcome State Fault Refusal := issue (.tlbinvAll f) (tlbinvForm 2) s

/-- The fetch lines that an invalidation meets, dropped from every core; the translations being built from those bytes
are discarded (R342, R356). -/
def State.purgeFetch (s : State) (p : CodePurge) : State :=
  ({ s with
    cores := s.cores.map (fun (c, k) =>
      (c, { k with fetch := k.fetch.filter (fun x => !p.meets x.ctx (x.line * 192) 192) })) } : State).notePurge p

/-- ICINV: the fetch lines, and the code translated from those bytes. -/
def Env.invalidateCode (e : Env) (ctx : Option Nat) (base size : Nat) : State :=
  let p : CodePurge := { ctx, base, size, tick := e.s.tick }
  e.acknowledge ((e.s.purgeFetch p).dropCode (fun t => p.meets t.entry.ctx t.entry.base t.entry.size)) ([], [])

def icinvForm (kind : Nat) : Form :=
  { body := fun e =>
      let c := e.scalar e.f.xOp
      let va := e.scalar e.f.yOp
      let n := e.scalar e.f.zOp
      match kind with
      | 0 =>
        if n < 1 || 2 ^ 32 < n then invRange e.i
        else
          let first := va / 192 * 192
          .done (e.invalidateCode (some c) first ((va + n + 191) / 192 * 192 - first))
      | 1 => .done (e.invalidateCode (some c) 0 (2 ^ 72))
      | _ => .done (e.invalidateCode none 0 0) }

def execIcinvVa (f : Fields) (s : State) : Host.Outcome State Fault Refusal := issue (.icinvVa f) (icinvForm 0) s
def execIcinvCtx (f : Fields) (s : State) : Host.Outcome State Fault Refusal := issue (.icinvCtx f) (icinvForm 1) s
def execIcinvAll (f : Fields) (s : State) : Host.Outcome State Fault Refusal := issue (.icinvAll f) (icinvForm 2) s

/-! ### The debug window (R409 to R411) -/

/-- Fields of a selector. -/
def selItem (v : Nat) : Nat := bits v 47 32
def selClass (v : Nat) : Nat := bits v 31 24
def selLane (v : Nat) : Nat := bits v 23 14
def selPath (v : Nat) : Nat := bits v 13 11
def selSlot (v : Nat) : Nat := bits v 5 0
def selSaved (v : Nat) : Bool := bitAt v 63

/-- The saved weave whose record lies at an address. -/
def State.savedAt (s : State) (pa : Nat) : Option (Nat × Saved) := List.find? (fun (x : Nat × Saved) => x.2.pool * 4096 == pa) s.saved

/-- The weave that a selector names, when it may be read and written. -/
def State.debugTarget (s : State) (c sel : Nat) : Option Weave :=
  if selSaved sel then (s.savedAt (s.core c).hinge.tsave.toNat).map (fun x => x.2.weave)
  else match s.weave? c (selSlot sel) with
    | none => none
    | some w => if ((w.path? (selPath sel)).map (fun (q : Path) => q.cond.isStopped)).getD false then some w else none

/-- The same weave replaced. -/
def State.putTarget (s : State) (c sel : Nat) (w : Weave) : State :=
  if selSaved sel then
    match s.savedAt (s.core c).hinge.tsave.toNat with
    | some (n, x) => { s with saved := Table.set s.saved n { x with weave := w } }
    | none => s
  else s.setWeave c (selSlot sel) w

/-- A trap of group 16 on a hinge core's debug form. -/
def debugTrap (index : Nat) : Effect := .trap (cause 16 index) 0

/-- The condition codes of R410. -/
def condCode : Option Path → Nat
  | none => 0
  | some q => match q.cond with
    | .ready => 1 | .blocked _ => 2 | .arrived .. => 3 | .parked _ => 4 | .halted _ => 5

/-- The parked state of a path, which a HALTED path may hold too. -/
def parkedOf : Option Path → Option Parked
  | none => none
  | some q => match q.cond with
    | .parked k => some k
    | .halted h => h.parked
    | _ => none

/-- Items of class PATH. -/
def debugPath (w : Weave) (serial : Nat) (q : Option Path) (item : Nat) : Option Nat :=
  let get := fun (f : Path → Nat) => (q.map f).getD 0
  match item with
  | 0 => some (get (fun q => q.pc.toNat % 2 ^ 64))
  | 1 => some (get (fun q => q.pc.toNat / 2 ^ 64))
  | 2 => some (condCode q)
  | 3 => some (get (fun q => ((List.range 6).foldl (fun n i => n + (((q.counters[i]?).getD []).length % 64) * 2 ^ (6 * i)) 0)))
  | 4 => some (get (fun q => q.stack.length))
  | 5 => some (Config.lookaheadItem serial).toNat
  | 6 => some (get (fun q => q.mask.summary.toNat))
  | n => if n < 39 && n - 7 < w.groups then some (get (fun q => (q.mask.word (n - 7)).toNat))
    else if n < 39 then some 0 else none

/-- Items of class STACK: entry 0 is the top (log 20). -/
def debugStack (q : Option Path) (item : Nat) : Option Nat :=
  let w := item % 128
  match (q.bind (fun q => q.stack[item / 128]?)) with
  | none => if w < 69 && item / 128 < 16 then some 0 else none
  | some (.split rid serial) => if w = 0 then some (serial % 2 ^ 16 * 2 ^ 6 + rid) else if w < 69 then some 0 else none
  | some (.defer rid deferred resume merged arrived reconv _ _) =>
    if w = 0 then some (2 ^ 63 + bit01 arrived * 2 ^ 62 + rid)
    else if w = 1 then some ((if arrived then reconv else resume).toNat % 2 ^ 64)
    else if w = 2 then some ((if arrived then reconv else resume).toNat / 2 ^ 64)
    else if w = 3 then some deferred.summary.toNat
    else if w < 36 then some (deferred.word (w - 4)).toNat
    else if w = 36 then some merged.summary.toNat
    else if w < 69 then some (merged.word (w - 37)).toNat
    else none

/-- Items of class REFINE: refinement k by age, its age rank k. -/
def debugRefine (q : Option Path) (item : Nat) : Option Nat :=
  if 24 ≤ item then none
  else match (q.bind (fun q => q.refinements[item / 3]?)) with
    | none => some 0
    | some r =>
      match item % 3 with
      | 0 => some (2 ^ 63 + item / 3 * 2 ^ 32 + r.reg % 1024)
      | 1 => some (uwrap 64 (r.jamb.lo (codeWidth r.reg)))
      | _ => some (uwrap 64 (r.jamb.hi (codeWidth r.reg)))

/-- The register code of a jamb item, when such a register exists. -/
def jambItem (w : Weave) (item : Nat) : Option Nat :=
  if item < w.vregs.length || (0x100 ≤ item && item < 0x100 + w.scount) then some item else none

/-- What DBGRD reads (R410); none for ITEM_BAD. -/
def debugRead (w : Weave) (serial sel : Nat) : Option Nat :=
  let item := selItem sel
  let p := selPath sel
  let q := w.path? p
  match selClass sel with
  | 0x00 => if item < w.vregs.length && selLane sel < w.laneCount then some (w.seenLane serial item (selLane sel)).toNat else none
  | 0x01 => if item < w.scount then some (w.seenScalar serial item).toNat else none
  | 0x02 => if item < 15 && selLane sel < w.laneCount then some ((w.seenPred serial item).word (selLane sel / 32)).toNat else none
  | 0x03 => if item < 2 * w.acount then some (bits (w.areg (item / 2)).toNat (64 * (item % 2) + 63) (64 * (item % 2))) else none
  | 0x04 => (jambItem w item).map (fun c => uwrap 64 ((w.jambOf p c).lo (codeWidth c)))
  | 0x05 => (jambItem w item).map (fun c => uwrap 64 ((w.jambOf p c).hi (codeWidth c)))
  | 0x06 => if item < w.vregs.length then some (w.tag item).code else none
  | 0x07 => debugRefine q item
  | 0x08 => debugPath w serial q item
  | 0x09 => debugStack q item
  | 0x0A =>
    (match item with
      | 0 => some w.mode.toNat
      | 1 => some w.role
      | 2 => some w.rng.toNat
      | 3 => some (bit01 w.matrixAbort)
      | 8 => some (w.id.record % 2 ^ 64)
      | 9 => some w.id.inst
      | 10 => some w.id.gen
      | n => if 4 ≤ n && n ≤ 7 then some ((w.hoops[n - 4]?).getD 0 % 2 ^ 64) else none)
  | 0x0B =>
    let k := parkedOf q
    let detail := ((k.map (fun (x : Parked) => x.detail.toNat)).getD 0)
    (match item with
      | 0 => some (bits detail 31 0)
      | 1 => some (bits detail 63 32)
      | 2 => some (bits detail 95 64)
      | 3 => some ((k.map (fun (x : Parked) => causeCode x.cause)).getD 0)
      | 4 => some ((k.map (fun (x : Parked) => x.token)).getD 0)
      | _ => none)
  | _ => none

/-- What DBGWR writes (R410, R411); none for ITEM_BAD. A register value without a jamb takes TOP (R65). The reserved bits
of an array register ignore what is written (R6, R52); a CHK of 3 can be put there (log 65). -/
def debugWrite (w : Weave) (sel v : Nat) : Option Weave :=
  let item := selItem sel
  let p := selPath sel
  match selClass sel with
  | 0x00 =>
    if item < w.vregs.length && selLane sel < w.laneCount then
      some ((w.writeLanes item (LaneMask.ofLanes [selLane sel]) (fun _ => BitVec.ofNat 32 v)).resetJamb item .top)
    else none
  | 0x01 => if item < w.scount then some ((w.writeScalar item (BitVec.ofNat 64 v)).resetJamb (0x100 + item) .top) else none
  | 0x02 =>
    if item < 15 && selLane sel < w.laneCount then
      some (w.writePred item (BitVec.allOnes 1024) ((w.pred item).setWord (selLane sel / 32) (BitVec.ofNat 32 v)))
    else none
  | 0x03 =>
    if item < 2 * w.acount then
      some (w.writeAreg (item / 2) (BitVec.ofNat 128
        (withBits (withBits (w.areg (item / 2)).toNat (64 * (item % 2) + 63) (64 * (item % 2)) v) 127 121 0)))
    else none
  | 0x06 => if item < w.vregs.length then some (w.writeTag item (Tag.ofCode v)) else none
  | 0x08 =>
    if item = 0 then some (w.modifyPath p (fun q => { q with pc := BitVec.ofNat 72 (withBits q.pc.toNat 63 0 v), pastEnd := false }))
    else if item = 1 then some (w.modifyPath p (fun q => { q with pc := BitVec.ofNat 72 (withBits q.pc.toNat 71 64 v), pastEnd := false }))
    else if 7 ≤ item && item < 39 then
      some (w.modifyPath p (fun q =>
        if item - 7 < w.groups then { q with mask := q.mask.setWord (item - 7) (BitVec.ofNat 32 v) } else q))
    else none
  | 0x0A =>
    (match item with
      | 0 => some (w.writeSpecial 0x146 v)
      | 1 => some { w with role := v % 4 }
      | 2 => some (w.writeSpecial 0x145 v)
      | _ => none)
  | _ => none

/-- The jamb that DBGWR.J writes, of the register a selector names by value (classes 0 and 1) or by jamb (4 and 5). -/
def debugJambCode (w : Weave) (sel : Nat) : Option Nat :=
  let item := selItem sel
  match selClass sel with
  | 0x00 => if item < w.vregs.length then some item else none
  | 0x01 => if item < w.scount then some (0x100 + item) else none
  | 0x04 | 0x05 => jambItem w item
  | _ => none

/-- The checks that DBGRD and DBGWR share: reserved bits, then the target. -/
def Env.withTarget (e : Env) (k : Nat → Weave → Effect) : Effect :=
  let sel := e.scalar e.f.yOp
  if bits sel 62 48 != 0 then debugTrap 5
  else match e.s.debugTarget e.a.core sel with
    | none => debugTrap 3
    | some w => k sel w

def dbgrdForm : Form :=
  { jambs := fun e => dstJamb e.f.xOp .top
    body := fun e => e.withTarget (fun sel w =>
      match debugRead w e.serial sel, e.f.xOp with
      | some v, .sreg n => .done (e.put e.s (e.owe e.w none .result [.sreg n (BitVec.ofNat 64 v)]))
      | _, _ => debugTrap 5) }

def execDbgrd (f : Fields) (s : State) : Host.Outcome State Fault Refusal := issue (.dbgrd f) dbgrdForm s

/-- The jamb that sl and sl + 1 give. -/
def Env.debugJamb (e : Env) : Int × Int :=
  match e.f.wOp with
  | .sreg n => (signed 64 (e.sreg n).toNat, signed 64 (e.sreg (n + 1)).toNat)
  | _ => (0, 0)

def dbgwrForm : Form :=
  { body := fun e => e.withTarget (fun sel w =>
      let v := e.scalar e.f.zOp
      if e.f.modN = 1 then
        match debugJambCode w sel with
        | none => debugTrap 5
        | some c =>
          let (lo, hi) := e.debugJamb
          if hi < lo then debugTrap 4
          else
            let w := if selClass sel ≤ 1 then (debugWrite w sel v).getD w else w
            .done (e.s.putTarget e.a.core sel (w.resetJamb c (Jamb.mk (codeWidth c) lo hi)))
      else match debugWrite w sel v with
        | none => debugTrap 5
        | some w => .done (e.s.putTarget e.a.core sel w)) }

def execDbgwr (f : Fields) (s : State) : Host.Outcome State Fault Refusal := issue (.dbgwr f) dbgwrForm s

/-! ### HALT (R344) -/

/-- A stop, an interrupt or a Latch request is pending. -/
def Core.pendingForHinge (k : Core) : Bool := !k.stops.isEmpty || k.hinge.icause != 0

def haltForm : Form :=
  { body := fun e =>
      if (e.s.core e.a.core).pendingForHinge then .done e.s
      else .done (e.s.modifyHinge e.a.core (fun h => { h with stopped := true })) }

def execHalt (f : Fields) (s : State) : Host.Outcome State Fault Refusal := issue (.halt f) haltForm s

end Sys2Proof.Machine
end

