-- ==== Sys2Proof/Machine/Progress.lean ====
section
/-! DEFINITION. Events within a core: completions (R203), merges (R17), starvation (R34), deadlines (R305, R382), engine
faults (R155), time slices and halts (R412, R464), unbound ports (R308), and write-backs that hardware makes of its own
accord (R81, R98). -/

namespace Sys2Proof.Machine

/-- Cycles of a microsecond of sr_tick (R4). -/
def cyclesPerMicro : Nat := 2100

/-- Time moves on to a deadline. -/
def State.reachTick (s : State) (t : Nat) : State := { s with tick := max s.tick t }

/-! ### OPERATION_COMPLETE -/

/-- Accesses that an invalidation's acknowledgement waits for are still to be performed (R342, log 22). -/
def State.accessesLeft (s : State) (requests works : List Nat) : Bool :=
  s.requests.any (fun r => requests.contains r.id)
    || s.cores.any (fun x => x.2.channels.any (fun ch => ch.2.any (fun o => works.contains o.op))
      || x.2.matrix.any (fun m => works.contains m.op))

/-- Requests of an operation that are still outstanding. -/
def State.requested (s : State) (w : Weave) (op : Nat) : Bool := s.requests.any (fun r => r.op == op && r.weave == w.id)

/-- The completion of an outstanding operation, when it can complete. -/
def State.operationComplete (s : State) (c slot op : Nat) : State :=
  match s.weave? c slot with
  | none => s
  | some w =>
    match w.ops.find? (fun o => o.id == op) with
    | none => s
    | some o =>
      match o.kind with
      | .matrix => s.completeMatrix c slot op
      | .copy ch => s.completeCopy c slot ch op
      | .shutter | .park => s
      | .invalidate requests works =>
        if s.accessesLeft requests works then s else s.setWeave c slot (w.completeOp op)
      | .result | .store | .writeBack | .remote =>
        if s.requested w op then s else s.setWeave c slot (w.completeOp op)

def execOperationComplete (core slot op : Nat) (s : State) : Host.Outcome State Fault Refusal :=
  .next (if (s.core core).frozen then s else s.operationComplete core slot op)

/-! ### PATH_MERGE -/

/-- The paths bearing a SPLIT entry merge (R17): a safe point when one path is left (R355). -/
def State.mergePaths (s : State) (c slot serial : Nat) : State :=
  match s.weave? c slot with
  | some w =>
    if w.mayMerge serial then
      (s.setWeave c slot (w.mergeAt serial)).enterCode (actorOf c slot (((w.arrivals serial).head?).getD 0))
    else s
  | none => s

def execPathMerge (core slot serial : Nat) (s : State) : Host.Outcome State Fault Refusal :=
  .next (s.mergePaths core slot serial)

/-! ### Deadlines and rotation -/

/-- The deadline of a SLEEP reached. -/
def State.endSleep (s : State) (a : Actor) : State :=
  match (s.path? a).map (fun (q : Path) => q.cond) with
  | some (.blocked (.sleep d _)) => (s.reachTick d).modifyPath a Path.wake
  | _ => s

def execSleepDeadline (core slot path : Nat) (s : State) : Host.Outcome State Fault Refusal :=
  .next (s.endSleep (actorOf core slot path))

/-- Whether a path has been ready for 128 cycles without issuing (R34). -/
def State.starves (s : State) (q : Path) : Bool := q.cond == .ready && q.readySince + 128 ≤ s.tick

def execIssueStarvationPromote (core slot path : Nat) (s : State) : Host.Outcome State Fault Refusal :=
  .next (s.modifyPath (actorOf core slot path) (fun q => if s.starves q then { q with promoted := true } else q))

/-- When the walk that a path's access waits for has waited 64 µs (R382). -/
def State.walkDeadline (s : State) (c ctx : Nat) (q : Path) : Option Nat :=
  match q.cond with
  | .blocked (.stall 3) | .blocked (.stall 10) | .blocked (.stall 13) | .blocked (.batches ..) =>
    (s.walks.find? (fun x => x.core == c && x.ctx == ctx)).map (fun x => x.since + walkLimit)
  | _ => none

/-- 64 µs of waiting for a node have passed: the walk fails when the access next asks (R382). -/
def execTableWalkBusyTimeout (core slot path : Nat) (s : State) : Host.Outcome State Fault Refusal :=
  let a := actorOf core slot path
  .next (match s.weave? core slot, s.path? a with
    | some w, some q => ((s.walkDeadline core w.id.ctx q).map s.reachTick).getD s
    | _, _ => s)

/-! ### MATRIX_FAULT_DELIVERY (R155) -/

/-- The path that takes an engine's fault: the issuing path, or the one it merged into, while it lives; else the lowest
live one. -/
def Weave.faultPath (w : Weave) (f : MatrixFault) : Option Nat :=
  if (w.path? f.path).isSome then some f.path else w.livePaths.head?

/-- At an instruction boundary: about to issue, or waiting to issue again. -/
def Path.atBoundary (q : Path) : Bool :=
  match q.cond with
  | .ready | .blocked (.stall _) | .blocked (.waitc ..) | .blocked (.qpop ..) | .blocked (.kvld _) => true
  | _ => false

/-- An engine's fault can be delivered: its path has come to a boundary, or no path of the weave is left. -/
def Weave.faultReady (w : Weave) (f : MatrixFault) : Bool :=
  match w.faultPath f with
  | none => true
  | some i => (w.path? i).any Path.atBoundary

/-- The oldest engine fault of a weave that can be delivered, and the others. -/
def Weave.nextFault (w : Weave) : Option (MatrixFault × List MatrixFault) :=
  (w.matrixFaults.find? w.faultReady).map (fun f => (f, w.matrixFaults.erase f))

/-- An engine fault of a weave delivered. -/
def State.deliverFault (s : State) (c slot : Nat) : State :=
  match s.weave? c slot with
  | none => s
  | some w =>
    match w.nextFault with
    | none => s
    | some (f, rest) =>
      let taken := s.setWeave c slot { w with matrixFaults := rest }
      match w.faultPath f with
      | none =>
        let taken := if f.cause.group = 20 then taken.recordHardware f.cause c else taken
        taken.modifyCore c (fun k => k.stick f.cause)
      | some i =>
        let a := actorOf c slot i
        taken.takeStop a f.cause f.detail
          { kind := 0, next := s.nextOf a, resumesNext := false, captured := none } [] none true

def execMatrixFaultDelivery (core slot : Nat) (s : State) : Host.Outcome State Fault Refusal :=
  .next (s.deliverFault core slot)

/-! ### Time slices and halts (R412, R464) -/

/-- SLICE_EXPIRED: raised on the lowest path about to issue, once no path of the weave is HALTED; the path stops whole
and goes on where it was (log 23). A new slice begins. -/
def State.expireSlice (s : State) (c slot : Nat) : State :=
  match s.weave? c slot with
  | none => s
  | some w =>
    let conds := w.livePaths.filterMap (fun i => (w.path? i).map (fun (q : Path) => (i, q)))
    let halted := conds.any (fun x => match x.2.cond with
      | .halted _ => true
      | _ => false)
    match conds.find? (fun x => x.2.cond == .ready) with
    | some (i, q) =>
      if !w.slicePending || halted then s
      else
        let s := s.setWeave c slot { w with slicePending := false, sliceLeft := (s.core c).hinge.slice.toNat }
        s.takeStop (actorOf c slot i) (cause 17 0) (BitVec.ofNat 96 (s.tick % 2 ^ 63))
          { kind := 0, next := q.pc, resumesNext := true, captured := none } [] none true
    | none => s

def execSliceExpired (core slot : Nat) (s : State) : Host.Outcome State Fault Refusal := .next (s.expireSlice core slot)

/-- A halt asked for: the path halts before its next issue. Ignored without DBGEN. -/
def execHaltreq (core slot path : Nat) (s : State) : Host.Outcome State Fault Refusal :=
  .next (match s.weave? core slot with
    | some w =>
      if s.debugEnabled w.id.ctx then
        s.setWeave core slot (w.modifyPath path (fun q => { q with haltRequest := true }))
      else s
    | none => s)

/-! ### QUEUE_PORT_UNBIND (R308) -/

/-- The paths of a weave that wait to pop from a port trap with PORT_UNBOUND. -/
def State.unbindPort (s : State) (c slot port : Nat) : State :=
  match s.weave? c slot with
  | none => s
  | some w =>
    w.livePaths.foldl (fun s i =>
      match (w.path? i).map (fun (q : Path) => q.cond) with
      | some (.blocked (.qpop p n)) =>
        if p = port then
          s.trapPath (actorOf c slot i) (cause 10 0) (BitVec.ofNat 96 (port % 16 + n % 2 ^ 32 * 2 ^ 16))
            (s.nextOf (actorOf c slot i))
        else s
      | _ => s) s

/-- Paths blocked at a QPUSH issue again and find the port unbound. -/
def execQueuePortUnbind (ctx port : Nat) (s : State) : Host.Outcome State Fault Refusal :=
  let entry := s.portEntry ctx port
  let s := if entry = 0 || bits entry 127 72 != 0 then
      s.cores.foldl (fun s (c, k) => k.slots.foldl (fun s (slot, w) =>
        if w.id.ctx = ctx && slot != hingeSlot then s.unbindPort c slot port else s) s) s
    else s
  .next s

/-! ### Write-backs of hardware's own accord (R81, R83, R98) -/

/-- A DIRTY stash sector written back; one that faults stays DIRTY and nothing is reported. -/
def execStashWritebackAuto (core slot window sector : Nat) (s : State) : Host.Outcome State Fault Refusal :=
  .next (match s.weave? core slot with
    | none => s
    | some w =>
      match w.sector? window sector with
      | none => s
      | some x =>
        if x.written = 0 || (s.core core).frozen then s
        else match writeBackSector s (actorOf core slot 0) s.serial 0 x with
          | .ok s _ => s
          | _ => s)

/-- A line's clean copies in a core's L1 and its die's slice leave them, or stay: both are open (log 7). -/
def State.dropLine (s : State) (c line : Nat) : State :=
  if Config.lineDropped s.turn line then
    (s.modifyCore c (fun k => { k with l1 := Table.erase k.l1 line })).modifyDie (dieOf c) (fun d =>
      { d with l2 := Table.erase d.l2 line })
  else s

/-- A line of the core's L1 written, where it is dirty, to its die's slice, and from there home. -/
def execCacheLineWriteBack (core line : Nat) (s : State) : Host.Outcome State Fault Refusal :=
  .next (if (s.core core).frozen then s
    else ((s.flushL1Line core line).flushL2Line (dieOf core) line).dropLine core line)

end Sys2Proof.Machine
end

