-- ==== Sys2Proof/Machine/Reply.lean ====
section
/-! DEFINITION. Replies to remote requests (R303, R421, R431, R438, R442): what they deliver to a weave, where a
failure stops it, and where a reply goes when its weave is away. -/

namespace Sys2Proof.Machine

/-! ### Delivery -/

/-- The writes that a lane's data make. -/
def laneWrites (k reg : Nat) (scalar isSigned : Bool) (size : Nat) (bytes : List Byte) : List PendingWrite :=
  if scalar then [.sreg reg (BitVec.ofNat 64 (extendTo64 isSigned size (ofBytes bytes)))]
  else (List.range (if size ≤ 4 then 1 else size / 4)).map (fun j =>
    .vreg (reg + j) (LaneMask.ofLanes [k])
      (List.replicate k 0 ++ [BitVec.ofNat 32 (loadedWord isSigned size bytes j)]))

/-- The writes that one datum makes for every lane of a mask. -/
def manyWrites (mask : LaneMask) (lanes reg : Nat) (isSigned : Bool) (size : Nat) (bytes : List Byte) : List PendingWrite :=
  (List.range (if size ≤ 4 then 1 else size / 4)).map (fun j =>
    .vreg (reg + j) mask (List.replicate lanes (BitVec.ofNat 32 (loadedWord isSigned size bytes j))))

/-- An operation with more owed writes; a scalar register's replaces the one that stood for it. -/
def Operation.oweMore (o : Operation) (ws : List PendingWrite) : Operation :=
  let isScalar := ws.any (fun x => match x with
    | .sreg .. => true
    | _ => false)
  { o with writes := (if isScalar then o.writes.filter (fun x => !ws.any (fun y => y.code == x.code)) else o.writes) ++ ws }

/-- A stash sector filled with fetched bytes (R79). -/
def Weave.fillFetched (w : Weave) (off : Nat) (bytes : List Byte) : Weave :=
  match w.windowAt off with
  | some (n, r) =>
    let ix := (off - winBase r) / 32
    if (w.sector? n ix).isSome then w else w.putSector n ix off bytes
  | none => w

/-- The data of a reply delivered within its weave. -/
def Weave.receive (w : Weave) (r : RemoteRequest) (bytes : List Byte) : Weave :=
  match r.dest with
  | .none | .copy _ | .matrix | .writeBack .. => w
  | .lane k reg scalar size isSigned =>
    { w with ops := w.ops.map (fun o =>
        if o.id = r.op then o.oweMore (laneWrites k reg scalar isSigned size bytes) else o) }
  | .lanes mask reg size isSigned =>
    { w with ops := w.ops.map (fun o =>
        if o.id = r.op then o.oweMore (manyWrites mask w.laneCount reg isSigned size bytes) else o) }
  | .spad off => w.fillFetched off bytes
  | .path key => w.modifyPath r.path (fun q => { q with fetched := q.fetched ++ [(key, bytes)] })

/-- A page of a matrix operation's source has arrived. -/
def MatrixWork.receive (va : Nat) (bytes : List Byte) : MatrixWork → MatrixWork
  | .load n perm sh row0 k0 t got => .load n perm sh row0 k0 t (got ++ [(va, bytes)])
  | .accLoad n sh row0 col0 t got => .accLoad n sh row0 col0 t (got ++ [(va, bytes)])
  | x => x

/-- The data of a reply delivered on a core. -/
def State.receive (s : State) (r : RemoteRequest) (bytes : List Byte) : State :=
  match r.dest with
  | .copy ch =>
    (match (s.core r.core).channel ch with
      | o :: _ =>
        if o.op = r.op && o.weave == r.weave then
          s.setHead r.core ch (some { o with arrived := o.arrived ++ [(r.va, bytes)] })
        else s
      | [] => s)
  | .matrix => s.modifyCore r.core (fun k => { k with matrix := k.matrix.map (fun m =>
      if m.op = r.op && m.weave == r.weave then { m with work := m.work.receive r.va bytes } else m) })
  | _ => s.modifyWeave r.core r.slot (fun w => w.receive r bytes)

/-! ### Failure (R442) -/

/-- KIND of R396 for a request. -/
def requestKind : RemoteOp → Nat
  | .load _ | .watch .. => 0
  | .store _ | .sector .. | .wake _ => 1
  | _ => 2

/-- The detail of a group 19 stop of a request. -/
def requestDetail (r : RemoteRequest) (index owner : Nat) : BitVec 96 :=
  failDetail index owner r.va (requestKind r.what) r.module r.port

/-- The path that holds a lane. -/
def Weave.holder (w : Weave) (lane : Nat) : Option Nat :=
  w.livePaths.find? (fun i => match w.path? i with
    | some q => q.mask.has lane
    | none => false)

/-- Lanes of a live path stopped on the instruction of a request that failed (R21). -/
def State.parkRequest (s : State) (a : Actor) (r : RemoteRequest) (c : Cause) (d : BitVec 96) (lanes : LaneMask) : State :=
  match s.weave? a.core a.slot, s.path? a with
  | some w, some q =>
    let site : FaultSite := { kind := requestKind r.what, next := r.next, resumesNext := false, captured := some r.captured }
    let back := fun (q : Path) => { q with pc := r.pc, pastEnd := false, captured := some r.captured, cond := .ready }
    if q.mask &&& ~~~lanes = 0 then
      (s.modifyPath a back).takeStop a c d site [] none r.whole
    else match w.freePath with
      | some i =>
        let np : Path := { back q with
          mask := lanes, counters := List.replicate 6 [], windows := [], haltRequest := false
          stepping := 0, replayMask := none }
        let w := (w.modifyPath a.path (fun q => { q with mask := q.mask &&& ~~~lanes })).putPath i (some np)
        (s.setWeave a.core a.slot w).takeStop { a with path := i } c d site [] none false
      | none => (s.modifyPath a back).takeStop a c d site [] (some lanes) false
  | _, _ => s

/-- A sector whose write-back did not arrive is DIRTY again. -/
def Weave.redirty (w : Weave) (n ix va : Nat) (mask : BitVec 32) : Weave :=
  match w.sector? n ix, w.windows[n]? with
  | some x, some r => if winGlobal r + 32 * ix = va then w.setSector { x with written := x.written ||| mask } else w
  | _, _ => w

/-- A write-back of the weave's own that faults: a record in the context's fault buffer, and the slot stays held until
its reply (R83). -/
def State.writeBackFault (s : State) (c slot : Nat) (w : Weave) (cs : Cause) (va : Nat) : State :=
  let (token, s) := s.freshToken
  let s := if cs.group = 20 then s.recordHardware cs c else s
  let s := s.faultRecord {
    va, lmask := 0, lgrp := 0, path := 0, wslot := slot, core := c, kind := 1, cause := cs, gen := s.ctxGen w.id.ctx
    ctx := w.id.ctx, token, last := true, whole := true, tick := s.tick }
  s.modifyWeave c slot (fun w => { w with writeBackToken := some token })

/-- A remote write-back that failed (R83): the instruction that waits for it stops, the eviction or end of the weave
records the fault, and one of hardware's own accord only leaves its sector DIRTY. -/
def State.failWriteBack (s : State) (r : RemoteRequest) (w : Weave) (n ix occasion : Nat) (c : Cause)
    (d : BitVec 96) : State :=
  let bytes := match r.what with
    | .sector m _ _ => m
    | _ => 0
  let s := s.modifyWeave r.core r.slot (fun w => w.redirty n ix r.va bytes)
  match occasion with
  | 0 => s
  | 1 =>
    let waits := match (w.path? r.path).map (fun (q : Path) => q.cond) with
      | some (.blocked (.stall _)) => true
      | _ => false
    if waits then s.noteFault (actorOf r.core r.slot r.path) r.op c d else s
  | _ => if w.writeBackToken.isSome then s else s.writeBackFault r.core r.slot w c r.va

/-- The path waits at HBAR for a hoop of another module: a look at it that fails is made again. -/
def Path.waitsAtHoop (q : Path) : Bool :=
  match q.cond with
  | .blocked (.hbar ..) => true
  | _ => false

/-- A request of a resident weave that failed. Engines and instructions that wait for the bytes stop their path at its
next boundary; a lane, or a path whose access is made once, stops on the instruction. -/
def State.failRequest (s : State) (r : RemoteRequest) (index owner : Nat) : State :=
  let c := cause 19 index
  let d := requestDetail r index owner
  let a := actorOf r.core r.slot r.path
  match s.weave? r.core r.slot with
  | none => s
  | some w =>
    let mask : LaneMask := match w.path? r.path with
      | some q => q.mask
      | none => 0
    let copyEnds := fun (ch : Nat) =>
      match (s.core r.core).channel ch with
      | o :: _ => if o.op = r.op && o.weave == r.weave then s.copyFails r.core ch o c d else s.noteFault a r.op c d
      | [] => s.noteFault a r.op c d
    let matrixEnds :=
      match (s.core r.core).matrix.find? (fun m => m.op == r.op && m.weave == r.weave) with
      | some m => s.matrixFails r.core m c d
      | none => s.noteFault a r.op c d
    match r.dest, (w.ops.find? (fun o => o.id == r.op)).map (fun (o : Operation) => o.kind) with
    | .writeBack n ix occasion, _ => s.failWriteBack r w n ix occasion c d
    | .copy ch, _ | _, some (.copy ch) => copyEnds ch
    | .matrix, _ | _, some .matrix => matrixEnds
    | .path _, _ => if (w.path? r.path).any Path.waitsAtHoop then s else s.noteFault a r.op c d
    | .spad off, _ =>
      s.modifyPath a (fun q => { q with
        fetched := q.fetched ++ [(fillKey off, fillFailure index owner r.module r.port)] })
    | _, _ =>
      let parkLanes := fun (s : State) (mask : LaneMask) =>
        w.livePaths.foldl (fun s i =>
          match s.path? { a with path := i } with
          | some q => if q.mask &&& mask = 0 then s
              else s.parkRequest { a with path := i } r c d (q.mask &&& mask)
          | none => s) s
      match r.dest with
      | .lanes m _ _ _ => parkLanes s m
      | _ =>
      match (if r.whole then (if mask = 0 then w.livePaths.head? else some r.path) else w.holder r.lane) with
      | none => s
      | some i =>
        let lanes := if r.whole then (match w.path? i with
            | some q => q.mask
            | none => 0) else LaneMask.ofLanes [r.lane]
        s.parkRequest { a with path := i } r c d lanes

/-! ### The end of a request -/

/-- A request leaves the table, and with it its core's counts (R431). -/
def State.finishRequest (s : State) (r : RemoteRequest) : State :=
  { s with requests := s.requests.filter (fun x => x.id != r.id) }

/-- A reply carried out in its weave. -/
def State.answer (s : State) (r : RemoteRequest) : FabricReply → State
  | .data bytes => s.receive r bytes
  | .failed index owner => s.failRequest r index owner

/-- A reply caught for a frozen core (R420, R421): kept in arrival order, and OUTSTANDING counts one less. -/
def State.catchReply (s : State) (d : Nat) (r : RemoteRequest) (reply : FabricReply) : State :=
  (s.modifyDie d (fun x => { x with
    latch := x.latch.map (fun l =>
      if l.source = r.core then { l with replies := l.replies ++ [{ request := r, reply }] } else l) })).countOutstanding d r.core

/-- A reply that reaches the module for one of its weaves: held for a weave that is away (R303), caught for a frozen core
(R421), or performed where the weave is resident. -/
def State.deliverReply (s : State) (r : RemoteRequest) (reply : FabricReply) : State :=
  let s := s.finishRequest r
  let k := s.core r.core
  if s.isSaved r.weave then
    { s with saved := s.saved.map (fun (n, x) =>
      if x.weave.id = r.weave then (n, { x with held := x.held ++ [.remote r reply] }) else (n, x)) }
  else if k.frozen then s.catchReply (dieOf r.core) r reply
  else if (Table.find? k.slots r.slot).map (fun w => w.id) == some r.weave then s.answer r reply
  else s

end Sys2Proof.Machine
end

