-- ==== Sys2Proof/Machine/Evict.lean ====
section
/-! DEFINITION. Soft eviction and the return of a saved weave (R187, R303, R413 to R418, R433). -/

namespace Sys2Proof.Machine

/-! ### What may be evicted (R309, R346, R413) -/

/-- Every operation counted on a dependence counter is a remote load (R303). -/
def State.countsRemoteLoads (s : State) (w : Weave) (ids : List Nat) : Bool :=
  ids.all (fun id =>
    (match (w.ops.find? (fun o => o.id == id)).map (fun (o : Operation) => o.kind) with
      | some .remote => true
      | _ => false) &&
    s.requests.all (fun r => !(r.op == id && r.weave == w.id) || (match r.what with
      | .load _ => true
      | _ => false)))

/-- BLOCKED at a blocking point. -/
def State.atBlockingPoint (s : State) (w : Weave) (q : Path) : Bool :=
  match q.cond with
  | .blocked (.bar _) | .blocked (.abwait ..) | .blocked (.hbar ..) | .blocked (.qpop ..) | .blocked (.kvld _)
  | .blocked (.park ..) => true
  | .blocked (.waitc c _) => s.countsRemoteLoads w ((q.counters[c]?).getD [])
  | _ => false

/-- A stop of a weave is in service. -/
def Core.inService (k : Core) (slot : Nat) (id : WeaveId) : Bool :=
  let mine := fun (e : Stop) => e.slot == slot && e.weave == id
  k.stops.any mine || k.lateStops.any mine || (k.hinge.serving.map mine).getD false

/-- Every live path may be saved, and one is at a blocking point. -/
def State.pathsAllow (s : State) (w : Weave) : Bool :=
  let live := w.livePaths.filterMap w.path?
  live.all (fun q => s.atBlockingPoint w q || q.isArrived || q.cond.isStopped) && live.any (s.atBlockingPoint w)

/-- The outcome of an eviction request (R413): 1 when it is accepted. -/
def State.judgeEviction (s : State) (c slot : Nat) : Nat :=
  let k := s.core c
  if k.frozen then 5
  else match s.weave? c slot with
    | none => 2
    | some w =>
      if k.inService slot w.id then 3
      else if w.ending || w.writeBackToken.isSome || !s.pathsAllow w then 2
      else if w.parking.isNone && (s.poolPlace w.id.ctx (saveSize k w)).isNone then 4
      else 1

def execEvictRequest (core slot : Nat) (s : State) : Host.Outcome State Fault Refusal :=
  let o := s.judgeEviction core slot
  let asked := if o = 1 then (s.weave? core slot).map (fun w => w.id) else none
  let s := s.modifyHinge core (fun h => { h with evict := BitVec.ofNat 64 o, evictFor := asked })
  .next (if o = 1 && slot < hingeSlot then s.modifyWeave core slot (fun w => { w with evicting := true }) else s)

/-! ### Wake conditions (R415) -/

/-- Bytes of another module as a path that waits, or the dispatcher for the weave saved under `key`, has last read them. -/
def State.seen (s : State) (key ctx : Nat) (q : Path) (va n : Nat) : Option Nat :=
  match s.glimpse key ctx va n with
  | some (.data b) => some (ofBytes b)
  | _ => (q.fetched.find? (fun x => x.1 == loadKey va n)).map (fun x => ofBytes x.2)

/-- TAIL − HEAD of the queue that a port of a context is bound to. -/
def State.portHeld (s : State) (key ctx : Nat) (q : Path) (port : Nat) : Option Nat :=
  match s.portPlace ctx port with
  | some pa => let (head, tail) := s.queueState pa; some (held head tail)
  | none => (s.seen key ctx q (s.portEntry ctx port % 2 ^ 72) 64).map (fun d => held (qHead d) (qTail d))

/-- What the Transom needs to read a map entry (R384). -/
def needMap : Need := { r := true, device := true }

/-- What the Transom last read of a park's map entry on another module. -/
def State.mapSeen (s : State) (key ctx va : Nat) : Option Nat :=
  match s.glimpse key ctx va 8 with
  | some (.data b) => some (ofBytes b)
  | some (.failed ..) => some 0
  | none => none

/-- The watch of a parked continuation has been written and its P pages are in (R190). -/
def State.parkMet (s : State) (e : ParkEntry) : Bool :=
  e.woken.isSome && e.promoting && s.kvReady e.ctx (e.entries.take e.p) needMap (s.mapSeen e.saved e.ctx)

/-- A reply for a token is held. -/
def tokenHeld (hs : List HeldReply) (token : Nat) : Bool :=
  token != 0 && hs.any (fun h => match h with
    | .fault t _ => t == token
    | .remote .. => false)

/-- The wake condition of one path of weave `w`, saved under `key`, is met (R415). A hoop or a queue of another module is
judged by the dispatcher's last look at it (log 67); a port unbound meanwhile lets its QPOP trap (R308). -/
def State.condMet (s : State) (w : Weave) (key : Nat) (hs : List HeldReply) (q : Path) : Bool :=
  match q.cond with
  | .blocked (.hbar va gen _ _) =>
    ((s.hoopAt w.id.ctx va) <|> (s.seen key w.id.ctx q va 64)).any (fun d => hoopGen d != gen)
  | .blocked (.qpop port n) =>
    portUnbound (s.portEntry w.id.ctx port) || (s.portHeld key w.id.ctx q port).any (fun m => n ≤ m)
  | .blocked (.waitc c n) => (((q.counters[c]?).getD []).filter (fun id => s.requested w id)).length ≤ n
  | .blocked (.kvld es) => s.kvReady w.id.ctx es needRead (fun va => s.seen key w.id.ctx q va 8)
  | .blocked (.park ..) => s.parks.any (fun e => e.saved == key && s.parkMet e)
  | .parked p => tokenHeld hs p.token
  | .halted h => tokenHeld hs h.token
  | _ => false

def State.anyMet (s : State) (w : Weave) (key : Nat) (hs : List HeldReply) : Bool :=
  (w.livePaths.filterMap w.path?).any (s.condMet w key hs)

/-- The addresses and lengths that the wake condition of a path looks at. -/
def State.waitedOn (s : State) (w : Weave) (q : Path) : List (Nat × Nat) :=
  match q.cond with
  | .blocked (.hbar va _ _ _) => [(va, 64)]
  | .blocked (.qpop port _) =>
    let entry := s.portEntry w.id.ctx port
    if portUnbound entry then [] else [(entry % 2 ^ 72, 64)]
  | .blocked (.kvld es) => es.map (fun va => (va, 8))
  | _ => []

/-- The dispatcher's looks at what the saved weaves wait for on other modules, made again at every other turn (R415, log
67). -/
def State.settleLooks (s : State) : State :=
  if s.turn % 2 = 0 then s
  else s.saved.foldl (fun s x =>
    if x.2.returned then s
    else
      let w := x.2.weave
      (((w.livePaths.filterMap w.path?).filter (fun q => !s.condMet w x.1 x.2.held q)).flatMap (s.waitedOn w)).foldl (fun s y =>
        match s.walk w.id.ctx y.1 with
        | .leaf e _ _ sub =>
          let l := Leaf.of e sub
          if l.tier != 3 then s
          else (s.endGlances (fun g => g.who == x.1 && g.va == y.1 && (match g.reply with
              | some (.data b) => g.n != 8 || !entryOver (s.withState w.id.ctx (ofBytes b))
              | _ => true))).glance x.1 (l.frame % 2 ^ 12) (bits l.frame 17 12)
            w.id.ctx y.1 y.2
        | _ => s) s) s

/-- Replies of a weave that are still on their way. -/
def State.repliesDue (s : State) (id : WeaveId) : Bool := s.requests.any (fun r => r.weave == id)

/-! ### The save (R64, R154, R170, R414, R417, R418) -/

/-- A matrix operation that the engine has begun. -/
def State.matrixStarted (s : State) (m : MatrixOp) : Bool :=
  (match m.work with
    | .load _ _ _ _ _ _ f => !f.isEmpty
    | .accLoad _ _ _ _ _ f => !f.isEmpty
    | .accStore _ _ _ _ _ n => n != 0
    | _ => false) || s.requests.any (fun r => r.op == m.op && r.weave == m.weave)

/-- Nothing is outstanding that an eviction waits for: only withdrawn matrix work, and the remote loads on which a path
waits at a WAITC. -/
def State.drained (s : State) (c : Nat) (w : Weave) : Bool :=
  let k := s.core c
  let waited := fun (id : Nat) => (w.livePaths.filterMap w.path?).any (fun q => match q.cond with
    | .blocked (.waitc n _) => ((q.counters[n]?).getD []).contains id && s.countsRemoteLoads w ((q.counters[n]?).getD [])
    | _ => false)
  w.ops.all (fun o => match o.kind with
    | .matrix => k.matrix.any (fun m => m.op == o.id && m.weave == w.id && !s.matrixStarted m)
    | .remote => waited o.id
    | _ => false)
  && s.requests.all (fun r => r.weave != w.id || (match r.what with
    | .load _ => waited r.op
    | _ => false))
  && k.channels.all (fun x => x.2.all (fun o => o.weave != w.id))
  && !(k.shutter.owner.holder == some w.id && k.shutter.state == .racing)

/-- The running task of a weave cut at a step boundary. -/
def State.cutTask (s : State) (c : Nat) (id : WeaveId) : State :=
  match (s.core c).running with
  | none => s
  | some r =>
    if r.mop.weave != id then s
    else
      let left := r.task.first + r.task.count - r.step
      let n := Config.cutStep s.serial % (left + 1)
      s.runTask c n r (fun cells => s.modifyCore c (fun k => { k with running := some { r with step := r.step + n, cells } }))

/-- The engine state of a weave. -/
def Core.saveEngines (k : Core) (id : WeaveId) : SavedEngines :=
  { operands := k.operands.filter (fun x => x.2.owner.holder == some id)
    perms := k.perms.filter (fun x => x.2.owner.holder == some id)
    tiles := k.tiles.filter (fun x => x.2.owner.holder == some id)
    matrix := k.matrix.filter (fun m => m.weave == id)
    cut := match k.running with
      | some r => if r.mop.weave = id then some r else none
      | none => none
    shutter := if k.shutter.owner.holder == some id then some k.shutter else none }

/-- A weave's engine resources freed, with their last owners kept, and its work withdrawn. -/
def Core.freeEngines (k : Core) (id : WeaveId) : Core :=
  let mine := (List.range 48).filter (fun i => (k.matrixOwner i).holder == some id)
  let k := mine.foldl Core.releaseResource k
  { k with
    matrix := k.matrix.filter (fun m => m.weave != id)
    running := match k.running with
      | some r => if r.mop.weave = id then none else some r
      | none => none
    shutter := if k.shutter.owner.holder == some id then k.shutter.free else k.shutter }

/-- A wake entry of a save record: kind, path, counter or port, n, address (R418). -/
def wakeEntry (kind path port n addr : Nat) : Nat :=
  kind + path % 8 * 2 ^ 4 + port % 64 * 2 ^ 7 + n % 2 ^ 32 * 2 ^ 13 + addr % 2 ^ 72 * 2 ^ 184

/-- The wake entry of a path. -/
def pathEntry (i : Nat) (q : Path) : Option Nat :=
  match q.cond with
  | .blocked (.abwait off gen _) => some (wakeEntry 0 i 0 gen off)
  | .blocked (.bar _) => some (wakeEntry 0 i 0 0 0)
  | .blocked (.hbar va gen _ _) => some (wakeEntry 1 i 0 gen va)
  | .blocked (.qpop port n) => some (wakeEntry 2 i port n 0)
  | .blocked (.waitc c n) => some (wakeEntry 3 i c n 0)
  | .blocked (.kvld es) => some (wakeEntry 4 i 0 es.length (es.headD 0))
  | .blocked (.park rec _) => some (wakeEntry 5 i 0 0 rec)
  | .parked p => some (wakeEntry 6 i 0 p.token 0)
  | .halted h => some (wakeEntry 7 i 0 h.token 0)
  | _ => none

/-- The save record written: its header, its wake entries, and the rest, whose arrangement is not architectural. -/
def State.writeSaveRecord (s : State) (key : Nat) (x : Saved) : State :=
  let w := x.weave
  let entries := w.livePaths.filterMap (fun i => (w.path? i).bind (pathEntry i))
  let header := w.id.record % 2 ^ 72 * 2 ^ 440 + w.id.inst % 2 ^ 24 * 2 ^ 416 + x.gen % 2 ^ 16 * 2 ^ 400
    + w.id.ctx % 64 * 2 ^ 394 + entries.length % 16 * 2 ^ 390 + x.size % 2 ^ 32 * 2 ^ 352 + x.tick % 2 ^ 64 * 2 ^ 288
  let base := x.pool * 4096
  let s := s.writeHomeNat base 64 header
  let s := s.writeHome (base + 64) ((entries ++ List.replicate (8 - entries.length) 0).flatMap (toBytes 32))
  s.writeHome (base + 320) ((List.range (x.size * 4096 - 320)).map (fun i => Config.saveByte key (320 + i)))

/-- An eviction that ends with the weave resident, with an outcome code. -/
def State.abandonEviction (s : State) (c slot code : Nat) : State :=
  let s := match s.weave? c slot with
    | some w => s.evictionOver c w.id code
    | none => s
  s.modifyWeave c slot (fun w => { w with evicting := false })

/-- Steps 5 and 6 of R414: the weave saved under `key` at a place of its pool, and everything it held freed. -/
def State.saveWeave (s : State) (c slot : Nat) (w : Weave) (pool size : Nat) : State :=
  let k := s.core c
  let isPark := w.parking.isSome
  let (key, s) := match w.parking with
    | some (id, _) => (id, s)
    | none => (s.serial, { s with serial := s.serial + 1 })
  let x : Saved := {
    weave := w, engines := k.saveEngines w.id, gen := s.ctxGen w.id.ctx, tick := s.tick, pool, size, held := []
    returned := false }
  let s := s.traceWeave c slot (if isPark then kindPark else kindEvict) w
  let s := s.writeSaveRecord key x
  let s := { s with
    saved := Table.set s.saved key x
    parks := s.parks.map (fun (e : ParkEntry) => if e.saved = key then { e with since := s.tick, core := c, slot } else e) }
  let s := (s.modifyCore c (fun k => { k.freeEngines w.id with slots := Table.erase k.slots slot })).settleMatrix c
  (s.countPool w.id.ctx).evictionOver c w.id 0

/-- EVICTION_COMPLETE: steps 2 to 6 of R414, for an eviction or a PARK, once the weave is drained. A path that has gone on
from its wait meanwhile ends the eviction as a condition met does. -/
def State.completeEviction (s : State) (c slot : Nat) : State :=
  match s.weave? c slot with
  | none => s
  | some w =>
    if !w.evicting || (s.core c).frozen || w.writeBackToken.isSome || !s.drained c w then s
    else if w.parking.isNone && (!s.pathsAllow w || s.anyMet w 0 []) then s.abandonEviction c slot 0
    else
      let s := s.cutTask c w.id
      match writeBackAll s (actorOf c slot 0) s.serial 2 (fun _ => true) with
      | .wait s => s
      | .nowhere _ => s
      | .fault s cs va _ =>
        if cs = tierWait then s
        else
          let s := s.writeBackFault c slot w cs va
          if w.parking.isSome then s else s.abandonEviction c slot 0
      | .ok s _ =>
        let s := s.release c scopeMd
        match s.weave? c slot with
        | none => s
        | some w =>
          if !s.drained c w then s
          else
            let size := saveSize (s.core c) w
            match s.poolPlace w.id.ctx size with
            | some pool => s.saveWeave c slot w pool size
            | none => if w.parking.isSome then s.poolWait w.id.ctx else s.abandonEviction c slot 4

def execEvictionComplete (core slot : Nat) (s : State) : Host.Outcome State Fault Refusal :=
  .next (s.completeEviction core slot)

/-! ### Back to the queue (R413, R415, R433) -/

/-- The queue of a live record. -/
def State.recordQueue (s : State) (ctx record : Nat) : Nat :=
  match s.live.find? (fun l => l.ctx == ctx && l.record == record) with
  | some l => l.queue
  | none => 0

/-- An item put at the tail of a queue. -/
def State.requeue (s : State) (queue : Nat) (item : QueueItem) : State :=
  { s with returned := s.returned ++ [{ queue, position := queueTail s queue, item }] }

/-- A saved weave returned to its queue, once. -/
def State.toQueue (s : State) (key : Nat) : State :=
  match List.find? (fun (x : Nat × Saved) => x.1 == key) s.saved with
  | none => s
  | some (_, x) =>
    if x.returned then s
    else
      { s.requeue (s.recordQueue x.weave.id.ctx x.weave.id.record) (.saved key) with
        saved := Table.set s.saved key { x with returned := true } }

def execWeaveWakeReturn (saved : Nat) (s : State) : Host.Outcome State Fault Refusal :=
  .next (match List.find? (fun (x : Nat × Saved) => x.1 == saved) s.saved with
    | none => s
    | some (key, x) =>
      if s.anyMet x.weave key x.held && !s.repliesDue x.weave.id then s.toQueue key else s)

/-- A weave at TSAVE goes back whatever it waits for; a parked one without a wake write has no wake value. -/
def execEvictReturn (core : Nat) (s : State) : Host.Outcome State Fault Refusal :=
  let s := s.modifyHinge core (fun h => { h with evict := 0, evictFor := none })
  .next (match s.savedAt (s.core core).hinge.tsave.toNat with
    | none => s
    | some (key, _) =>
      let s := { s with parks := s.parks.map (fun (e : ParkEntry) =>
        if e.saved = key && e.woken.isNone then { e with armed := false, woken := some (Config.wakeValue key) } else e) }
      s.toQueue key)

/-- Whether a path waits at ABWAIT or BAR. -/
def Path.waitsInside (q : Path) : Bool :=
  match q.cond with
  | .blocked (.abwait ..) | .blocked (.bar _) => true
  | _ => false

def execRetall (ctx : Nat) (s : State) : Host.Outcome State Fault Refusal :=
  .next (s.saved.foldl (fun s (key, x) =>
    if x.weave.id.ctx = ctx && (x.weave.livePaths.filterMap x.weave.path?).any Path.waitsInside then s.toQueue key
    else s) s)

/-! ### Replies to parked paths (R340, R397) -/

/-- The path of a weave that a token names. -/
def Weave.tokenPath (w : Weave) (token : Nat) : Option Nat :=
  if token = 0 then none
  else w.livePaths.find? (fun i => match (w.path? i).map (fun (q : Path) => q.cond) with
    | some (.parked p) => p.token == token
    | some (.halted h) => h.token == token || (h.parked.map (fun p => p.token == token)).getD false
    | _ => false)

/-- The stop of a path that a token stands for (R397): its cause, its detail, whether it stopped whole, and whether the
fault ring alone has had it. A HALTED path may hold a fault under a token of its own. -/
def Cond.stopOf (token : Nat) : Cond → Option (Cause × BitVec 96 × Bool × Bool)
  | .parked p => some (p.cause, p.detail, p.whole, p.cause.toRing && !p.raised)
  | .halted h =>
    match h.parked with
    | some p =>
      if h.token = token then some (h.cause, h.detail, true, false)
      else some (p.cause, p.detail, p.whole, p.cause.toRing && !p.raised)
    | none => some (h.cause, h.detail, true, false)
  | _ => none

/-- The fault of a path has been raised at its hinge core. -/
def Path.markRaised (q : Path) (token : Nat) : Path :=
  match q.cond with
  | .parked p => { q with cond := .parked { p with raised := true } }
  | .halted h =>
    if h.token = token then q
    else { q with cond := .halted { h with parked := h.parked.map (fun p => { p with raised := true }) } }
  | _ => q

/-- A token of a path is outstanding no more; a HALTED one that holds a fault may have two. -/
def Path.dropToken (q : Path) (token : Nat) : Path :=
  let without := fun (n : Nat) => if n = token then 0 else n
  match q.cond with
  | .parked p => { q with cond := .parked { p with token := without p.token } }
  | .halted h => { q with cond := .halted { h with
      token := without h.token, parked := h.parked.map (fun p => { p with token := without p.token }) } }
  | _ => q

/-- RAISE: the stop of a path goes to its core's hinge core. -/
def State.raisePath (s : State) (a : Actor) (token : Nat) : State :=
  match s.weave? a.core a.slot, s.path? a with
  | some w, some q =>
    (match q.cond.stopOf token with
      | none => s
      | some (c, d, whole, _) =>
        let (g, lanes) := LaneMask.lowGroup (q.replayMask.getD q.mask)
        (s.modifyPath a (fun q => (q.markRaised token).dropToken token)).raiseStop a.core {
          slot := a.slot, path := a.path, weave := w.id, cause := c, detail := d, token, lgrp := g, lanes
          whole, pf := c.group = 16 && bitAt d.toNat 8, pc := q.pc })
  | _, _ => s

/-- A reply applied to a resident weave: its path's stop ends, or is raised. A RETRY of a fault that the ring alone has had
leaves the matrix-abort bit alone; every other end of a stop clears it. A write-back's token is only cleared: the
write-back is made again (R83), and END ends the weave first. -/
def State.replyTo (s : State) (c slot token disp : Nat) : State :=
  match s.weave? c slot with
  | none => s
  | some w =>
    if w.writeBackToken = some token then
      let s := s.setWeave c slot { w with writeBackToken := none }
      if disp = 3 && !w.ending then s.endWeave c slot else s
    else match w.tokenPath token with
      | none => s
      | some i =>
        let a := actorOf c slot i
        let heldPark := match (w.path? i).map (fun (q : Path) => q.cond) with
          | some (.halted h) => h.token != token
          | _ => false
        let ring := match ((s.path? a).map (fun (q : Path) => q.cond)).bind (Cond.stopOf token) with
          | some (_, _, _, only) => only
          | none => false
        let cleared := if ring && disp = 0 then s else s.clearAbort c slot
        if disp = 4 then s.raisePath a token
        else if heldPark && disp ≤ 1 then cleared.modifyPath a (fun q => q.unparkHalted disp)
        else
          let taken := cleared.modifyPath a (fun q => q.dropToken token)
          ((if disp = 3 then taken.endWeave c slot else taken.modifyWeave c slot (fun w => w.returnPath i disp 0)).traceResume
            s a).releaseSlice c slot

/-! ### The return (R416) -/

/-- The matrix queue of a returning weave: the cut task first, from the step it had reached, and the withdrawn operations
in their order, whose pages are translated again (R154). -/
def SavedEngines.queue (x : SavedEngines) (slot : Nat) : List MatrixOp :=
  let withdrawn := fun (l : List MatrixOp) => l.map (fun m => { m with slot, placed := false })
  match x.cut with
  | none => withdrawn x.matrix
  | some r =>
    let rest : TileTask :=
      { r.task with first := r.step, count := r.task.first + r.task.count - r.step, record := none, cut := true }
    { r.mop with slot, work := .task rest } :: withdrawn (x.matrix.filter (fun m => m.op != r.mop.op))

/-- The saved engine state written back to a core. -/
def Core.restoreEngines (k : Core) (x : SavedEngines) (id : WeaveId) (slot : Nat) : Core :=
  let owner : Owner := { holder := some id, last := some id }
  let k := x.operands.foldl (fun k (n, o) => k.setOperand n { o with owner }) k
  let k := x.perms.foldl (fun k (n, o) => k.setPerm n { o with owner }) k
  let k := x.tiles.foldl (fun k (n, o) => k.setTile n { o with owner }) k
  let k := match x.cut with
    | some r => k.setTile r.task.tile { k.tile r.task.tile with rows := r.cells }
    | none => k
  { k with
    matrix := k.matrix ++ x.queue slot
    shutter := match x.shutter with
      | some h => { h with owner }
      | none => k.shutter }

/-- PARK's resumption (R187): pd is true in the active lanes and s[WREG] holds the wake value. -/
def Weave.unpark (w : Weave) (e : ParkEntry) : Weave :=
  match w.livePaths.head? with
  | none => w
  | some i =>
    match w.path? i with
    | none => w
    | some q =>
      let w := (w.ops.filter (fun o => o.kind == .park)).foldl (fun w o => w.completeOp o.id) w
      let w := w.writePred e.pd q.mask q.mask
      let w := (w.writeScalar e.wreg (e.woken.getD 0)).resetJamb (0x100 + e.wreg) .top
      w.modifyPath i Path.wake

/-- A saved weave resident again in a slot: restored, given its held replies, acquired; its save record is freed. -/
def State.returnWeave (s : State) (key : Nat) (x : Saved) (c slot : Nat) : State :=
  let id := x.weave.id
  let s := { s with
    saved := Table.erase s.saved key
    glances := s.glances.filter (fun g => g.who != key)
    returned := s.returned.filter (fun (r : Returned) => r.item != QueueItem.saved key) }
  let s := s.setWeave c slot { x.weave with evicting := false, parking := none }
  let s := s.modifyCore c (fun k => k.restoreEngines x.engines id slot)
  let s := s.countPool id.ctx
  let s := x.held.foldl (fun s h => match h with
    | .fault token disp => s.replyTo c slot token disp
    | .remote r reply => s.answer { r with core := c, slot } reply) s
  let s := s.acquire c scopeMd
  let s := match List.find? (fun (e : ParkEntry) => e.saved == key) s.parks with
    | some e => { s.modifyWeave c slot (fun w => w.unpark e) with parks := s.parks.filter (fun (y : ParkEntry) => y.saved != key) }
    | none => s
  match s.weave? c slot with
  | some w => s.traceWeave c slot kindReturn w
  | none => s

/-- REMOTE_REPLY_HELD: a reply for a weave that is away. -/
def execRemoteReplyHeld (request : Nat) (reply : FabricReply) (s : State) : Host.Outcome State Fault Refusal :=
  .next (match s.requests.find? (fun r => r.id == request) with
    | none => s
    | some r =>
      if s.saved.any (fun x => x.2.weave.id == r.weave) then s.deliverReply r reply else s)

end Sys2Proof.Machine
end

