-- ==== Sys2Proof/Machine/Grid.lean ====
section
/-! DEFINITION. The dispatcher: continuation queues (R428, R429), the choice of the next instance (R430), the start of a
weave (R12), its end (R19), and the retirement of records (R29 to R32, R432). -/

namespace Sys2Proof.Machine

/-! ### Records as the dispatcher reads them -/

/-- The pseudo-slot of requests that the dispatcher itself sends. -/
def dispatcherSlot : Nat := 65

/-- A record's bytes: where they lie, or that they must wait, or why they cannot be read. A record on a remote page
cannot be read (log 32). -/
inductive RecordRead where
  | at (pa : Nat)
  | wait
  | bad (c : Cause)
deriving DecidableEq, Repr

def State.findRecord (s : State) (ctx va : Nat) : State × RecordRead :=
  match s.agentRead 0 ctx va needRead with
  | (s, .phys pa) => (s, .at pa)
  | (s, .fault c _) => (s, if c = tierWait then .wait else .bad c)
  | (s, .busy) => (s, .wait)
  | (s, .remote _ _) => (s, .bad (cause 19 4))
  | (s, .nowhere _) => (s, .wait)

/-- The address of a record whose page is mapped on this module. -/
def State.recordPa (s : State) (ctx va : Nat) : Option Nat :=
  match s.walk ctx va with
  | .leaf e _ size sub =>
    let l := Leaf.of e sub
    if 2 ≤ l.tier then none else some (l.pa sub size va)
  | _ => none

/-- The place of a record for the dispatcher, which walks to it: a node that is being moved keeps it waiting, for 64 µs at most
before it walks again (R382, log 77). -/
def State.recordAt (s : State) (ctx va : Nat) : State × Option Nat :=
  match s.walk ctx va with
  | .busy node => ((s.walkBusy (agentOf 0) ctx va node).1, none)
  | _ => (s.walkOver (agentOf 0) ctx va, s.recordPa ctx va)

/-- The place of a record, whether or not a walk can go there now. -/
def State.recordLies (s : State) (ctx va : Nat) : Option Nat :=
  match walkThrough s va levelShifts (s.ctxRoot ctx) with
  | .leaf e _ size sub =>
    let l := Leaf.of e sub
    if 2 ≤ l.tier then none else some (l.pa sub size va)
  | _ => none

/-- The bytes that hold NEXT and DONE, rewritten. -/
def State.writeCounts (s : State) (pa r : Nat) : State := s.writeHome (pa + 51) (((toBytes 64 r).drop 51).take 7)

/-! ### The head of a queue (R429) -/

/-- The head of a queue: nothing that can be dispatched yet, a saved weave, or a record with its place and content. -/
inductive Head where
  | nothing
  | saved (key : Nat) (x : Saved)
  | record (ctx va pa r : Nat) (irq ofRing : Bool)
deriving DecidableEq, Repr

/-- The ring's head entry taken. -/
def State.takeEntry (s : State) (q : Nat) : State := s.setField (queueBlock q) 319 288 (queueHead s q + 1)

/-- The oldest item put back that comes before the ring's head. -/
def State.returnedHead (s : State) (q : Nat) : Option Returned :=
  s.returned.find? (fun x => x.queue == q && x.position == queueHead s q)

/-- An item put back that is taken. -/
def State.takeReturned (s : State) (x : Returned) : State :=
  { s with returned := s.returned.filter (fun y => !(y.queue == x.queue && y.item == x.item)) }

/-- The record at a queue's head judged: it is dispatched from, waits, or leaves the queue (`drop`). -/
def State.judgeRecord (s : State) (q ctx va : Nat) (irq ofRing : Bool) (drop : State → State) : State × Option Head :=
  match s.findRecord ctx va with
  | (s, .wait) => (s, some .nothing)
  | (s, .bad c) => (drop ((s.eventRecord ctx 6 c va 0).pagePoison c 0 4), none)
  | (s, .at pa) =>
    let s := s.touch pa
    let r := s.readHomeNat pa 64
    if recCtx r != ctx then (drop (s.eventRecord ctx 6 (cause 15 0) va 0), none)
    else if recNext r = 0 && recJoin r != 0 then
      (drop { s with waiting := s.waiting ++ [{ ctx, record := va, queue := q, irq }] }, none)
    else if recNext r = 0 && recReserved r then (drop (s.eventRecord ctx 6 (cause 15 0) va 0), none)
    else if recNext r = 0 && shapeUnfit r then (drop (s.eventRecord ctx 6 (cause 15 1) va 0), none)
    else if recInstm1 r < recNext r then (drop s, none)
    else (s, some (.record ctx va pa r irq ofRing))

/-- One look at a queue's head: none when an entry has left and the next must be looked at. -/
def State.lookHead (s : State) (q : Nat) : State × Option Head :=
  match s.returnedHead q with
  | some x =>
    (match x.item with
      | .saved key =>
        (match List.find? (fun (y : Nat × Saved) => y.1 == key) s.saved with
          | some (_, y) => (s, some (if s.repliesDue y.weave.id then .nothing else .saved key y))
          | none => (s.takeReturned x, none))
      | .record ctx va irq => s.judgeRecord q ctx va irq false (fun s => s.takeReturned x))
  | none =>
    if queueFill s q = 0 then (s, some .nothing)
    else
      let e := s.readHomeNat (queueEntryPa s q (queueHead s q)) 16
      let ctx := bits e 77 72
      let va := bits e 71 0
      if bits e 127 79 != 0 || va % 64 != 0 || !s.ctxEnabled ctx then
        ((s.takeEntry q).eventRecord ctx 6 (cause 15 0) va 0, none)
      else s.judgeRecord q ctx va (bitAt e 78) true (fun s => s.takeEntry q)

/-- The head of a queue, once the entries that leave it are gone. -/
def State.headOf (s : State) (q : Nat) : (fuel : Nat) → State × Head
  | 0 => (s, .nothing)
  | fuel + 1 =>
    match s.lookHead q with
    | (s, some h) => (s, h)
    | (s, none) => State.headOf s q fuel

/-- Level of a head: the PRIO of its record. -/
def Head.level : Head → Nat
  | .nothing => 0
  | .saved _ x => x.weave.prio
  | .record _ _ _ r _ _ => recPrio r

/-- The instance at a head. -/
def State.headInstance (s : State) : Head → Option Instance
  | .nothing => none
  | .saved _ x =>
    let id := x.weave.id
    let a := match s.recordPa id.ctx id.record with
      | some pa => instanceAffinity (s.readHomeNat pa 64) id.inst
      | none => 0
    some { ctx := id.ctx, record := id.record, inst := id.inst, affinity := a, shape := Shape.ofSaved x }
  | .record ctx va _ r _ _ =>
    some { ctx, record := va, inst := recNext r, affinity := instanceAffinity r (recNext r), shape := Shape.ofRecord r }

/-! ### The start of a weave (R12) -/

/-- A fresh weave of instance `inst` of a record. -/
def startWeave (ctx va r inst gen slice : Nat) : Weave :=
  let pc := BitVec.ofNat 72 (recCode r)
  let w := Weave.blank { ctx, record := va, inst, gen } (recLanes r + 1) (vregCount (recVregs r)) (recSregs r) (recAregs r) pc
  let put := fun (w : Weave) (n v : Nat) =>
    (w.writeScalar n (BitVec.ofNat 64 v)).setTableJamb (0x100 + n) (.iv (signed 64 v) (signed 64 v))
  let w := put (put w 0 (bits (recFrame r) 63 0)) 1 (bits (recFrame r) 71 64)
  { w with
    instm1 := recInstm1 r, spadBytes := 256 * recSpad r, stashCount := recStash r, prio := recPrio r, role := recRole r
    rng := BitVec.ofNat 64 (va / 64 * 2 ^ 24 + inst), sliceLeft := slice }

/-- An instance begun in a slot: its first instruction is a safe point (R355). -/
def State.beginInstance (s : State) (q ctx va r : Nat) (irq : Bool) (c slot : Nat) : State :=
  let w := startWeave ctx va r (recNext r) s.serial (s.core c).hinge.slice.toNat
  let s := { s with serial := s.serial + 1 }
  let s := if s.live.any (fun l => l.ctx == ctx && l.record == va) then s
    else { s with live := s.live ++ [
      { ctx, record := va, queue := q, irq, retiring := false, token := 0, core := c, sent := false }] }
  let w := w.modifyPath 0 (fun p => { p with readySince := s.tick })
  (((s.setWeave c slot w).enterCode (actorOf c slot 0)).acquire c scopeMd).traceWeave c slot kindDispatch w

/-! ### DISPATCH_INSTANCE (R430) -/

/-- A queue with a head to dispatch from, and where its instance can be placed now. -/
structure Candidate where
  queue : Nat
  head : Head
  inst : Instance
  place : Option (Nat × Nat)
deriving DecidableEq, Repr

def Candidate.level (c : Candidate) : Nat := c.head.level
def Candidate.fits (c : Candidate) : Bool := c.place.isSome

/-- The enabled queues, ascending. -/
def State.enabledQueues (s : State) : List Nat :=
  sortNat ((s.blocks.filter (fun b => queueBlock 0 ≤ b.1 && b.1 < queueBlock 256 && b.1 % 64 == 0)).filterMap (fun b =>
    let q := (b.1 - queueBlock 0) / 64
    if queueEnabled s q then some q else none))

/-- Every enabled queue looked at; the spill time of an instance that cannot be placed starts (R33). -/
def State.candidates (s : State) : List Nat → State × List Candidate
  | [] => (s, [])
  | q :: qs =>
    let (s, h) := s.headOf q (queueFill s q + s.returned.length + 1)
    match s.headInstance h with
    | none => State.candidates s qs
    | some i =>
      let place := s.placeInstance i
      let (s, l) := State.candidates (if place.isNone then s.startSpill i else s) qs
      (s, { queue := q, head := h, inst := i, place } :: l)

/-- Since when each level has had a placeable record. -/
def State.noteLevels (s : State) (l : List Candidate) : State :=
  let levels := sortNat (l.map Candidate.level)
  { s with
    levelSince := levels.map (fun n => (n, (Table.find? s.levelSince n).getD s.tick))
    starving := s.starving.filter (fun n => levels.contains n) }

/-- The queues of a level in the order in which pick() visits them: the one served last while it has deficit, then the
others in rotation from it. -/
def State.rotate (s : State) (level : Nat) (l : List Candidate) : List Candidate :=
  match Table.find? s.rotation level with
  | none => l
  | some last =>
    let stays := s.field (queueBlock last) 383 352 != 0
    (if stays then l.filter (fun c => c.queue == last) else []) ++ l.filter (fun c => last < c.queue)
      ++ l.filter (fun c => c.queue < last || (c.queue == last && !stays))

/-- A queue that pick() passes because its head cannot be placed loses its deficit. -/
def State.passQueues (s : State) (l : List Candidate) : State :=
  l.foldl (fun s c => s.setField (queueBlock c.queue) 383 352 0) s

/-- A candidate dispatched to a slot of a core. -/
def State.dispatch (s : State) (level : Nat) (c : Candidate) (core slot : Nat) : State :=
  let b := queueBlock c.queue
  let d := if s.field b 383 352 = 0 then max 1 (s.field b 399 384) else s.field b 383 352
  let s := s.setField b 383 352 (d - 1)
  let s := { s with
    rotation := Table.set s.rotation level c.queue
    levelSince := Table.erase s.levelSince level
    starving := s.starving.filter (fun n => n != level) }
  let s := s.placed c.inst
  match c.head with
  | .nothing => s
  | .saved key x => s.returnWeave key x core slot
  | .record ctx va pa r irq ofRing =>
    let s := s.writeCounts pa (withBits r 432 408 (recNext r + 1))
    let s := if recNext r = recInstm1 r then
        (if ofRing then s.takeEntry c.queue
         else s.takeReturned { queue := c.queue, position := 0, item := .record ctx va irq })
      else s
    s.beginInstance c.queue ctx va r irq core slot

/-- The level that pick() serves: the highest with a placeable record, but a level below that has starved once first. -/
def State.pickLevel (s : State) (l : List Candidate) : Option Nat :=
  let levels := sortNat (l.map Candidate.level)
  (s.starving.find? (fun n => levels.contains n)) <|> levels.getLast?

/-- pick() of R430 over the queues looked at: the state once it has chosen, and the level and candidate that it serves. -/
def State.pick (s : State) (l : List Candidate) : State × Option (Nat × Candidate) :=
  match s.pickLevel (l.filter Candidate.fits) with
  | none => (s.passQueues l, none)
  | some level =>
    let s := if s.starving.contains level then s else s.passQueues (l.filter (fun c => level < c.level))
    let order := s.rotate level (l.filter (fun c => c.level == level))
    let s := s.passQueues (order.takeWhile (fun c => !c.fits))
    (s, (order.find? Candidate.fits).map (fun c => (level, c)))

/-- The choice of pick() now. -/
def State.choose (s : State) : State × Option (Nat × Candidate) :=
  if s.dispatchStopped then (s, none)
  else
    let (s, l) := s.candidates s.enabledQueues
    (s.noteLevels (l.filter Candidate.fits)).pick l

/-- What pick() has chosen dispatched. -/
def State.serve (s : State) (x : Nat × Candidate) : State :=
  match x.2.place with
  | none => s
  | some (core, slot) => s.dispatch x.1 x.2 core slot

/-- DISPATCH_INSTANCE: one instance dispatched, when one can be placed. -/
def State.dispatchNext (s : State) : State :=
  match s.choose with
  | (s, none) => s
  | (s, some x) => s.serve x

def execDispatchInstance (s : State) : Host.Outcome State Fault Refusal := .next s.dispatchNext

/-- WEAVE_RETURN: a saved weave placed, when pick() chooses it. -/
def execWeaveReturn (saved : Nat) (s : State) : Host.Outcome State Fault Refusal :=
  .next (match s.choose with
    | (t, some (level, c)) =>
      (match c.head with
        | .saved key _ => if key = saved then t.serve (level, c) else s
        | _ => s)
    | (_, none) => s)

/-- DISPATCH_SPILL_EXPIRY: time reaches the first spill deadline of a die. -/
def execDispatchSpillExpiry (die : Nat) (s : State) : Host.Outcome State Fault Refusal :=
  let ns := s.field fabricBlock (32 * die + 159) (32 * die + 128)
  .next (match s.spills.find? (fun x => x.die == die) with
    | none => s
    | some x => if ns = 2 ^ 32 - 1 then s else s.reachTick (x.since + spillCycles ns))

/-- STARVE_EXPIRY: a level has waited STARVE µs with a placeable record, and is served once first. -/
def execStarveExpiry (level : Nat) (s : State) : Host.Outcome State Fault Refusal :=
  .next (match Table.find? s.levelSince level with
    | none => s
    | some t =>
      let s := s.reachTick (t + s.field fabricBlock 31 16 * cyclesPerMicro)
      if s.starving.contains level then s else { s with starving := s.starving ++ [level] })

/-! ### Retirement (R31, R32, R432) -/

/-- The record has retired: its interrupt follows its decrement. -/
def State.retireNow (s : State) (l : LiveRecord) : State :=
  let s := { s with live := s.live.filter (fun x => !(x.ctx == l.ctx && x.record == l.record)) }
  if l.irq then s.raiseVector (64 + l.ctx) else s

def State.setLive (s : State) (ctx record : Nat) (f : LiveRecord → LiveRecord) : State :=
  { s with live := s.live.map (fun l => if l.ctx = ctx && l.record = record then f l else l) }

/-- A live record retires when every instance has ended and JOIN is 0; the dispatcher looks again where it cannot read it. -/
def State.checkRetire (s : State) (ctx record core : Nat) : State :=
  match s.live.find? (fun l => l.ctx == ctx && l.record == record), s.recordAt ctx record with
  | some l, (s, some pa) =>
    let r := s.readHomeNat pa 64
    if !l.retiring && recDone r = recInstm1 r + 1 && recJoin r = 0 then
      (s.setLive ctx record (fun l => { l with retiring := true, core, due := false })).pushEvent (.parentDecrement ctx record)
    else s.setLive ctx record (fun l => { l with due := false })
  | some _, (s, none) => s.setLive ctx record (fun l => { l with core, due := true })
  | none, _ => s

/-- The records that may retire looked at again. -/
def State.settleRecords (s : State) : State :=
  (s.live.filter (fun l => l.due)).foldl (fun s l => s.checkRetire l.ctx l.record l.core) s

/-- The word at a physical address has been brought to 0 by a decrement: a waiting record whose JOIN it is returns to
its queue, and a live one may retire. -/
def State.joinReached (s : State) (pa : Nat) : State :=
  let mine := fun (ctx record : Nat) => s.recordLies ctx record == some (pa - joinOffset)
  let back := s.waiting.filter (fun w => mine w.ctx w.record)
  let s1 := { s with waiting := s.waiting.filter (fun w => !mine w.ctx w.record) }
  let s1 := back.foldl (fun s w => s.requeue w.queue (.record w.ctx w.record w.irq)) s1
  (s.live.filter (fun l => mine l.ctx l.record)).foldl (fun s l => s.checkRetire l.ctx l.record l.core) s1

/-- A decrement performed at its home slice; answers the old value. -/
def State.decrementAt (s : State) (pa : Nat) : State × Nat :=
  let n := s.readHomeNat pa 4
  if n = 0 then (s, 0)
  else
    let s := s.writeHomeNat pa 4 (n - 1)
    (if n = 1 then s.joinReached pa else s, n)

/-- The outcome of a decrement whose old value was `old`. -/
def State.decremented (s : State) (l : LiveRecord) (parent old : Nat) : State :=
  (if old = 0 then s.eventRecord l.ctx 6 (cause 15 3) parent 0 else s).retireNow l

/-- The retirement is held for service (R32). -/
def State.parentFault (s : State) (l : LiveRecord) (parent : Nat) : State :=
  let (token, s) := s.freshToken
  (s.eventRecord l.ctx 6 (cause 15 6) parent token).setLive l.ctx l.record (fun l => { l with token, sent := false })

/-- The dispatcher's request for a decrement on another module. -/
def decrementRequest (l : LiveRecord) (module ctx parent : Nat) : RemoteRequest :=
  { id := 0, weave := { ctx := l.ctx, record := l.record, inst := 0, gen := 0 }, core := l.core, slot := dispatcherSlot
    path := 0, lane := 0, op := 0, port := 0, module, sent := 0, ctx, va := parent, what := .decrement, dest := .none
    pc := 0, next := 0, captured := { sregs := [], aregs := [], rng := 0 }, whole := true, waiting := false }

/-- The PARENT decrement of a retiring record, from the top of R32's list. -/
def State.makeDecrement (s : State) (l : LiveRecord) (parent : Nat) : State :=
  if parent % 4 != 0 then s.parentFault l parent
  else match s.agentRead 0 l.ctx parent needBoth with
    | (s, .busy) => s
    | (s, .nowhere _) => s
    | (s, .fault c _) => if c = tierWait then s else s.parentFault l parent
    | (s, .remote m ctx) =>
      if (s.routeFails m).isSome then s.parentFault l parent
      else if s.awaitsCredit m .decrement then s
      else (s.setLive l.ctx l.record (fun l => { l with sent := true })).send (decrementRequest l m ctx parent)
    | (s, .phys pa) =>
      let (s, old) := s.decrementAt pa
      s.decremented l parent old

/-- PARENT_DECREMENT. -/
def execParentDecrement (ctx record : Nat) (s : State) : Host.Outcome State Fault Refusal :=
  .next (match s.live.find? (fun l => l.ctx == ctx && l.record == record), s.recordAt ctx record with
    | some l, (s, some pa) =>
      let parent := recParent (s.readHomeNat pa 64)
      if !l.retiring || l.token != 0 || l.sent then s
      else if parent = 0 then s.retireNow l
      else s.makeDecrement l parent
    | some _, (s, none) => s
    | none, _ => s)

/-! ### WEAVE_END (R19) -/

/-- A hoop left by the weave's end, at home or as a remote signal (R24, R25): whether it is over, or must wait for its page,
a busy node or a credit. Of a descriptor that faults or that no route reaches the spec is silent: the model drops that
LEAVE, and the end goes on (log 66). -/
def State.leaveHoop (s : State) (a : Actor) (w : Weave) (va : Nat) : State × Bool :=
  match s.agentRead (dieOf a.core) w.id.ctx va needBoth with
  | (s, .phys pa) => (s.writeHomeNat pa 64 (hoopUpdate 1 (s.readHomeNat pa 64)), true)
  | (s, .remote m ctx) =>
    if (s.routeFails m).isSome then (s, true)
    else if s.awaitsCredit m (.hoop 1) then (s, false)
    else (s.send {
      id := 0, weave := w.id, core := a.core, slot := a.slot, path := 0, lane := 0, op := 0, port := 0, module := m
      sent := 0, ctx, va, what := .hoop 1, dest := .none, pc := 0, next := 0
      captured := { sregs := [], aregs := [], rng := 0 }, whole := true, waiting := false }, true)
  | (s, .busy) => (s, false)
  | (s, .fault c _) => (s, c != tierWait)
  | (s, .nowhere _) => (s, true)

/-- Steps 4 and 5: the record's DONE, and the slot. The end waits while the record cannot be reached (log 77). -/
def State.closeWeave (s : State) (c slot : Nat) (w : Weave) : State :=
  match s.recordAt w.id.ctx w.id.record with
  | (s, none) => s
  | (s, some pa) =>
    let s := s.release c scopeMd
    let r := s.readHomeNat pa 64
    let s := s.writeCounts pa (withBits r 457 433 (recDone r + 1))
    let s := w.ended.foldl (fun s x => s.tracePath c slot x.1 kindEnd 0 0 w x.2) s
    let s := s.evictionOver c w.id 0
    let s := w.matrixFaults.foldl (fun s f =>
      (if f.cause.group = 20 then s.recordHardware f.cause c else s).modifyCore c (fun k => k.stick f.cause)) s
    let s := s.modifyCore c (fun k => { k with slots := Table.erase k.slots slot })
    s.checkRetire w.id.ctx w.id.record c

/-- WEAVE_END: the steps of R19 in order, each once the one before it is over. -/
def State.endOfWeave (s : State) (c slot : Nat) : State :=
  match s.weave? c slot with
  | none => s
  | some w =>
    let copies := (s.core c).channels.any (fun x => x.2.any (fun o => o.weave == w.id))
    if slot = hingeSlot || !w.ending || (s.core c).frozen || w.writeBackToken.isSome || !w.ops.isEmpty || copies
        || s.requests.any (fun r => r.weave == w.id) then s
    else match w.hoops with
      | va :: rest =>
        (match s.leaveHoop (actorOf c slot 0) w va with
          | (s, false) => s
          | (s, true) =>
            let s := s.setWeave c slot { w with hoops := rest }
            if rest.isEmpty then s else s.pushEvent (.weaveEnd c slot))
      | [] =>
        match writeBackAll s (actorOf c slot 0) s.serial 2 (fun _ => true) with
        | .wait s => s
        | .nowhere _ => s
        | .fault s cs va _ => if cs = tierWait then s else s.writeBackFault c slot w cs va
        | .ok s _ =>
          if s.requests.any (fun r => r.weave == w.id) then s
          else
            let s := (s.modifyCore c (fun k => k.freeEngines w.id)).settleMatrix c
            s.closeWeave c slot w

def execWeaveEnd (core slot : Nat) (s : State) : Host.Outcome State Fault Refusal := .next (s.endOfWeave core slot)

/-! ### CONT_QUEUE_TAIL_WRITE (R429) -/

/-- A host write of TAIL: entries pushed, or OVF. A queue that is not host-fed has a TAIL that the host cannot write. -/
def State.hostTail (s : State) (q tail : Nat) : State :=
  let t := tail % 2 ^ 32
  if !queueHostFed s q then s
  else
    let fill := (t + 2 ^ 32 - queueHead s q) % 2 ^ 32
    if queueCap s q < fill || fill < queueFill s q then s.setField (queueBlock q) 7 7 1
    else s.setField (queueBlock q) 351 320 t

def execContQueueTailWrite (queue tail : Nat) (s : State) : Host.Outcome State Fault Refusal :=
  .next (if queue < 256 then s.hostTail queue tail else s)

end Sys2Proof.Machine
end

