-- ==== Sys2Proof/Machine/Transom.lean ====
section
/-! DEFINITION. The Transom: page moves (R391, R392), aging and heat (R393), parked continuations' pages and wakes (R188 to
R191). -/

namespace Sys2Proof.Machine

/-! ### Pages -/

/-- The leaf of a page that the Transom may move: a valid 64 KiB leaf in HBM, CXL or flash. Its entry, its address and
its fields. -/
def State.movable (s : State) (ctx va : Nat) : Option (Nat × Nat × Leaf) :=
  match s.walk ctx va with
  | .leaf e pa size sub =>
    let l := Leaf.of e sub
    if sub || size != 65536 || l.tier = 3 || l.frameBad sub size then none else some (e, pa, l)
  | _ => none

/-- The die whose Transom moves a page down: the one that holds it, or whose port reaches it; a flash slot past the last
die's belongs to die 3 (log 17). -/
def leafDie (l : Leaf) : Nat :=
  if l.tier = 2 then min (l.frame / 2 ^ 26 / 4) 3 else homeDie (l.frame * 65536)

/-! ### Residency-map entries (R181) -/

/-- A residency-map entry as the Transom reads it: its value, and its place on this module, or none where it lies on another;
the cause that it cannot be read; or that it must wait. -/
inductive MapRead where
  | entry (x : Nat) (pa : Option Nat)
  | bad (c : Cause)
  | wait
deriving DecidableEq, Repr

/-- The Transom's read of a map entry, which needs no USER (R384), for the park that `who` numbers. Of another module's it
reads the entry over the fabric (R66), with the STATE that this module's Transoms give its page (log 69). -/
def State.mapEntry (s : State) (who ctx va : Nat) : State × MapRead :=
  if 2 ^ 72 ≤ va then (s, .bad (cause 1 7))
  else match s.agentRead 0 ctx va needMap with
    | (s, .phys pa) =>
      let s := s.learnEntry ctx va pa
      (s, .entry (s.readHomeNat pa 8) (some pa))
    | (s, .fault c _) => (s, if c = tierWait then .wait else .bad c)
    | (s, .remote m rctx) =>
      (match s.glimpse who ctx va 8 with
        | some (.data b) =>
          let x := s.withState ctx (ofBytes b)
          (s.knowEntry ctx va x, .entry x none)
        | some (.failed i _) => (s, .bad (cause 19 i))
        | none => (s.glance who m rctx ctx va 8, .wait))
    | (s, _) => (s, .wait)

/-- The page that an entry names, when it is VALID. -/
def State.mapPage (s : State) (who ctx va : Nat) : Option Nat :=
  match (s.mapEntry who ctx va).2 with
  | .entry x _ => if entryValid x then some (entryPage x) else none
  | _ => none

/-- A map entry that the device knows pins a page: it never ages (R181). One that it cannot read now pins by what it last
read there. -/
def State.entryPins (s : State) (ctx page : Nat) : Bool :=
  s.maps.any (fun m => m.1 == ctx && (
    let pins := fun (x : Nat) => entryValid x && bitAt x 62 && entryPage x == page
    match (s.mapEntry 0 ctx m.2.1).2 with
    | .entry x _ => pins x
    | .wait => pins m.2.2
    | .bad _ => false))

/-! ### Moves down (R188, R393) -/

/-- A page moves, or is to move. -/
def State.moving (s : State) (ctx va : Nat) : Bool :=
  s.planned.any (fun p => p.ctx == ctx && p.va == va) || s.moves.any (fun m => m.ctx == ctx && m.va == va)

/-- The tier in which a page ends by the moves that are planned for it. -/
def State.finalTier (s : State) (ctx va now : Nat) : Nat :=
  match (s.planned.filter (fun p => p.ctx == ctx && p.va == va)).getLast? with
  | some p => p.toTier
  | none =>
    match s.moves.find? (fun m => m.ctx == ctx && m.va == va) with
    | some m => if m.through then 0 else m.toTier
    | none => now

/-- Class timers of a die's Transom (R390): T1 and T2 of class 1 to 3. -/
def State.classTimer (s : State) (die k t : Nat) : Nat :=
  s.field (transomBlock die) (64 * k + 32 * (t - 1) + 31) (64 * k + 32 * (t - 1))

/-- A timer value that means never. -/
def never : Nat := 2 ^ 32 - 1

def State.aging (s : State) (die : Nat) : Bool := s.field (transomBlock die) 0 0 == 1

/-- A page planned to go down to a tier, when it lies, or is to lie, in the tier above; not one that is pinned, or that is
being brought up (R188). -/
def State.planDemotion (s : State) (ctx va toTier group : Nat) : State :=
  match s.movable ctx va with
  | none => s
  | some (_, _, l) =>
    if l.pin || s.entryPins ctx va || l.migr && !s.moving ctx va || s.bringingUp ctx va || s.finalTier ctx va l.tier + 1 != toTier then s
    else { s with planned := s.planned ++ [{ ctx, va, toTier, die := leafDie l, through := false, stack := none, group }] }

/-! ### Class aging (R393) -/

/-- A page of an aging class whose T1 (from HBM) or T2 (from CXL) has passed without an access at its home slice. -/
def State.ageClass (s : State) (ctx va t : Nat) : State :=
  match s.movable ctx va with
  | none => s
  | some (_, _, l) =>
    let d := leafDie l
    let timer := s.classTimer d l.age t
    if l.age = 0 || l.tier + 1 != t || timer = never || l.pin || s.entryPins ctx va || !s.aging d || s.moving ctx va then s
    else
      let last := (Table.find? s.touched l.frame).getD 0
      (s.reachTick (last + timer * cyclesPerMicro)).planDemotion ctx va t 0

def execAgeT1Expiry (ctx va : Nat) (s : State) : Host.Outcome State Fault Refusal := .next (s.ageClass ctx (va - va % 65536) 1)
def execAgeT2Expiry (ctx va : Nat) (s : State) : Host.Outcome State Fault Refusal := .next (s.ageClass ctx (va - va % 65536) 2)

/-! ### Parked continuations (R188, R190, R191) -/

/-- The parked continuations that list a page. -/
def State.listers (s : State) (ctx page : Nat) : List ParkEntry :=
  s.parks.filter (fun e => e.ctx == ctx && e.woken.isNone && e.entries.any (fun va => s.mapPage e.saved ctx va == some page))

/-- The group of the moves that a park's timer calls for. -/
def parkGroup (saved t : Nat) : Nat := 4 * saved + t

/-- The page of a map entry moves down for a timer of a park, when no park behind that timer lists it: at T1 one that is
RESIDENT, at T2 one in CXL. A page held back so is left to the timer of the park behind: the spec does not say that this
park ages it should that one leave its timers unreached (log 49). -/
def State.ageListed (s : State) (e : ParkEntry) (t x : Nat) : State :=
  let page := entryPage x
  if !entryValid x || (t == 1 && entryState x != 0) || (s.listers e.ctx page).any (fun y => y.aged < t) then s
  else match s.movable e.ctx page with
    | none => s
    | some (_, _, l) => if s.aging (leafDie l) then s.planDemotion e.ctx page t (parkGroup e.saved t) else s

/-- The entries that a park's timers have still to look at, in order: one that must wait keeps those after it waiting, and
one that cannot be read is skipped (R188, R382). Answers those left. -/
def State.agePark (s : State) (e : ParkEntry) : List (Nat × Nat) → State × List (Nat × Nat)
  | [] => (s, [])
  | (t, va) :: rest =>
    match s.mapEntry e.saved e.ctx va with
    | (s, .wait) => (s, (t, va) :: rest)
    | (s, .bad _) => State.agePark s e rest
    | (s, .entry x _) => State.agePark (s.ageListed e t x) e rest

/-- The parks whose timers have entries left to look at go on with them; a woken one ages no more. -/
def State.settleAging (s : State) : State :=
  (s.parks.filter (fun e => !e.due.isEmpty)).foldl (fun s e =>
    let (s, due) := if e.woken.isSome then (s, []) else s.agePark e e.due
    let s := if due.isEmpty then s.endGlances (fun g => g.who == e.saved) else s
    { s with parks := s.parks.map (fun (y : ParkEntry) => if y.saved = e.saved then { y with due } else y) }) s

/-- A timer of a park reached: its entries are looked at in reverse promotion order (R188). -/
def State.parkTimer (s : State) (key t : Nat) : State :=
  match s.parks.find? (fun e => e.saved == key) with
  | none => s
  | some e =>
    let saved := s.saved.any (fun x => x.1 == key)
    if !saved || e.woken.isSome || e.aged + 1 != t || e.t1 = never || (t == 2 && e.t2 == never) then s
    else
      let s := s.reachTick (e.since + (if t = 1 then e.t1 else e.t1 + e.t2) * cyclesPerMicro)
      { s with parks := s.parks.map (fun (y : ParkEntry) =>
          if y.saved = key then { y with aged := t, due := y.due ++ e.entries.reverse.map (fun va => (t, va)) }
          else y) }.settleAging

def execParkT1Expiry (saved : Nat) (s : State) : Host.Outcome State Fault Refusal := .next (s.parkTimer saved 1)
def execParkT2Expiry (saved : Nat) (s : State) : Host.Outcome State Fault Refusal := .next (s.parkTimer saved 2)

/-- Moves in progress counted in a die's block. -/
def State.countMoves (s : State) (die : Nat) : State :=
  let n := (s.moves.filter (fun m => m.die == die)).length
  (s.setField (transomBlock die) 383 352 n).setField (transomBlock die) 3 3 (bit01 (n == 0))

/-- A move that ends without being made: the leaf is as it was, with MIGR clear, and the destination is FREE again (R391). -/
def State.abandonMove (s : State) (m : PageMove) : State :=
  let s := ({ s with moves := s.moves.erase m } : State).setFrame (frameKey m.toTier m.toFrame) Frame.reset
  (s.writeHomeNat m.leafPa 8 (withBits m.oldLeaf.toNat 62 62 0)).countMoves m.die

/-- A wake write reverses the move down of a listed page, and drops one that has not begun (R191). -/
def State.reverseDown (s : State) (ctx page : Nat) : State :=
  let s := { s with planned := s.planned.filter (fun p => !(p.ctx == ctx && p.va == page && p.stack.isNone && p.toTier != 0
    && !p.through)) }
  (s.moves.filter (fun m => m.ctx == ctx && m.va == page && m.toTier != 0 && !m.through)).foldl State.abandonMove s

/-- A listed page when its wake is written: its move down reverses, and a page that is not in HBM is promoted, through the
CXL tier when it lies in flash, in the place that promotion order gives it. Answers whether the promotion takes the page:
not one that is being brought up already. -/
def State.promoteListed (s : State) (ctx page die : Nat) : State × Bool :=
  let s := s.reverseDown ctx page
  let s := { s with planned := s.planned.filter (fun p => !(p.ctx == ctx && p.va == page && p.stack.isNone)) }
  match s.movable ctx page with
  | none => (s, false)
  | some (_, _, l) =>
    if l.tier = 0 || s.bringingUp ctx page then (s, false)
    else
      let p : PlannedMove := { ctx, va := page, toTier := if l.tier = 2 then 1 else 0, die, through := l.tier == 2, stack := none }
      ({ s with planned := s.planned ++ [p] }, true)

/-- The STATE of a page, for the entries that are read later. -/
def State.setPageState (s : State) (ctx page st : Nat) : State :=
  { s with pageStates := s.pageStates.filter (fun (x : Nat × Nat × Nat) => !(x.1 == ctx && x.2.1 == page)) ++ [(ctx, page, st)] }

/-- The wake of a park (R190): every listed page taken in promotion order. -/
def State.promotePark (s : State) (e : ParkEntry) : State :=
  let die := homeDie e.wakePa
  let s := e.entries.foldl (fun s va =>
    match s.mapEntry e.saved e.ctx va with
    | (s, .bad c) => (s.eventRecord e.ctx 7 c va 0).pagePoison c die die
    | (s, .wait) => s
    | (s, .entry x pa) =>
      if !entryValid x then s
      else
        let (s, taken) := s.promoteListed e.ctx (entryPage x) die
        if !taken then s
        else
          let s := s.setPageState e.ctx (entryPage x) 2
          match pa with
          | some pa => s.writeMapState pa x 2
          | none => s) s
  let s := { s with parks := s.parks.map (fun (y : ParkEntry) => if y.saved = e.saved then { y with promoting := true } else y) }
  match Table.find? s.saved e.saved with
  | some x => s.traceWeave e.core e.slot kindWake x.weave
  | none => s

/-- Every map entry of a woken park can be read, or cannot for good; those in flash are brought up. The moves down of the
pages of the entries that can be read reverse at once (R191). -/
def State.entriesReadable (s : State) (e : ParkEntry) : State × Bool :=
  e.entries.foldl (fun acc va =>
    match acc.1.mapEntry e.saved e.ctx va with
    | (s, .wait) => (s, false)
    | (s, .entry x _) => (if entryValid x then s.reverseDown e.ctx (entryPage x) else s, acc.2)
    | (s, _) => (s, acc.2)) (s, true)

/-- Wake writes that have come acted on, once their weave is saved. -/
def State.settleParks (s : State) : State :=
  (s.parks.filter (fun e => e.woken.isSome && !e.promoting && s.saved.any (fun x => x.1 == e.saved))).foldl (fun s e =>
    match s.entriesReadable e with
    | (s, true) => s.promotePark e
    | (s, false) => s) s

/-! ### Heat (R60, R393) -/

/-- The stack of an HBM frame within its die: 32 channels each. -/
def stackOf (frame : Nat) : Nat := frame % 96 / 32

/-- The heat of a stack. -/
def Die.stackHeat (d : Die) (st : Nat) : Nat :=
  d.heat.foldl (fun n x => if isHbm (x.1 * 65536) && stackOf x.1 == st then n + x.2.count else n) 0

/-- The hot pages of a die planned to move to its least-heated stack. -/
def State.heatMoves (s : State) (die : Nat) : State :=
  let d := s.die die
  let hot := s.field (transomBlock die) 31 16
  match leastBy d.stackHeat [0, 1, 2] with
  | none => s
  | some st =>
    let least := d.stackHeat st
    d.heat.foldl (fun s x =>
      let h := x.2
      match s.movable h.ctx h.va with
      | none => s
      | some (_, _, l) =>
        if l.frame != x.1 || l.migr || s.moving h.ctx h.va then s
        else if (l.tier = 0 && stackOf l.frame != st && least + hot < h.count) || (l.tier = 1 && hot < h.count) then
          { s with planned := s.planned ++ [{ ctx := h.ctx, va := h.va, toTier := 0, die, through := false, stack := some st }] }
        else s) s

/-- HEAT_EPOCH: the epoch ends, pages are chosen, and the counters halve. -/
def State.heatEpoch (s : State) (die : Nat) : State :=
  let e := min 20 (s.field (transomBlock die) 15 8)
  let s := s.reachTick ((s.die die).epochAt + 2 ^ e * cyclesPerMicro)
  let s := if s.field (transomBlock die) 1 1 = 1 then s.heatMoves die else s
  s.modifyDie die (fun d => { d with
    epochAt := s.tick
    heat := (d.heat.map (fun x => (x.1, { x.2 with count := x.2.count / 2 }))).filter (fun x => x.2.count != 0) })

def execHeatEpoch (die : Nat) (s : State) : Host.Outcome State Fault Refusal :=
  .next (if die < Config.dies then s.heatEpoch die else s)

/-! ### CRC-64/XZ (R392) -/

def crcPoly : Nat := 0xC96C5795D7870F42

/-- One byte into a reflected CRC. -/
def crcByte (crc : Nat) (b : Byte) : Nat :=
  (List.range 8).foldl (fun c _ => if c % 2 = 1 then (c / 2) ^^^ crcPoly else c / 2) (crc ^^^ b.toNat)

def crc64 (l : List Byte) : BitVec 64 := ~~~(BitVec.ofNat 64 (l.foldl crcByte (2 ^ 64 - 1)))

/-! ### A page's bytes -/

/-- The address by which a wake watch knows a page: a flash page's lies above every physical one. -/
def pageAddress (tier frame : Nat) : Nat := if tier = 2 then 2 ^ 60 + frame * 65536 else frame * 65536

/-- The bytes of a page. -/
def State.pageBytes (s : State) (tier frame : Nat) : List Byte :=
  if tier = 2 then s.flash.readBytes (frame * 65536) 65536 else s.mem.readBytes (frame * 65536) 65536

/-- The bytes of a memory moved by an offset, [a, a + 64 KiB) to b. -/
def Memory.copyPage (src dst : Memory) (a b : Nat) : Memory :=
  (src.filter (fun c => a ≤ c.1 && c.1 < a + 65536)).foldl (fun m c => m.write (c.1 - a + b) c.2) (dst.clear b 65536)

/-- A page copied to a frame or a slot, with the watches on its words (R391). -/
def State.copyPage (s : State) (fromTier fromFrame toTier toFrame : Nat) : State :=
  let src := if fromTier = 2 then s.flash else s.mem
  let base := toFrame * 65536
  let s := if toTier = 2 then { s with flash := src.copyPage s.flash (fromFrame * 65536) base }
    else { s.dropCached base 65536 with
      mem := src.copyPage s.mem (fromFrame * 65536) base }
  let a := pageAddress fromTier fromFrame
  let b := pageAddress toTier toFrame
  { s with
    spoiled := s.spoiled.filter (fun x => x < b || b + 65536 ≤ x)
      ++ (s.spoiled.filter (fun x => a ≤ x && x < a + 65536)).map (fun x => x - a + b)
    touched := if toTier = 2 then s.touched else Table.set s.touched toFrame s.tick
    parks := s.parks.map (fun (e : ParkEntry) =>
      if a ≤ e.wakePa && e.wakePa < a + 65536 then { e with wakePa := e.wakePa - a + b } else e) }

/-! ### TRANSOM_PAGE_MOVE (R391, steps 1 to 3) -/

/-- A place of an engine's operation lies in a frame: its accesses through the old leaf have not all performed. -/
def placesIn (t : Table Place) (frame : Nat) : Bool :=
  t.any (fun x => match x.2 with
    | .phys pa => pa / 65536 == frame
    | .remote .. => false)

/-- An engine of the module holds translated places in a frame. -/
def State.frameInUse (s : State) (frame : Nat) : Bool :=
  s.cores.any (fun x =>
    x.2.channels.any (fun c => c.2.any (fun o => placesIn o.pages frame))
    || x.2.matrix.any (fun m => placesIn m.work.pages frame))

/-- A frame or slot is a fit destination: FREE, of the tier, and in the HBM (and stack) of the Transom's die. -/
def State.fitDestination (s : State) (p : PlannedMove) (frame : Nat) : Bool :=
  (s.frame (frameKey p.toTier frame)).free &&
  (if p.toTier = 2 then frame < 2 ^ 30
   else frameAllowed p.toTier (frame * 65536) && (p.toTier != 0 || (homeDie (frame * 65536) == p.die
     && (match p.stack with
       | some st => stackOf frame == st
       | none => true))))

/-- A planned move waits for one of its group that comes before it. -/
def State.groupWaits (s : State) (p : PlannedMove) : Bool :=
  p.group != 0 && (s.moves.any (fun m => m.group == p.group) || s.planned.find? (fun x => x.group == p.group) != some p)

/-- The next planned move of a die. -/
def State.nextPlanned (s : State) (die : Nat) : Option PlannedMove :=
  s.planned.find? (fun p => p.die == die && !s.groupWaits p)

/-- The leaf marked and every access through it over; the destination taken (R394). -/
def State.beginMove (s : State) (p : PlannedMove) (e leafPa frame : Nat) (l : Leaf) : State :=
  let s := s.writeHomeNat leafPa 8 (withBits e 62 62 1)
  let s := s.purgePage p.ctx p.va
  let s := if l.tier = 2 then s else s.recall (l.frame * 65536) 65536
  let s := s.setFrame (frameKey p.toTier frame) { shared := false, free := false, owner := p.ctx }
  let m : PageMove := {
    ctx := p.ctx, va := p.va, leafPa, oldLeaf := BitVec.ofNat 64 e, toTier := p.toTier, toFrame := frame, die := p.die
    through := p.through, group := p.group }
  { s with planned := s.planned.erase p, moves := s.moves ++ [m] }.countMoves p.die

/-- STATE written in every known entry of a context that names a page and can be read now; the others have it when they are
next read. -/
def State.writeStates (s : State) (ctx page st : Nat) : State :=
  (s.maps.filter (fun (m : Nat × Nat × Nat) => m.1 == ctx)).foldl (fun s m => (s.mapEntry 0 ctx m.2.1).1)
    (s.setPageState ctx page st)

/-- TRANSOM_PAGE_MOVE: the next planned move of a die begins, to a frame that fits. A FREE source is zeroed and taken
(R394); a page that needs no move any more, or whose frame has another owner, leaves the plan. -/
def State.startMove (s : State) (ctx va frame : Nat) : State :=
  match s.planned.find? (fun p => p.ctx == ctx && p.va == va) with
  | none => s
  | some p =>
    if s.nextPlanned p.die != some p || s.field (transomBlock p.die) 2 2 = 1
        || s.moves.any (fun m => m.die == p.die || (m.ctx == ctx && m.va == va)) then s
    else match s.movable ctx va with
      | none => { s with planned := s.planned.erase p }
      | some (e, leafPa, l) =>
        let done := l.tier == p.toTier && p.stack.isNone
        if l.migr then s
        else if done && l.tier = 0 then { s with planned := s.planned.erase p }.writeStates ctx va (if l.poison then 3 else 0)
        else if done || (p.toTier == 2 && l.tier == 0) || (l.pin && p.toTier > l.tier) then { s with planned := s.planned.erase p }
        else if !s.fitDestination p frame || (l.tier != 2 && s.frameInUse l.frame) then s
        else match s.claimFrame ctx l.tier l.frame with
          | (s, true) => s.beginMove p e leafPa frame l
          | (s, false) => { s with planned := s.planned.erase p }

def execTransomPageMove (ctx va frame : Nat) (s : State) : Host.Outcome State Fault Refusal :=
  .next (s.startMove ctx (va - va % 65536) frame)

/-! ### PAGE_MOVE_COMPLETE (R391, steps 3 to 5; R392) -/

/-- A page out of flash fails its check: it is counted, reported and recorded (R392, R435). -/
def State.crcFails (s : State) (m : PageMove) : State :=
  let s := s.bumpField (transomBlock m.die) 335 320 true
  let s := s.raiseVector (132 + m.die)
  let s := s.modifyDie m.die (fun d => { d with poisoned := min 65535 (d.poisoned + 1) })
  let s := s.eventRecord m.ctx 7 (cause 20 1) m.va 0
  s.pagePoison (cause 20 1) m.die m.die

/-- A move that ends. -/
def State.endMove (s : State) (m : PageMove) : State :=
  let e := m.oldLeaf.toNat
  let l := Leaf.of e false
  let s := { s with moves := s.moves.erase m }
  let page := s.pageBytes l.tier l.frame
  let record := Table.find? s.integrity l.frame
  let good := l.tier != 2 || (match record with
    | some r => r.blank || (Config.flashIntact s.serial l.frame && r.crc == crc64 page && r.itag.toNat == bits e 19 12)
    | none => false)
  let itag := if m.toTier = 2 then (bits e 19 12 + 1) % 256 else bits e 19 12
  let s := s.copyPage l.tier l.frame m.toTier m.toFrame
  let s := if m.toTier = 2 then
      { s with integrity := Table.set s.integrity m.toFrame { crc := crc64 page, itag := BitVec.ofNat 8 itag, blank := false } }
    else s
  let leaf := withBits (withBits (withBits (withBits e 55 20 m.toFrame) 8 7 m.toTier) 19 12 itag) 62 62 0
  let s := s.writeHomeNat m.leafPa 8 (if good then leaf else withBits leaf 63 63 1)
  let s := s.setFrame (frameKey l.tier l.frame) Frame.reset
  let s := if l.tier < m.toTier then s.bumpField (transomBlock m.die) 319 288 false
    else if m.toTier < l.tier then s.bumpField (transomBlock m.die) 287 256 false else s
  let s := if good then s else s.crcFails m
  let goesOn := m.through && m.toTier == 1
  let s := if goesOn then
      { s with planned := { ctx := m.ctx, va := m.va, toTier := 0, die := m.die, through := true, stack := none } :: s.planned }
    else s
  let st := if goesOn then 2 else if !good || l.poison then 3 else if m.toTier = 0 then 0 else 1
  (s.writeStates m.ctx m.va st).countMoves m.die

def execPageMoveComplete (ctx va : Nat) (s : State) : Host.Outcome State Fault Refusal :=
  .next (match s.moves.find? (fun m => m.ctx == ctx && m.va == va - va % 65536) with
    | none => s
    | some m => s.endMove m)

end Sys2Proof.Machine
end

