-- ==== Sys2Proof/Machine/Faults.lean ====
section
/-! DEFINITION. Fault service: the fault and reply rings (R395 to R397), the stop queue and its taking by the hinge core
(R404 to R408), and a hinge core that fails (R458). -/

namespace Sys2Proof.Machine

/-! ### The fault ring (R396) -/

/-- FAULT_RECORD_DEFERRED_WRITE: the oldest record that waits for a context's ring, once there is room. -/
def State.writeLateFault (s : State) (ctx : Nat) : State :=
  match s.lateFaults.find? (fun r => r.ctx == ctx) with
  | none => s
  | some r => if s.faultRoom ctx then { s with lateFaults := s.lateFaults.erase r }.putFaultRecord r else s

def execFaultRecordDeferredWrite (ctx : Nat) (s : State) : Host.Outcome State Fault Refusal := .next (s.writeLateFault ctx)

/-! ### The reply ring (R395, R397) -/

def State.replyHead (s : State) (ctx : Nat) : Nat := s.field (translationBlock ctx) 239 224
def State.replyTail (s : State) (ctx : Nat) : Nat := s.field (translationBlock ctx) 223 208

/-- The reply at an index of the ring. -/
def State.replyAt (s : State) (ctx i : Nat) : Nat :=
  let b := translationBlock ctx
  s.readHomeNat (s.field b 199 160 * 4096 + 16 * (i % ringSize (s.field b 203 200) 4 12)) 16

/-- DISP of a reply; one whose other bits are not zero is malformed as a reserved disposition is (log 31). -/
def replyDisp (r : Nat) : Nat := if bits r 7 3 != 0 || bits r 127 40 != 0 then 7 else bits r 2 0

/-- The event that consumes a reply. -/
def replyEvent (ctx r : Nat) : Instr :=
  match replyDisp r with
  | 0 => .replyRetry ctx
  | 1 => .replySkip ctx
  | 2 => .replyKill ctx
  | 3 => .replyEnd ctx
  | 4 => .replyRaise ctx
  | _ => .replyReserved ctx

/-- The replies that a context's ring holds. -/
def State.repliesWaiting (s : State) (ctx : Nat) : Nat := (s.replyTail ctx + 2 ^ 16 - s.replyHead ctx) % 2 ^ 16

/-- REPLY_RING_TAIL_WRITE: the entries before the new tail are read, in ring order. -/
def execReplyRingTailWrite (ctx tail : Nat) (s : State) : Host.Outcome State Fault Refusal :=
  let s := s.setField (translationBlock ctx) 223 208 tail
  let events := (List.range (s.repliesWaiting ctx)).map (fun i => Move.event (replyEvent ctx (s.replyAt ctx (s.replyHead ctx + i))))
  .next { s with agenda := events ++ s.agenda }

/-- RQERR set, with the context's vector when it becomes set. -/
def State.replyError (s : State) (ctx : Nat) : State :=
  let b := translationBlock ctx
  if s.field b 145 145 = 1 then s else (s.setField b 145 145 1).raiseVector ctx

/-- A reply to a PARENT_FAULT (R32). -/
def State.replyParent (s : State) (l : LiveRecord) (disp : Nat) : State :=
  if disp = 4 then s.replyError l.ctx
  else
    let s := s.setLive l.ctx l.record (fun l => { l with token := 0 })
    if disp != 0 then s.retireNow l
    else match s.recordPa l.ctx l.record with
      | none => s
      | some pa => s.makeDecrement { l with token := 0 } (recParent (s.readHomeNat pa 64))

/-- The resident weave of a context that a token names: its core and slot. -/
def State.tokenWeave (s : State) (ctx token : Nat) : Option (Nat × Nat) :=
  s.cores.findSome? (fun (c, k) => k.slots.findSome? (fun (slot, w) =>
    if w.id.ctx = ctx && slot != hingeSlot && (w.writeBackToken == some token || (w.tokenPath token).isSome) then some (c, slot)
    else none))

/-- A core's content names a token. -/
def Core.namesToken (k : Core) (ctx token : Nat) : Bool :=
  k.slots.any (fun x => x.2.id.ctx == ctx && (x.2.writeBackToken == some token || (x.2.tokenPath token).isSome))

/-- A reply carried out, or held where its weave is; one that names nothing outstanding is dropped. -/
def State.applyReply (s : State) (ctx token disp : Nat) : State :=
  match (if token = 0 then none else s.live.find? (fun l => l.ctx == ctx && l.token == token)), s.tokenWeave ctx token with
  | some l, _ => s.replyParent l disp
  | none, some (c, slot) => s.replyTo c slot token disp
  | none, none =>
    { s with
      dies := s.dies.map (fun (n, d) => (n, { d with latch := d.latch.map (fun l =>
        if l.content.namesToken ctx token then { l with held := l.held ++ [(ctx, token, disp)] } else l) }))
      saved := s.saved.map (fun (n, x) =>
        if x.weave.id.ctx = ctx && (x.weave.tokenPath token).isSome then (n, { x with held := x.held ++ [.fault token disp] })
        else (n, x))
      images := s.images.map (fun i =>
        if i.content.namesToken ctx token then { i with held := i.held ++ [(ctx, token, disp)] } else i) }

/-- The reply at the head of the ring consumed, when its disposition is the one named. -/
def State.takeReply (s : State) (ctx disp : Nat) : State :=
  if s.repliesWaiting ctx = 0 then s
  else
    let h := s.replyHead ctx
    let r := s.replyAt ctx h
    if min 5 (replyDisp r) != disp then s
    else
      let s := s.setField (translationBlock ctx) 239 224 (h + 1)
      if disp = 5 then s.replyError ctx
      else if bits r 39 24 != s.ctxGen ctx then s
      else s.applyReply ctx (bits r 23 8) disp

def execReplyRetry (ctx : Nat) (s : State) : Host.Outcome State Fault Refusal := .next (s.takeReply ctx 0)
def execReplySkip (ctx : Nat) (s : State) : Host.Outcome State Fault Refusal := .next (s.takeReply ctx 1)
def execReplyKill (ctx : Nat) (s : State) : Host.Outcome State Fault Refusal := .next (s.takeReply ctx 2)
def execReplyEnd (ctx : Nat) (s : State) : Host.Outcome State Fault Refusal := .next (s.takeReply ctx 3)
def execReplyRaise (ctx : Nat) (s : State) : Host.Outcome State Fault Refusal := .next (s.takeReply ctx 4)
def execReplyReserved (ctx : Nat) (s : State) : Host.Outcome State Fault Refusal := .next (s.takeReply ctx 5)

/-! ### The stop queue (R404, R407) -/

/-- STOP_ENQUEUE_DEFERRED: a waiting stop enters the queue once there is room. -/
def Core.enqueueLate (k : Core) : Core :=
  match k.lateStops with
  | e :: rest => if k.stops.length < 64 then { k with stops := k.stops ++ [e], lateStops := rest } else k
  | [] => k

def execStopEnqueueDeferred (core : Nat) (s : State) : Host.Outcome State Fault Refusal :=
  .next (if (s.core core).frozen then s else s.modifyCore core Core.enqueueLate)

/-- Whether the hinge core may take a stop, or an interrupt, now. A stop comes first (R407). The queue of a frozen core holds
none but the hinge core's own (log 73). -/
def Core.takesStop (k : Core) : Bool :=
  k.hinge.takesStops && !k.hinge.inStop && !k.stops.isEmpty

def Core.takesInterrupt (k : Core) : Bool :=
  k.hinge.takesInterrupts && !k.hinge.inStop && !k.takesStop && k.hinge.icause &&& ~~~k.hinge.taken != 0

/-- The actor of a core's hinge core. -/
def hingeActor (c : Nat) : Actor := { core := c, slot := hingeSlot, path := 0 }

/-- The PC of the hinge core. -/
def State.hingePc (s : State) (c : Nat) : VAddr :=
  match s.path? (hingeActor c) with
  | some q => q.pc
  | none => 0

/-- Where a stop enters: its feature's routine when that is bound (R362), else TVEC. -/
def State.stopEntry (s : State) (c : Nat) (e : Stop) : VAddr :=
  let b := ((Table.find? s.binding (bits e.detail.toNat 8 0)).getD 0).toNat
  if e.cause = cause 7 2 && bitAt b 72 && bits e.detail.toNat 8 0 != 0 then BitVec.ofNat 72 (bits b 71 0)
  else ((s.core c).hinge.tvec).setWidth 72

/-- TSTOP (R406). -/
def tstopOf (e : Stop) : Nat :=
  bit01 e.pf * 2 ^ 24 + bit01 e.whole * 2 ^ 23 + e.lgrp % 32 * 2 ^ 18 + e.path % 8 * 2 ^ 15 + e.slot % 64 * 2 ^ 9
    + causeCode e.cause % 512

/-- The registers of take_stop(e). -/
def Hinge.take (h : Hinge) (e : Stop) (pc : VAddr) : Hinge :=
  { h with
    tstop := BitVec.ofNat 64 (tstopOf e), tlanes := e.lanes.setWidth 64
    tpc := e.pc.setWidth 64, tpch := (e.pc >>> 64).setWidth 64, tdet := e.detail, ttoken := BitVec.ofNat 64 e.token
    tret := pc.setWidth 64, hstatus := h.hstatus ||| 4, serving := some e, stopped := false }

/-- TAKE_STOP: the oldest stop taken, with the trace record of its path. -/
def State.takeOldest (s : State) (c : Nat) : State :=
  let k := s.core c
  match k.stops with
  | [] => s
  | e :: rest =>
    if !k.takesStop then s
    else
      let pc := s.hingePc c
      let entry := s.stopEntry c e
      let s := s.modifyCore c (fun k => { k with stops := rest, hinge := k.hinge.take e pc })
      let s := s.modifyPath (hingeActor c) (fun q => q.goOn entry)
      if e.slot = hingeSlot then s
      else match s.weave? c e.slot with
      | none => s
      | some w =>
        match w.path? e.path with
        | none => s
        | some q =>
          let tag := if e.cause = cause 16 0 then bits e.detail.toNat 7 0 else 0
          if w.id = e.weave then s.tracePath c e.slot e.path kindStop (causeCode e.cause) tag w q else s

def execTakeStop (core : Nat) (s : State) : Host.Outcome State Fault Refusal := .next (s.takeOldest core)

/-- TAKE_INTERRUPT. -/
def execTakeInterrupt (core : Nat) (s : State) : Host.Outcome State Fault Refusal :=
  .next (if !(s.core core).takesInterrupt then s
    else
      let pc := s.hingePc core
      let s := s.modifyHinge core (fun h => { h with tret := pc.setWidth 64, taken := h.icause, stopped := false })
      s.modifyPath (hingeActor core) (fun q => q.goOn ((s.core core).hinge.ivec.setWidth 72)))

/-! ### HFWD (R408) -/

/-- The token that a forwarded stop of cause `c` waits with. -/
def Path.holdToken (q : Path) (c : Cause) (token : Nat) : Path :=
  match q.cond with
  | .parked p => { q with cond := .parked { p with token, raised := true } }
  | .halted h =>
    if q.holdsFault c then { q with cond := .halted { h with parked := h.parked.map (fun p => { p with token, raised := true }) } }
    else { q with cond := .halted { h with token } }
  | _ => q

/-- The record of a forwarded stop. -/
def Stop.record (e : Stop) (core gen token tick : Nat) : FaultRecord :=
  { va := bits e.detail.toNat 71 0, lmask := if e.whole then 0 else e.lanes, lgrp := if e.whole then 0 else e.lgrp
    path := e.path, wslot := e.slot, core
    kind := if e.cause.group = 1 || e.cause.group = 2 || e.cause.group = 20 then bits e.detail.toNat 74 72 else 0
    cause := e.cause, gen, ctx := e.weave.ctx, token, last := true, whole := e.whole, tick }

/-- HFWD: the stop in service goes to the fault ring of its context. -/
def State.forwardStop (s : State) (c : Nat) : State :=
  match (s.core c).hinge.serving with
  | none => s
  | some e =>
    if e.slot = hingeSlot then s
    else
    let s := s.modifyHinge c (fun h => { h with serving := none, hstatus := h.hstatus &&& 3 })
    if (s.weave? c e.slot).map (fun w => w.id) != some e.weave then s
    else
      let (token, s) := s.freshToken
      let s := s.modifyPath (actorOf c e.slot e.path) (fun q => q.holdToken e.cause token)
      s.faultRecord (e.record c (s.ctxGen e.weave.ctx) token s.tick)

def execHfwd (core : Nat) (s : State) : Host.Outcome State Fault Refusal := .next (s.forwardStop core)

/-! ### A failing hinge core (R458) -/

/-- HINGE_FAULT: the core is reloaded and restarts at reset; the stop it served returns to the head of its queue. The
sticky bitmap stays (log 27). -/
def execHingeFault (core : Nat) (s : State) : Host.Outcome State Fault Refusal :=
  let s := s.modifyCore core (fun k => { k with
    stops := (k.hinge.serving.toList ++ k.stops).filter (fun e => e.slot != hingeSlot)
    hinge := { Hinge.reset with cmap := k.hinge.cmap }
    slots := Table.set k.slots hingeSlot (Weave.hinge.modifyPath 0 (fun q => { q with lastIssue := s.serial })) })
  .next (s.firmwareCause 3 (dieOf core) core)

end Sys2Proof.Machine
end

