-- ==== Sys2Proof/Machine/Rsa.lean ====
section
/-! DEFINITION. RSASSA-PSS with SHA-512, MGF1 and a 64-byte salt, for RSA-4096 (R449, R452), and HMAC-SHA-512 (R423, R451). -/

namespace Sys2Proof.Machine

/-- The big-endian bytes of a number. -/
def bigBytes (n v : Nat) : List Byte := (toBytes n v).reverse

/-- A power modulo `n`, of an exponent of at most as many bits as the fuel. -/
def powMod (n : Nat) : (fuel b e : Nat) → Nat
  | 0, _, _ => 1 % n
  | fuel + 1, b, e =>
    let r := powMod n fuel (b * b % n) (e / 2)
    if e % 2 = 1 then r * b % n else r

def xorBytes (a b : List Byte) : List Byte := List.zipWith (fun x y => x ^^^ y) a b

/-- MGF1 with SHA-512. -/
def mgf1 (seed : List Byte) (n : Nat) : List Byte :=
  ((List.range ((n + 63) / 64)).flatMap (fun i => sha512 (seed ++ bigBytes 4 i))).take n

/-- The highest bit of the first byte cleared: an encoded message has 4,095 bits. -/
def clearTop : List Byte → List Byte
  | [] => []
  | b :: l => (b &&& 0x7F) :: l

/-- The 512 bytes that a message is encoded in, with a salt of 64 bytes. -/
def pssEncode (message salt : List Byte) : List Byte :=
  let h := sha512 (List.replicate 8 0 ++ sha512 message ++ salt)
  clearTop (xorBytes (List.replicate 382 0 ++ [1] ++ salt) (mgf1 h 447)) ++ h ++ [0xBC]

/-- A signature checks under a key when what it opens to is the message's encoding with the salt found there. -/
def pssVerifies (modulus exponent : Nat) (message signature : List Byte) : Bool :=
  let v := bigEndian signature
  let em := bigBytes 512 (powMod modulus 4096 v exponent)
  let salt := (xorBytes (em.take 447) (mgf1 ((em.drop 447).take 64) 447)).drop 383
  signature.length == 512 && v < modulus && em == pssEncode message salt

/-- The signature of a message. -/
def pssSign (modulus exponent : Nat) (message salt : List Byte) : List Byte :=
  bigBytes 512 (powMod modulus 4096 (bigEndian (pssEncode message salt)) exponent)

/-- HMAC-SHA-512, with a key of 64 bytes. -/
def hmac512 (key message : List Byte) : List Byte :=
  let k := key ++ List.replicate 64 0
  sha512 (k.map (fun b => b ^^^ 0x5C) ++ sha512 (k.map (fun b => b ^^^ 0x36) ++ message))

/-- An image of a component as R449 signs it: the header up to the signature, and the body. -/
def signedPart (image : List Byte) : List Byte := image.take Config.signatureOffset ++ image.drop 4096

/-- An image's signature checks under the key whose hash is fused (R449). -/
def signatureChecks (image : List Byte) : Bool :=
  let n := Config.imageModulus image
  sha512 (bigBytes 512 n) == bigBytes 64 Config.fusedKeyHash.toNat
    && pssVerifies n Config.keyExponent (signedPart image) ((image.drop Config.signatureOffset).take 512)

end Sys2Proof.Machine
end

