-- ==== Sys2Proof/Machine/Latch.lean ====
section
/-! DEFINITION. The Latch: freezing a core into an image and restoring it (R310, R346, R419 to R425). -/

namespace Sys2Proof.Machine

/-! ### The channel (R419) -/

def latchState (s : State) (d : Nat) : Nat := s.field (latchBlock d) 295 292
def State.setLatch (s : State) (d st : Nat) : State := s.setField (latchBlock d) 295 292 st
def latchCore (s : State) (d : Nat) : Nat := s.field (latchBlock d) 264 256
def latchImage (s : State) (d : Nat) : Nat := s.field (latchBlock d) 383 344 * 4096

/-- A command is accepted in IDLE, SEALED or FAILED, for a core of the channel's die. -/
def latchAccepts (s : State) (d : Nat) : Bool :=
  (latchState s d == 0 || latchState s d == 4 || latchState s d == 8) && d < Config.dies && dieOf (latchCore s d) == d

/-- The channel's interrupt, and the Latch's on the hinge core of its core (R405, R435). -/
def State.latchSignal (s : State) (d core : Nat) : State :=
  (s.raiseVector (128 + d)).modifyHinge core (fun h => { h with icause := h.icause ||| 1 })

/-- A cause of group 22, recorded at the Latch. -/
def State.latchCause (s : State) (d core index : Nat) : State :=
  s.recordCause (cause 22 index) d 4 core (Config.syndrome d s.tick)

/-- A command that fails: FAILED with its index. -/
def State.latchFails (s : State) (d core index : Nat) : State :=
  (((s.setField (latchBlock d) 299 296 index).setLatch d 8).latchCause d core index).latchSignal d core

/-! ### FREEZE (R420, R425) -/

/-- A core emptied: its hinge core stays. -/
def Core.emptied (k : Core) : Core :=
  { Core.reset with
    slots := k.slots.filter (fun x => x.1 == hingeSlot)
    stops := k.stops.filter (fun e => e.slot == hingeSlot)
    hinge := k.hinge, outOfService := k.outOfService, draining := k.draining, frozen := k.frozen }

/-- A weave caught in PARK's save is not yet parked, and issues PARK again (R346). -/
def Weave.unsavePark (w : Weave) : Weave :=
  match w.parking with
  | none => w
  | some _ =>
    { (w.ops.filter (fun o => o.kind == .park)).foldl (fun w o => w.completeOp o.id) w with
      parking := none, evicting := false
      paths := ((w.ops.filter (fun o => o.kind == .park)).foldl (fun w o => w.completeOp o.id) w).paths.map
        (Option.map (fun q => match q.cond with
          | .blocked (.park ..) => { q with cond := .ready }
          | _ => q)) }

/-- The park entries of weaves caught in PARK's save are disarmed. -/
def State.unwatch (s : State) (c : Nat) : State :=
  let ids := (s.core c).slots.filterMap (fun x => x.2.parking.map (fun p => p.1))
  { s with parks := s.parks.filter (fun e => !ids.contains e.saved) }

/-- Lines held exclusively for .cl atomics written back and surrendered. -/
def State.surrender (s : State) (c : Nat) : State :=
  (s.core c).exclusive.foldl (fun s k =>
    (s.flushL1Line c k).modifyCore c (fun x => { x with l1 := Table.erase x.l1 k, exclusive := [] })) s

/-- A stop in service when its core freezes returns to the queue; the hinge core goes on at IVEC (R425). -/
def State.abortService (s : State) (c d : Nat) : State :=
  match (s.core c).hinge.serving with
  | none => s
  | some e =>
    let pc := s.hingePc c
    let s := s.modifyCore c (fun k => { k with
      stops := e :: k.stops
      hinge := { k.hinge with serving := none, hstatus := k.hinge.hstatus &&& 3, tret := pc.setWidth 64 } })
    let s := (s.modifyCore c (fun k => k.stick (cause 22 5))).latchCause d c 5
    s.modifyPath (hingeActor c) (fun q => q.goOn ((s.core c).hinge.ivec.setWidth 72))

/-- What an image holds of a core: all but its hinge core. -/
def Core.scanned (k : Core) : Core :=
  { k with
    slots := (k.slots.filter (fun x => x.1 != hingeSlot)).map (fun x => (x.1, x.2.unsavePark))
    stops := k.stops.filter (fun e => e.slot != hingeSlot)
    hinge := Hinge.reset, frozen := false }

/-- LATCH_FREEZE: the core's clocks stop, and scan-out begins. -/
def State.freeze (s : State) (d : Nat) : State :=
  let c := latchCore s d
  if !latchAccepts s d || (s.core c).frozen then s
  else
    let s := (s.core c).weaves.foldl (fun s x => s.traceWeave c x.1 kindFreeze x.2) s
    let s := (s.surrender c).abortService c d
    let s := s.modifyHinge c (fun h => if h.evictFor.isSome then { h with evict := 5, evictFor := none } else h)
    let content := (s.core c).scanned
    let s := (s.unwatch c).modifyCore c (fun k => { k.emptied with frozen := true })
    let s := s.modifyDie d (fun x => { x with latch := some {
      content, source := c, base := latchImage s d, started := s.tick, scanned := 0, replies := [], held := []
      slowReported := false } })
    ((s.setField (latchBlock d) 343 312 (Config.tileRevision d).toNat).setLatch d 2).countOutstanding d c

def execLatchFreeze (die : Nat) (s : State) : Host.Outcome State Fault Refusal := .next (s.freeze die)

/-- The requests of a core's own weaves, apart from those of weaves that have left it. -/
def State.coreRequests (s : State) (core : Nat) : List RemoteRequest :=
  s.requests.filter (fun r => r.core == core && r.slot < hingeSlot && !s.isSaved r.weave)

/-- Those requests taken from the table. -/
def State.dropRequests (s : State) (core : Nat) : State :=
  let gone := (s.coreRequests core).map (fun r => r.id)
  { s with requests := s.requests.filter (fun r => !gone.contains r.id) }

/-- A scan-out that fails: the weaves of the core are lost with their requests, and their contexts stop (R471). -/
def State.loseCore (s : State) (d : Nat) (l : LatchWork) : State :=
  let s := s.dropRequests l.source
  let ctxs := sortNat (l.content.slots.map (fun x => x.2.id.ctx))
  let s := ctxs.foldl (fun s c => (s.setField (translationBlock c) 52 52 0).raiseVector c) s
  let s := (s.modifyDie d (fun x => { x with latch := none })).modifyCore l.source (fun k => { k with frozen := false })
  s.latchFails d l.source 3

/-- SCAN_OUT_END: 9,264 cycles after the clock stopped (R420). -/
def execScanOutEnd (die : Nat) (s : State) : Host.Outcome State Fault Refusal :=
  .next (match (s.die die).latch with
    | none => s
    | some l =>
      if latchState s die != 2 then s
      else
        let s := s.reachTick (l.started + 9264)
        if Config.scanFails s.serial l.source then s.loseCore die l
        else
          let s := s.modifyDie die (fun x => { x with latch := some { l with scanned := s.tick } })
          (s.setLatch die 3).countOutstanding die l.source)

/-- LATCH_REPLY_CATCH: a reply for the frozen core (R421). -/
def execLatchReplyCatch (die request : Nat) (reply : FabricReply) (s : State) : Host.Outcome State Fault Refusal :=
  .next (match (s.die die).latch, s.requests.find? (fun r => r.id == request) with
    | some l, some r =>
      if r.core = l.source && r.slot < hingeSlot && !r.waiting && !s.isSaved r.weave then
        (s.owe r.port 1 (replyFlits reply)).deliverReply r reply
      else s
    | _, _ => s)

/-- CATCH_SLOW: GRACE µs after scan-out with replies outstanding, reported once. -/
def execCatchSlow (die : Nat) (s : State) : Host.Outcome State Fault Refusal :=
  .next (match (s.die die).latch with
    | none => s
    | some l =>
      if latchState s die != 3 || l.slowReported || s.outstanding l.source = 0 then s
      else
        let s := s.reachTick (l.scanned + s.field (latchBlock die) 415 384 * cyclesPerMicro)
        let s := s.modifyDie die (fun x => { x with latch := some { l with slowReported := true } })
        s.latchCause die l.source 4)

/-! ### The image (R423) -/

def imageMagic : Nat := 0x5A484346

/-- The header of an image. -/
def imageHeader (source trev replies serial tick : Nat) : Nat :=
  imageMagic + source % 512 * 2 ^ 32 + trev % 2 ^ 32 * 2 ^ 64 + replies % 2 ^ 32 * 2 ^ 96 + serial % 2 ^ 64 * 2 ^ 128
    + tick % 2 ^ 64 * 2 ^ 192

/-- The bytes of an image: its header, the scan data and reply slots, whose arrangement is not architectural, and its
trailer: the HMAC over all before it under the key of a boot, or zeros for a dump. -/
def imageContent (header serial : Nat) (sealed : Option Nat) : List Byte :=
  let body := toBytes 4096 header ++ (List.range (4812800 - 4096)).map (fun i => Config.imageByte serial (4096 + i))
  let mac := match sealed with
    | some boot => ofBytes (hmac512 (toBytes 64 (Config.imageKey boot).toNat) body)
    | none => 0
  body ++ toBytes 64 mac ++ List.replicate 4032 0

def Image.bytes (i : Image) : List Byte :=
  imageContent (imageHeader i.source i.trev.toNat i.replies.length i.serial i.tick) i.serial (some i.epoch)

/-- IMAGE_SEAL: with nothing outstanding, the image is sealed, and the core returns to service, empty. -/
def State.seal (s : State) (d : Nat) : State :=
  match (s.die d).latch with
  | none => s
  | some l =>
    if latchState s d != 3 || s.outstanding l.source != 0 then s
    else
      let serial := Config.firstSerial s.bootEpoch + s.imageSerial
      let i : Image := {
        content := l.content, source := l.source, serial, epoch := s.bootEpoch, trev := Config.tileRevision d
        tick := l.started, replies := l.replies, held := l.held, unsent := s.coreRequests l.source, base := l.base }
      let s := (s.dropRequests l.source).writeHome l.base i.bytes
      let s := { s with imageSerial := s.imageSerial + 1, images := s.images ++ [i] }
      let s := s.modifyDie d (fun x => { x with latch := none })
      let s := s.modifyCore l.source (fun k => { k.emptied with frozen := false })
      ((s.setLatch d 4).countOutstanding d l.source).latchSignal d l.source

def execImageSeal (die : Nat) (s : State) : Host.Outcome State Fault Refusal := .next (s.seal die)

/-! ### RESTORE (R424) -/

/-- The sealed image whose bytes lie at an address: the one whose HMAC, over bytes 0 to 4,812,799, checks there. -/
def State.imageAt (s : State) (base : Nat) : Option Image :=
  s.images.find? (fun i => i.epoch == s.bootEpoch && s.mem.readBytes base 4812864 == i.bytes.take 4812864)

/-- Why a restore fails, in the order of R424. -/
def State.restoreFails (s : State) (d core base : Nat) : Option Nat :=
  let k := s.core core
  if !k.weaves.isEmpty || !k.stops.isEmpty || !k.lateStops.isEmpty || k.hinge.serving.isSome || k.frozen || k.outOfService then some 2
  else if bits (s.readHomeNat base 64) 95 64 != (Config.tileRevision d).toNat then some 1
  else match s.imageAt base with
    | none => some 0
    | some i => if s.restored.contains i.serial then some 6 else none

/-- The paths of a restored weave decode directly until their next safe point (R356). -/
def Weave.decodeDirectly (w : Weave) : Weave :=
  { w with paths := w.paths.map (Option.map (fun q => { q with code := none })) }

/-- An image loaded onto a core: the content, the caught replies, the held replies, and the acquire. Its requests that had not
left their core leave this one. Matrix operations that were waiting translate their pages again. -/
def State.load (s : State) (core : Nat) (i : Image) : State :=
  let s := s.modifyCore core (fun k => { i.content with
    slots := i.content.slots.map (fun x => (x.1, x.2.decodeDirectly)) ++ k.slots.filter (fun x => x.1 == hingeSlot)
    matrix := i.content.matrix.map (fun m => { m with placed := false })
    hinge := k.hinge
    tlb := [], walkAhead := [], fetch := [], exclusive := []
    outOfService := k.outOfService, draining := k.draining, frozen := false })
  let s := { s with requests := s.requests ++ i.unsent.map (fun (r : RemoteRequest) => { r with core := core }) }
  let s := i.replies.foldl (fun s r => s.answer { r.request with core } r.reply) s
  let s := i.held.foldl (fun s h => match s.tokenWeave h.1 h.2.1 with
    | some (c, slot) => s.replyTo c slot h.2.1 h.2.2
    | none => s) s
  let s := s.acquire core scopeMd
  (s.core core).weaves.foldl (fun s x => s.traceWeave core x.1 kindRestore x.2) s

/-- LATCH_RESTORE. -/
def State.restore (s : State) (d : Nat) : State :=
  let core := latchCore s d
  let base := latchImage s d
  if !latchAccepts s d then s
  else match s.restoreFails d core base, s.imageAt base with
    | some i, _ => s.latchFails d core i
    | none, some i =>
      let s := { s with restored := s.restored ++ [i.serial] }
      (((s.load core i).setLatch d 0).latchSignal d core)
    | none, none => s

def execLatchRestore (die : Nat) (s : State) : Host.Outcome State Fault Refusal := .next (s.restore die)

end Sys2Proof.Machine
end

