-- ==== Sys2Proof/Machine/HostPort.lean ====
section
/-! DEFINITION. What the host does to the module: BAR0's registers by the Access codes of their fields (R5, R6, R426), BAR2
and CXL.mem (R427, R436), and the host link. -/

namespace Sys2Proof.Machine

/-! ### Register fields (R5) -/

/-- The fields of a block that a write reaches: read-write ones, and those in which writing 1 clears. -/
structure Writable where
  rw : List (Nat × Nat)
  w1c : List (Nat × Nat)
deriving DecidableEq, Repr

/-- A mask of fields [hi:lo]. -/
def maskOf (fs : List (Nat × Nat)) : BitVec 512 :=
  fs.foldl (fun m x => m ||| BitVec.ofNat 512 ((2 ^ (x.1 + 1 - x.2) - 1) * 2 ^ x.2)) 0

/-- What BAR0 holds at an offset: a block of 64 bytes and its kind, bytes, or nothing. -/
inductive Region where
  | readOnly (base : Nat)
  | mailbox
  | debug (c : Nat)
  | queue (q : Nat)
  | translation (c : Nat)
  | service (c : Nat)
  | transom (d : Nat)
  | latch (d : Nat)
  | port (k : Nat)
  | fabric
  | gang
  | coreStatus (n : Nat)
  | route (i : Nat)
  | msixTable (i : Nat)
  | msixPending (i : Nat)
  | aperture
  /-- A sticky cause bitmap: the Latch's, or the security processor's. -/
  | causeMap (latch : Bool)
  | reserved
deriving DecidableEq, Repr

/-- The layout of BAR0 (R426, R447). The cause bitmaps of the Latch and of the security processor (R403), to which the spec
gives no place, stand beyond its 16 MiB (log 72). -/
def regionOf (off : Nat) : Region :=
  if off < 0x240 then .readOnly (off - off % 64)
  else if 0x1000 ≤ off && off < 0x1040 then .mailbox
  else if 0x2000 ≤ off && off < 0x3000 then .debug ((off - 0x2000) / 64)
  else if 0x10000 ≤ off && off < 0x14000 then .queue ((off - 0x10000) / 64)
  else if 0x20000 ≤ off && off < 0x21000 then .translation ((off - 0x20000) / 64)
  else if 0x21000 ≤ off && off < 0x22000 then .service ((off - 0x21000) / 64)
  else if 0x30000 ≤ off && off < 0x30100 then .transom ((off - 0x30000) / 64)
  else if 0x31000 ≤ off && off < 0x31100 then .latch ((off - 0x31000) / 64)
  else if 0x40000 ≤ off && off < 0x41800 then .coreStatus ((off - 0x40000) / 16)
  else if 0x50000 ≤ off && off < 0x50180 then .port ((off - 0x50000) / 64)
  else if 0x50400 ≤ off && off < 0x50440 then .fabric
  else if 0x51000 ≤ off && off < 0x51040 then .gang
  else if 0x52000 ≤ off && off < 0x53000 then .route (off - 0x52000)
  else if 0x60000 ≤ off && off < 0x61000 then .msixTable (off - 0x60000)
  else if 0x61000 ≤ off && off < 0x61020 then .msixPending (off - 0x60000)
  else if 0x70000 ≤ off && off < 0x70008 then .aperture
  else if 0x1000000 ≤ off && off < 0x1000080 then .causeMap (off < 0x1000040)
  else .reserved

/-- The writable fields of a block (R390, R395, R419, R428, R433, R439, R440, R445, R453, R459). MODID is writable until it
is locked. -/
def Region.writable (r : Region) (modidLocked : Bool) : Writable :=
  match r with
  | .mailbox => { rw := [(127, 88), (63, 32), (24, 16)], w1c := [] }
  | .debug _ => { rw := [(439, 368), (335, 304), (271, 264), (47, 32), (12, 8), (2, 0)], w1c := [(3, 3)] }
  | .queue _ => { rw := [(511, 403), (399, 384), (6, 5)], w1c := [(7, 7)] }
  | .translation _ => { rw := [(203, 160), (127, 112), (107, 64), (52, 0)], w1c := [(145, 144)] }
  | .service _ => { rw := [(207, 111), (103, 32)], w1c := [(110, 110)] }
  | .transom _ => { rw := [(255, 64), (31, 8), (2, 0)], w1c := [] }
  | .latch _ => { rw := [(415, 344), (264, 256)], w1c := [] }
  | .port _ => { rw := [(1, 0)], w1c := [] }
  | .fabric => { rw := [(255, 128), (63, 16), (12, 12)] ++ (if modidLocked then [] else [(11, 0)]), w1c := [] }
  | .gang => { rw := [(511, 346)], w1c := [] }
  | _ => { rw := [], w1c := [] }

/-- The offset of a region's 64-byte block. -/
def Region.block : Region → Option Nat
  | .readOnly b => some b
  | .mailbox => some mailboxBlock
  | .debug c => some (debugBlock c)
  | .queue q => some (queueBlock q)
  | .translation c => some (translationBlock c)
  | .service c => some (serviceBlock c)
  | .transom d => some (transomBlock d)
  | .latch d => some (latchBlock d)
  | .port k => some (portBlock k)
  | .fabric => some fabricBlock
  | .gang => some gangBlock
  | _ => none

/-! ### Commands -/

/-- The bits [hi:lo] of a block lie within the `size` bytes written at byte `o` of it. -/
def coversField (o size hi lo : Nat) : Bool := 8 * o ≤ lo && hi < 8 * (o + size)

/-- The events that the write-only fields, and TAIL and RQTAIL, of a write stand for. `x` is the block's value with the
written bytes in place. -/
def Region.commands (r : Region) (o size x : Nat) : List Instr :=
  match r with
  | .queue q => if coversField o size 351 320 then [.contQueueTailWrite q (bits x 351 320)] else []
  | .translation c => if coversField o size 223 208 then [.replyRingTailWrite c (bits x 223 208)] else []
  | .service c => if coversField o size 109 109 && bitAt x 109 then [.retall c] else []
  | .latch d =>
    if !coversField o size 2 0 then []
    else if bits x 2 0 = 1 then [.latchFreeze d] else if bits x 2 0 = 2 then [.latchRestore d] else []
  | .gang =>
    if !coversField o size 1 0 then []
    else if bits x 1 0 = 1 then [.gangArm] else if bits x 1 0 = 2 then [.gangDisarm] else []
  | _ => []

/-- The event of a mailbox command (R454). -/
def mailboxCommand : Nat → Option Instr
  | 1 => some .attest
  | 2 => some .stage
  | 3 => some .applyUpdate
  | 4 => some .floor
  | 5 => some .drain
  | 6 => some .returnCore
  | 7 => some .retire
  | _ => none

/-- A mailbox command ends: done, or failed with an index (R453). -/
def State.endCommand (s : State) (fail : Option Nat) : State :=
  let st := match fail with
    | none => 2
    | some _ => 3
  ((s.setField mailboxBlock 87 80 st).setField mailboxBlock 79 72 (fail.getD 0)).raiseVector securityVector

/-- A command written to the mailbox: ignored while one runs (R453). -/
def State.mailboxWrite (s : State) (cmd : Nat) : State :=
  if s.field mailboxBlock 87 80 = 1 then s
  else match mailboxCommand cmd with
    | some i => (s.setField mailboxBlock 87 80 1).pushEvent i
    | none => s.endCommand (some 255)

/-! ### Writes -/

/-- READY, and the boot stage (R448). -/
def State.isReady (s : State) : Bool := s.field bootBlock 0 0 == 1
def State.bootStage (s : State) : Nat := s.field bootBlock 19 16

/-- A block after a write of `size` bytes at byte `o` of it. -/
def writtenBlock (old : BitVec 512) (w : Writable) (o size value : Nat) : BitVec 512 :=
  let window := BitVec.ofNat 512 ((2 ^ (8 * size) - 1) * 2 ^ (8 * o))
  let new := BitVec.ofNat 512 (value % 2 ^ (8 * size) * 2 ^ (8 * o))
  let rw := maskOf w.rw &&& window
  ((old &&& ~~~rw) ||| (new &&& rw)) &&& ~~~(maskOf w.w1c &&& new)

/-- Whether a command of a write may run: launch traffic waits for READY (R448). -/
def State.accepts (s : State) : Instr → Bool
  | .contQueueTailWrite .. => s.isReady
  | _ => true

/-- A write to a block. -/
def State.writeBlock (s : State) (r : Region) (base o size value : Nat) : State :=
  let old := s.block base
  let new := writtenBlock (BitVec.ofNat 512 old) (r.writable s.modidLocked) o size value
  let s := s.setBlock base new.toNat
  let s := if r = .fabric && s.field fabricBlock 12 12 = 1 then { s with modidLocked := true } else s
  let raw := withBits old (8 * (o + size) - 1) (8 * o) value
  match r with
  | .mailbox => if coversField o size 7 0 then s.mailboxWrite (bits raw 7 0) else s
  | _ => { s with agenda := ((r.commands o size raw).filter s.accepts).map Move.event ++ s.agenda }

/-- Bytes written one by one from an index on. -/
def State.writeEach (s : State) (put : State → Nat → Byte → State) (i : Nat) : List Byte → State
  | [] => s
  | b :: l => State.writeEach (put s i b) put (i + 1) l

/-- APERTURE's writable bits (R426). -/
def apertureMask : BitVec 64 := 0x000FFFF000000000

/-- A write of `size` bytes to BAR0 at an offset: an aligned access of 4 or 8 bytes, by the fields' Access codes; any other
has no effect (R426). After a boot failure the link answers configuration requests only (R450). -/
def State.writeBar0 (s : State) (off size value : Nat) : State :=
  if (size != 4 && size != 8) || off % size != 0 || s.bootStage = 15 then s
  else
    let r := regionOf off
    match r with
    | .route i => s.writeEach (fun s a b => { s with routes := s.routes.write a b }) i (toBytes size value)
    | .msixTable i =>
      let s := s.writeEach State.setMsixByte i (toBytes size value)
      s.unmaskVector (i / 16)
    | .aperture =>
      let o := off % 8
      let w : BitVec 64 := BitVec.ofNat 64 ((2 ^ (8 * size) - 1) * 2 ^ (8 * o)) &&& apertureMask
      { s with aperture := (s.aperture &&& ~~~w) ||| (BitVec.ofNat 64 (value % 2 ^ (8 * size) * 2 ^ (8 * o)) &&& w) }
    | .causeMap latch =>
      let cleared : BitVec 512 := BitVec.ofNat 512 (value % 2 ^ (8 * size) * 2 ^ (8 * (off % 64)))
      if latch then { s with latchMap := s.latchMap &&& ~~~cleared } else { s with securityMap := s.securityMap &&& ~~~cleared }
    | _ =>
      match r.block with
      | some base => s.writeBlock r base (off % 64) size value
      | none => s

def execRegisterWrite (offset size value : Nat) (s : State) : Host.Outcome State Fault Refusal :=
  .next (s.writeBar0 offset size value)

/-! ### Reads -/

/-- Fabric time (R443): ns. -/
def State.ftime (s : State) : Nat := s.ftimeBase + s.tick * 10 / 21

/-- The status word of a core (R431): a frozen core's weaves count until its image is sealed. -/
def State.coreStatus (s : State) (n : Nat) : Nat :=
  let k := s.core n
  let frozen := match (s.die (dieOf n)).latch with
    | some l => if l.source = n then l.content.slots.length else 0
    | none => 0
  bit01 k.outOfService * 2 ^ 66 + bit01 k.frozen * 2 ^ 65 + (k.weaves.length + frozen) % 128 * 2 ^ 58
    + s.osig n % 2 ^ 16 * 2 ^ 32 + s.oas n % 2 ^ 32

/-- A block as it reads: with FTIME as it runs. -/
def State.readBlock (s : State) (r : Region) (base : Nat) : Nat :=
  if r = .fabric then withBits (s.block base) 127 64 s.ftime else s.block base

/-- What a read of `size` bytes of BAR0 gives: all ones where the access is not an aligned one of 4 or 8 bytes or the boot has
failed (log 72), and zero at a reserved offset (R6, R426, R450). -/
def State.readBar0 (s : State) (off size : Nat) : Nat :=
  if (size != 4 && size != 8) || off % size != 0 || s.bootStage = 15 then 2 ^ (8 * size) - 1
  else
    let r := regionOf off
    match r with
    | .coreStatus n => s.coreStatus n / 2 ^ (8 * (off % 16)) % 2 ^ (8 * size)
    | .route i => ofBytes (s.routes.readBytes i size)
    | .msixTable i | .msixPending i => ofBytes ((List.range size).map (fun j => s.msixByte (i + j)))
    | .aperture => s.aperture.toNat / 2 ^ (8 * (off % 8)) % 2 ^ (8 * size)
    | .causeMap latch => (if latch then s.latchMap else s.securityMap).toNat / 2 ^ (8 * (off % 64)) % 2 ^ (8 * size)
    | _ =>
      match r.block with
      | some base => s.readBlock r base / 2 ^ (8 * (off % 64)) % 2 ^ (8 * size)
      | none => 0

/-! ### BAR2 and CXL.mem (R427, R436, R465) -/

/-- Every byte of a range satisfies `ok`, a property of 64 KiB frames. -/
def wholeRange (ok : Nat → Bool) (pa n : Nat) : Bool := ok pa && ok (pa + n - 1) && n ≤ 65536

/-- What the host may write: a range that exists, outside the firmware region. -/
def hostWritable (pa : Nat) : Bool := physExists pa && !isFirmware pa

/-- A frame or slot that the frame table has an entry for (R379, R394). -/
def frameExists (f : Nat) : Bool := isHbm (f * 65536) || isCxl (f * 65536) || (2 ^ 36 ≤ f && f < 2 ^ 36 + 2 ^ 30)

/-- An entry of the frame table as its 16 bits (R394). -/
def Frame.code (f : Frame) : Nat := f.owner % 64 + bit01 f.free * 2 ^ 14 + bit01 f.shared * 2 ^ 15
def Frame.ofCode (x : Nat) : Frame := { shared := bitAt x 15, free := bitAt x 14, owner := bits x 5 0 }

/-- A host access to a physical address, or to the frame table. What a read gives is kept for the host. -/
def State.hostAccess (s : State) (pa : Nat) : HostAccess → State
  | .read n =>
    if wholeRange physExists pa n then
      let s := s.touch pa
      { s with hostData := s.mem.readBytes pa n }
    else { s with hostData := List.replicate n 0xFF }
  | .readFrame f => { s with hostData := if frameExists f then toBytes 2 (s.frame f).code else [0xFF, 0xFF] }
  | .writeFrame f x => if frameExists f then s.setFrame f (Frame.ofCode x.toNat) else s
  | .write l => if l.isEmpty || !wholeRange hostWritable pa l.length then s else s.writeHome pa l

def barTwoSize : Nat := 64 * 2 ^ 30

def execHostBar2Access (offset : Nat) (access : HostAccess) (s : State) : Host.Outcome State Fault Refusal :=
  .next (if !s.isReady || barTwoSize ≤ offset then s else s.hostAccess (s.aperture.toNat + offset) access)

def execCxlMemAccess (address : Nat) (access : HostAccess) (s : State) : Host.Outcome State Fault Refusal :=
  .next (if !s.isReady || !s.hostCxl || hbmTop ≤ address then s else s.hostAccess address access)

/-! ### The link (R436) -/

/-- The widths to which the link falls back. -/
def linkWidths : List Nat := [16, 8, 4, 1]

/-- MSI-X enabled or disabled in configuration space: once it is enabled, what is pending and not masked is sent (R435). A
boot that has failed raises its vector then, since no host access can unmask it any more (R450, log 28). -/
def State.setMsix (s : State) (on : Bool) : State :=
  let newly := on && !s.msixOn
  let s := { s with msixOn := on }
  if !newly then s
  else if s.bootStage = 15 then { s with vectors := s.vectors ++ [securityVector] }
  else (List.range 256).foldl State.unmaskVector s

/-- HOST_LINK_TRAINED: a PCIe generation from 1 to 7, a width, whether CXL was negotiated, and whether MSI-X is enabled. -/
def execHostLinkTrained (rate width : Nat) (config : HostConfig) (s : State) : Host.Outcome State Fault Refusal :=
  .next (if 1 ≤ rate && rate ≤ 7 && linkWidths.contains width then
    { s with hostRate := rate, hostWidth := width, hostCxl := config.cxl }.setMsix config.msix
  else s)

end Sys2Proof.Machine
end

