-- ==== Sys2Proof/Machine/Fabric.lean ====
section
/-! DEFINITION. The Wasis fabric: ports and flits (R437 to R439), requests of other modules and their responses (R441,
R442), timeouts, and fabric time (R443). -/

namespace Sys2Proof.Machine

/-! ### Ports -/

/-- A message for a module: dropped where no route is UP. -/
def State.postTo (s : State) (module vc : Nat) (m : Message) : State :=
  match s.routeTo module with
  | none => s
  | some p => if s.portUp p then s.post p vc m else s

/-- WASIS_LINK_UP: a port that may train is UP with its lanes, its partner and fresh credits. -/
def execWasisLinkUp (port lanes peer : Nat) (s : State) : Host.Outcome State Fault Refusal :=
  let b := portBlock port
  .next (if 6 ≤ port || lanes < 1 || 4 < lanes || s.field b 0 0 = 0 || s.portUp port then s
    else
      let s := (((s.setField b 2 2 1).setField b 35 32 lanes).setField b 63 52 peer)
      let s := (List.range 4).foldl (fun s vc => s.setCredit port vc (initialCredits vc)) s
      (s.setPort port { Port.reset with timeAt := s.tick }).raiseVector (136 + port))

/-! ### Replies to this module's requests -/

/-- A reply to the dispatcher's PARENT decrement (R32). -/
def State.decrementReply (s : State) (r : RemoteRequest) (reply : FabricReply) : State :=
  let s := s.finishRequest r
  match s.live.find? (fun l => l.ctx == r.weave.ctx && l.record == r.weave.record) with
  | none => s
  | some l =>
    match reply with
    | .data b => s.decremented l r.va (ofBytes b)
    | .failed _ _ => s.parentFault l r.va

/-- The pseudo-slot of the notices that tell other modules of wake writes (R189). -/
def noticeSlot : Nat := 66

/-- A notice has arrived at its module: its watch is over. One that failed is sent again. -/
def State.noticeReply (s : State) (r : RemoteRequest) (reply : FabricReply) : State :=
  let s := s.finishRequest r
  match reply, r.what with
  | .data _, .woken token _ =>
    { s with watches := s.watches.filter (fun x => !(x.token == token && x.module == r.module)) }
  | _, _ => s

/-- Notices of the watches that have been written, as credits allow. -/
def State.settleWatches (s : State) : State :=
  s.watches.foldl (fun s x =>
    match x.woken with
    | none => s
    | some v =>
      let what := RemoteOp.woken x.token v
      if s.requests.any (fun r => r.slot == noticeSlot && r.module == x.module && r.what == what)
          || (s.routeFails x.module).isSome || s.awaitsCredit x.module what then s
      else s.send {
        id := 0, weave := { ctx := x.ctx, record := 0, inst := 0, gen := 0 }, core := 0, slot := noticeSlot, path := 0
        lane := 0, op := 0, port := 0, module := x.module, sent := 0, ctx := x.ctx, va := 0, what, dest := .none
        pc := 0, next := 0, captured := { sregs := [], aregs := [], rng := 0 }, whole := true, waiting := false }) s

/-- The reply to a trace record's store (R460 to R462). -/
def State.traceReply (s : State) (r : RemoteRequest) (reply : FabricReply) : State :=
  let s := s.finishRequest r
  match reply with
  | .data _ => s.traceWritten r.weave.ctx
  | .failed .. => s.suspendTrace r.weave.ctx r.va

/-- A reply to an outstanding request: of the dispatcher, a notice, a look, a trace record, or of a weave. -/
def State.takeResponse (s : State) (r : RemoteRequest) (reply : FabricReply) : State :=
  if r.slot = dispatcherSlot then s.decrementReply r reply
  else if r.slot = noticeSlot then s.noticeReply r reply
  else if r.slot = glanceSlot then (s.finishRequest r).glanceReply r reply
  else if r.slot = traceSlot then s.traceReply r reply
  else s.deliverReply r reply

/-- Every request of a list fails with an index. -/
def State.failAll (s : State) (index : Nat) (l : List RemoteRequest) : State :=
  l.foldl (fun s r => s.takeResponse r (.failed index 0)) s

/-- Requests that wait within their cores leave, in order, as reply slots become free (R421), unless the core's clocks stand. -/
def State.settleSends (s : State) : State :=
  (s.requests.filter (fun r => r.waiting)).foldl (fun s r =>
    if ((s.core r.core).frozen && !s.isSaved r.weave) || s.lacksSlot r then s
    else match s.routeFails r.module with
      | some i => s.takeResponse r (.failed i 0)
      | none =>
        let r := { r with waiting := false, port := (s.routeTo r.module).getD 0, sent := s.tick }
        { s with requests := s.requests.map (fun (x : RemoteRequest) => if x.id = r.id then r else x) }.post r.port (vcOf r.what)
          (s.requestMessage r)) s

/-- What the ports do of their own accord: messages that have credits leave, and credits owed go back in flit headers (R437,
R438). -/
def State.settleCredits (s : State) : State :=
  s.ports.foldl (fun s (p, _) =>
    if !s.portUp p then s
    else
      let s := s.flushPort p (s.port p).queued
      let x := s.port p
      if x.owed.isEmpty then s
      else x.owed.foldl (fun s (vc, n) => s.emit p vc (.credit vc n)) (s.setPort p { x with owed := [] })) s

/-- WASIS_LINK_DOWN: outstanding requests of the port end with LINK_DOWN. -/
def execWasisLinkDown (port : Nat) (s : State) : Host.Outcome State Fault Refusal :=
  let b := portBlock port
  .next (if !s.portUp port || 6 ≤ port then s
    else
      let s := (s.setField b 2 2 0).setField b 35 32 0
      let s := s.setPort port Port.reset
      let s := s.failAll 2 (s.requests.filter (fun r => r.port == port && !r.waiting))
      s.raiseVector (136 + port))

/-- A response for this module ends its request, and one that nothing awaits is dropped; a response for another module is
forwarded while its hops last. -/
def State.receiveResponse (s : State) (response : FabricResponse) : State :=
  if response.dest != s.moduleNumber then
    match hopsLeft response.hops with
    | none => s
    | some hops => s.postTo response.dest 1 (.response { response with hops })
  else match s.requests.find? (fun r => r.id == response.id && !r.waiting) with
    | none => s
    | some r => s.takeResponse r response.reply

/-- FABRIC_RESPONSE_RECEIVE: taken unconditionally, so that its credits go back at once (R438). -/
def execFabricResponseReceive (port : Nat) (response : FabricResponse) (s : State) : Host.Outcome State Fault Refusal :=
  .next (if !s.portUp port then s else (s.owe port 1 (replyFlits response.reply)).receiveResponse response)

/-- Cycles of RTIMEOUT (R440). -/
def State.remoteTimeout (s : State) : Nat := s.field fabricBlock 63 32 * cyclesPerMicro

/-- REMOTE_TIMEOUT_EXPIRY. -/
def execRemoteTimeoutExpiry (request : Nat) (s : State) : Host.Outcome State Fault Refusal :=
  .next (match s.requests.find? (fun r => r.id == request && !r.waiting) with
    | none => s
    | some r => (s.reachTick (r.sent + s.remoteTimeout)).takeResponse r (.failed 1 0))

/-! ### Flits (R437) -/

/-- The credits of one channel that a flit returns. -/
def State.returnCredits (s : State) (p vc n : Nat) : State :=
  let s := s.setCredit p vc (min (initialCredits vc) (s.credit p vc + n))
  s.flushPort p (s.port p).queued

/-- The payload of a flit accepted: with it a message is whole, or has more to come. -/
def State.takePayload (s : State) (port : Nat) (payload : List Byte) : State :=
  let x := s.port port
  let parts := x.parts ++ [payload]
  match Config.flitMessage parts with
  | some m => (s.setPort port { x with parts := [] }).arrive port m
  | none => s.setPort port { x with parts }

/-- The flits from a sequence number on sent again, those of them that the replay buffer of 256 still holds, and counted. -/
def State.replayFlits (s : State) (port seq : Nat) : State :=
  let l := ((s.port port).sentFlits.dropWhile (fun x => x.1 != seq)).map (fun x => (port, x.1))
  ({ s with replayedFlits := s.replayedFlits ++ l } : State).setField (portBlock port) 223 192
    (s.field (portBlock port) 223 192 + l.length)

/-- What the codewords of a flit corrected, and those that could not be (R439). -/
def State.countSymbols (s : State) (port corrected bad : Nat) : State :=
  let b := portBlock port
  (s.setField b 191 160 (s.field b 191 160 + corrected)).setField b 159 128 (min (2 ^ 32 - 1) (s.field b 159 128 + bad))

/-- FLIT_RECEIVE: a flit of 256 bytes on an UP port. One whose CRC fails is asked for again; the one expected is accepted: it
returns credits, carries its message, and may ask for flits again; any other is no new flit. -/
def execFlitReceive (port : Nat) (received : ReceivedFlit) (s : State) : Host.Outcome State Fault Refusal :=
  let flit := received.bytes
  .next (if !s.portUp port || flit.length != 256 then s
    else
      let s := s.countSymbols port received.corrected received.bad
      let x := s.port port
      if (crc64 (flit.take 248)).toNat != ofBytes (flit.drop 248) then s.setPort port { x with replayRequested := true }
      else if (Config.flitSequence flit).toNat != x.expectSeq then s
      else
        let s := s.setPort port { x with expectSeq := (x.expectSeq + 1) % 4096, replayRequested := false }
        let s := s.returnCredits port (Config.flitCreditChannel flit).toNat (Config.flitCredits flit)
        let s := match Config.flitReplay flit with
          | some n => s.replayFlits port n.toNat
          | none => s
        s.takePayload port ((flit.drop 8).take 240))

/-! ### Requests of other modules (R442) -/

/-- What a request needs of its page. -/
def needOf : RemoteOp → Need
  | .load _ | .watch .. => needRead
  | .store _ | .wake _ | .sector .. => needWrite
  | _ => needBoth

/-- Bytes of a 32-byte sector written, some of them poisoned (R81, R177). -/
def State.writeSector (s : State) (pa : Nat) (mask poison : BitVec 32) (bytes : List Byte) : State :=
  let s := s.writePicked pa (((List.range 32).zip bytes).filter (fun x => mask.getLsbD x.1))
  { s with spoiled := s.spoiled ++ ((List.range 32).filter (fun i => poison.getLsbD i)).map (fun i => pa + i) }

/-- The places of `m` entries of a queue of this module, `none` while a page moves; an entry on another module, or one that
fails, is the request's failure. -/
def State.entryPlaces (s : State) (ctx d first m : Nat) (n : Need) : State × Option (Except FabricReply (List Nat)) :=
  (List.range m).foldl (fun acc j =>
    match acc with
    | (s, some (.ok l)) =>
      (match s.agentRead 0 ctx (entryVa d (first + j)) n with
        | (s, .phys pa) => (s.touch pa, some (.ok (l ++ [pa])))
        | (s, .fault c _) => (s, if c = tierWait then none else some (.error (.failed 0 (causeCode c))))
        | (s, .remote ..) => (s, some (.error (.failed 4 0)))
        | (s, _) => (s, none))
    | r => r) (s, some (.ok []))

/-- A push of another module's path to a queue of this one (R307): how many entries were written. -/
def State.pushFabric (s : State) (ctx pa : Nat) (nb : Bool) (entries : List (List Byte)) : State × Option FabricReply :=
  let d := s.readHomeNat pa 64
  let (head, tail) := s.queueState pa
  let room := 2 ^ qCap d - held head tail
  let m := if nb then min entries.length room else if room < entries.length then 0 else entries.length
  match s.entryPlaces ctx d tail m needWrite with
  | (s, none) => (s, none)
  | (s, some (.error r)) => (s, some r)
  | (s, some (.ok l)) =>
    (((l.zip entries).foldl (fun s x => s.writeHome x.1 x.2) s).setQueue pa head (tail + m), some (.data (toBytes 4 m)))

/-- A pop of another module's path (R307): how many entries, and their bytes. -/
def State.popFabric (s : State) (ctx pa : Nat) (nb : Bool) (count : Nat) : State × Option FabricReply :=
  let d := s.readHomeNat pa 64
  let (head, tail) := s.queueState pa
  let m := min count (held head tail)
  if !nb && m < count then (s, some (.data (toBytes 4 0)))
  else if !s.entriesWritten pa head m then (s, none)
  else match s.entryPlaces ctx d head m needRead with
    | (s, none) => (s, none)
    | (s, some (.error r)) => (s, some r)
    | (s, some (.ok l)) =>
      (s.setQueue pa (head + m) tail, some (.data (toBytes 4 m ++ l.flatMap (fun x => s.mem.readBytes x (2 ^ qEsz d)))))

/-- The operation performed at its home slice; answers the data of the response, or none while it must wait. -/
def State.performFabric (s : State) (r : FabricRequest) (pa : Nat) : State × Option FabricReply :=
  match r.op with
  | .load n => (s, some (.data (s.mem.readBytes pa n)))
  | .store bytes => (s.writeHome pa bytes, some (.data []))
  | .atomic aop n v c =>
    let old := s.mem.readBytes pa n
    (s.writeHome pa (toBytes n (atomicNew aop n (ofBytes old) v c)), some (.data old))
  | .decrement =>
    let (s, old) := s.decrementAt pa
    (s, some (.data (toBytes 4 old)))
  | .hoop u => (s.writeHomeNat pa 64 (hoopUpdate u (s.readHomeNat pa 64)), some (.data []))
  | .wake v => (s.writeHomeNat pa 8 v, some (.data []))
  | .push q =>
    if mayPush s r.ctx q then (s.pushEntry q r.va r.ctx false, some (.data [])) else (s, some (.failed 4 0))
  | .sector mask poison bytes => (s.writeSector pa mask poison bytes, some (.data []))
  | .queuePush nb entries => s.pushFabric r.ctx pa nb entries
  | .queuePop nb count => s.popFabric r.ctx pa nb count
  | .append fill g old new keys values =>
    if s.readHomeNat (pa + trailerAt) 8 != old then (s, some (.data (toBytes 4 0)))
    else
      let s := if keys.isEmpty then s else
        (s.writeHome (pa + fill * g) keys).writeHome (pa + 128 * g + fill * g) values
      (s.writeHomeNat (pa + trailerAt) 8 new, some (.data (toBytes 4 1)))
  | .watch expect token =>
    if s.readHomeNat pa 8 != expect then (s, some (.data (toBytes 8 0)))
    else ({ s with watches := s.watches ++ [{ pa, module := r.source, ctx := r.ctx, token, woken := none }] },
      some (.data (toBytes 8 token)))
  | .woken .. => (s, some (.data []))

/-- A notice of a wake write: for the continuation that is parked on it, or that is about to be. -/
def State.takeNotice (s : State) (token value : Nat) : State :=
  if s.parks.any (fun (e : ParkEntry) => e.remote == some token) then
    { s with parks := s.parks.map (fun (e : ParkEntry) =>
      if e.remote == some token && e.woken.isNone then { e with woken := some (BitVec.ofNat 64 value) } else e) }
  else { s with notices := s.notices ++ [(token, value)] }

/-- A member that is not yet ready accepts nothing of VC 0 or VC 2 for the gang context (R444). -/
def State.gangHolds (s : State) (r : FabricRequest) : Bool :=
  s.field gangBlock 12 10 == 1 && s.field gangBlock 351 346 == r.ctx && (vcOf r.op == 0 || vcOf r.op == 2)

/-- A request judged at its owner: none while it must wait. -/
def State.judgeFabric (s : State) (r : FabricRequest) : State × Option FabricReply :=
  if 64 ≤ r.ctx || s.field (serviceBlock r.ctx) 111 111 = 0 || s.ctxDomain r.ctx != r.domain then (s, some (.failed 4 0))
  else match r.op with
    | .woken token value => (s.takeNotice token value, some (.data []))
    | _ =>
      match s.agentRead 0 r.ctx r.va (needOf r.op) with
      | (s, .fault c _) => if c = tierWait then (s, none) else (s, some (.failed 0 (causeCode c)))
      | (s, .busy) | (s, .nowhere _) => (s, none)
      | (s, .remote _ _) => (s, some (.failed 4 0))
      | (s, .phys pa) => (s.touch pa).performFabric r pa

/-- The response to a request. -/
def State.respond (s : State) (r : FabricRequest) (reply : FabricReply) : State :=
  s.postTo r.source 1 (.response { id := r.id, dest := r.source, hops := firstHops, reply })

/-- Whether a request's response can be reserved, which those of VC 0 and VC 2 need (R438): its port has the credits of its
flits, and no response waits for any. -/
def State.canRespond (s : State) (r : FabricRequest) : Bool :=
  vcOf r.op == 3 || match s.routeTo r.source with
  | none => false
  | some p => s.portUp p && flitsFor (replyBytes r.op) ≤ s.credit p 1 && !(s.port p).queued.any (fun x => x.1 == 1)

/-- A request passed on by the route table, one hop less (R441, R442). -/
def State.forward (s : State) (r : FabricRequest) : State :=
  match hopsLeft r.hops, s.routeTo r.dest with
  | some hops, some p =>
    if s.portUp p then s.post p (vcOf r.op) (.request { r with hops }) else s.respond r (.failed 2 0)
  | _, _ => s.respond r (.failed 4 0)

/-- A request waits at the module. -/
def State.holdIncoming (s : State) (port : Nat) (r : FabricRequest) : State :=
  { s with incoming := s.incoming ++ [(port, r)] }

/-- A request admitted, forwarded, denied, or kept waiting: with it wait the credits of its flits (R438, R444). -/
def State.takeRequest (s : State) (port : Nat) (r : FabricRequest) : State :=
  let s := { s with incoming := s.incoming.filter (fun x => !(x.2.id == r.id && x.2.source == r.source)) }
  let freed := fun (s : State) => s.owe port (vcOf r.op) (flitsFor (dataBytes r.op))
  if r.dest != s.moduleNumber then (freed s).forward r
  else if s.gangHolds r || !s.canRespond r then s.holdIncoming port r
  else match s.judgeFabric r with
    | (s, some reply) => (freed s).respond r reply
    | (s, none) => s.holdIncoming port r

/-- FABRIC_REQUEST_RECEIVE. -/
def execFabricRequestReceive (port : Nat) (request : FabricRequest) (s : State) : Host.Outcome State Fault Refusal :=
  .next (if s.portUp port || s.incoming.contains (port, request) then s.takeRequest port request else s)

/-! ### Fabric time (R443) -/

/-- 10 µs in cycles. -/
def timePeriod : Nat := 10 * cyclesPerMicro

/-- The ports' time flits of their own: each UP port sends one every 10 µs. -/
def State.settleTime (s : State) : State :=
  s.ports.foldl (fun s (p, x) =>
    if s.portUp p && x.timeAt + timePeriod ≤ s.tick then (s.setPort p { s.port p with timeAt := s.tick }).post p 3 (.time s.ftime)
    else s) s

/-- FABRIC_TIME_FLIT: fabric time follows a partner that is ahead, never backward. The flit's credit goes back; a time flit of
this port's that is due goes out. -/
def execFabricTimeFlit (port time : Nat) (s : State) : Host.Outcome State Fault Refusal :=
  .next (if !s.portUp port then s
    else
      ({ s with ftimeBase := s.ftimeBase + (time - s.ftime) }.owe port 3 1).settleTime)

/-- The first tick at which fabric time has reached a time. -/
def State.reachTime (s : State) (ns : Nat) : State := s.reachTick (((ns - s.ftimeBase) * 21 + 9) / 10)

end Sys2Proof.Machine
end

