-- ==== Sys2Proof/Machine/Gang.lean ====
section
/-! DEFINITION. The gang controller (R444 to R446). -/

namespace Sys2Proof.Machine

def gangState (s : State) : Nat := s.field gangBlock 12 10
def State.setGang (s : State) (st : Nat) : State := s.setField gangBlock 12 10 st
def gangCtx (s : State) : Nat := s.field gangBlock 351 346
def gangLeader (s : State) : Nat := s.field gangBlock 363 352
def gangStartTime (s : State) : Nat := s.field gangBlock 511 448
/-- GRACE in ns. -/
def gangGrace (s : State) : Nat := s.field gangBlock 447 416 * 1000

/-- The members' module numbers (R445). -/
def gangMembers (s : State) : List Nat :=
  let base := s.field gangBlock 415 376 * 4096
  (List.range (s.field gangBlock 375 364)).map (fun i => s.readHomeNat (base + 2 * i) 2)

def State.isLeader (s : State) : Bool := gangLeader s == s.moduleNumber

/-- The vector of the gang controller (R435). -/
def gangVector : Nat := 142

/-- GANG_ARM: a new gang slice waits for its start. -/
def execGangArm (s : State) : Host.Outcome State Fault Refusal :=
  .next { s.setGang 1 with gangStarted := false, gangReady := [] }

/-- GANG_DISARM. -/
def execGangDisarm (s : State) : Host.Outcome State Fault Refusal :=
  .next { s.setGang 0 with gangStarted := false, gangReady := [] }

/-- The queues of a context: those to which it may push (log 29). -/
def State.queuesOf (s : State) (ctx : Nat) : List Nat :=
  (List.range 256).filter (fun q => bitAt (s.field (queueBlock q) 511 448) ctx)

/-- EN of a context's queues. -/
def State.enableQueues (s : State) (ctx en : Nat) : State :=
  (s.queuesOf ctx).foldl (fun s q => s.setField (queueBlock q) 5 5 en) s

/-- GANG_START: the start time comes, and the gang context's queues are enabled. -/
def execGangStart (s : State) : Host.Outcome State Fault Refusal :=
  .next (if gangState s != 1 || s.gangStarted then s
    else
      let s := s.reachTime (gangStartTime s)
      { s.enableQueues (gangCtx s) 1 with gangStarted := true })

/-- GO at this module. -/
def State.gangGoes (s : State) : State := (s.setGang 3).raiseVector gangVector

/-- The leader holds READY from a member; with the last one it sends GO to every member. -/
def State.holdReady (s : State) (member : Nat) : State :=
  if !s.isLeader || !(gangMembers s).contains member || 2 < gangState s || gangState s = 0 then s
  else
    let s := { s with gangReady := insertNat member s.gangReady }
    if (gangMembers s).all s.gangReady.contains then
      let others := (sortNat (gangMembers s)).filter (fun m => m != s.moduleNumber)
      (others.foldl (fun s m => s.postTo m 3 (.gangGo m firstHops)) s).gangGoes
    else s

/-- The pre-emption of the previous tenant is not done: a core still evicts another context's weave, or a Latch channel still
takes a core (log 29). -/
def State.preempting (s : State) : Bool :=
  s.cores.any (fun x => x.2.weaves.any (fun y => y.2.evicting && y.2.id.ctx != gangCtx s))
    || s.dies.any (fun x => x.2.latch.isSome)

/-- GANG_MEMBER_READY: this member's pre-emption is done. -/
def execGangMemberReady (s : State) : Host.Outcome State Fault Refusal :=
  .next (if gangState s != 1 || !s.gangStarted || s.preempting then s
    else
      let s := s.setGang 2
      if s.isLeader then s.holdReady s.moduleNumber else s.postTo (gangLeader s) 3 (.gangReady s.moduleNumber (gangLeader s) firstHops))

def execGangReadyReceive (member : Nat) (s : State) : Host.Outcome State Fault Refusal := .next (s.holdReady member)

/-- GANG_GO_RECEIVE. -/
def execGangGoReceive (s : State) : Host.Outcome State Fault Refusal :=
  .next (if gangState s = 2 then s.gangGoes else s)

/-! ### ABORT (R446) -/

/-- The slots of a core that hold weaves of the gang context and have not been pre-empted. -/
def State.gangSlots (s : State) (c : Nat) : List Nat :=
  ((s.core c).weaves.filter (fun x => x.2.id.ctx == gangCtx s && !x.2.evicting && !x.2.ending)).map (fun x => x.1)

/-- The cores that still run the gang context. -/
def State.gangCores (s : State) : List Nat :=
  (s.cores.filter (fun x => !x.2.frozen && !(s.gangSlots x.1).isEmpty)).map (fun x => x.1)

/-- A channel takes a core for a freeze, beyond an image that it has just sealed (log 29). -/
def State.aimLatch (s : State) (c : Nat) : State :=
  let b := latchBlock (dieOf c)
  let s := if latchState s (dieOf c) = 4 then s.setField b 383 344 (s.field b 383 344 + imageBytes / 4096) else s
  s.setField b 264 256 c

/-- Whether a die's channel can take another core. -/
def State.latchFree (s : State) (d : Nat) : Bool :=
  (s.die d).latch.isNone && (latchState s d == 0 || latchState s d == 4 || latchState s d == 8)

/-- The gang's work on a core pre-empted: its weaves evicted where each can be, and the core frozen otherwise, once its
die's channel is free. -/
def State.preempt (s : State) (c : Nat) : State :=
  let slots := s.gangSlots c
  if slots.all (fun i => s.judgeEviction c i == 1) then
    slots.foldl (fun s i => s.modifyWeave c i (fun w => { w with evicting := true })) s
  else if s.latchFree (dieOf c) then (s.aimLatch c).freeze (dieOf c)
  else s

/-- The hinge cores at which a member records GANG_LATE: those of the cores that ran its gang context, or of every core in
service where none did (log 29). -/
def State.lateCores (s : State) : List Nat :=
  match s.gangCores with
  | [] => (List.range (Config.dies * Config.coresPerDie)).filter (fun c => !(s.core c).outOfService)
  | l => l

/-- ABORT at this module: the context's queues stop, GANG_LATE is recorded, and the gang's work is pre-empted; the same event
goes on with work that had to wait. -/
def State.abortGang (s : State) : State :=
  if gangState s = 0 then s
  else
    let cores := s.gangCores
    let s := if gangState s = 4 then s
      else
        let s := (s.enableQueues (gangCtx s) 0).setGang 4
        (s.lateCores.foldl (fun s c => s.modifyCore c (fun k => k.stick (cause 19 3))) s).raiseVector gangVector
    cores.foldl (fun s c => s.preempt c) s

def execGangAbortReceive (s : State) : Host.Outcome State Fault Refusal := .next s.abortGang

/-- The slice has neither GO nor ABORT yet. -/
def State.gangOpen (s : State) : Bool := gangState s == 1 || gangState s == 2

/-- GANG_GRACE_EXPIRY: the leader does not hold every READY, and sends ABORT. -/
def execGangGraceExpiry (s : State) : Host.Outcome State Fault Refusal :=
  .next (if !s.isLeader || !s.gangOpen then s
    else
      let s := s.reachTime (gangStartTime s + gangGrace s)
      let others := (sortNat (gangMembers s)).filter (fun m => m != s.moduleNumber)
      (others.foldl (fun s m => s.postTo m 3 (.gangAbort m firstHops)) s).abortGang)

/-- GANG_MEMBER_TIMEOUT: neither GO nor ABORT by START + 2 × GRACE. -/
def execGangMemberTimeout (s : State) : Host.Outcome State Fault Refusal :=
  .next (if s.gangOpen then (s.reachTime (gangStartTime s + 2 * gangGrace s)).abortGang else s)

end Sys2Proof.Machine
end

