-- ==== Sys2Proof/Machine/Security.lean ====
section
/-! DEFINITION. The security processor: the boot chain and resets (R448 to R451), quotes (R452), the mailbox (R453, R454),
updates in service (R456), re-hashing (R458), and the translated image cache (R355, R364, R365). -/

namespace Sys2Proof.Machine

/-! ### Images and measurements (R449, R450) -/

/-- The 64 bytes of a measurement register, lowest byte first. -/
def State.measured (s : State) (m : Nat) : List Byte := toBytes 64 (s.block (measureBlock m))

/-- A measurement extended by the bytes given. -/
def State.measure (s : State) (m : Nat) (extra : List Byte) : State :=
  s.setBlock (measureBlock m) (ofBytes (sha512 (s.measured m ++ extra)))

/-- The bytes F, W, I, M. -/
def imageMark : List Byte := [0x46, 0x57, 0x49, 0x4D]

/-- The floor of a component's SVN, and the SVN and hash in force. -/
def State.floorOf (s : State) (component : Nat) : Nat := (s.svnFloor[component]?).getD 0

/-- Why an image of a component does not verify: the group 23 index. -/
def State.imageFails (s : State) (component : Nat) (image : List Byte) : Option Nat :=
  if image.take 4 != imageMark || Config.imageComponent image != component || !signatureChecks image then some 0
  else if (Config.imageSvn image).toNat < s.floorOf component then some 4
  else none

/-- A component's image in force. -/
def State.installImage (s : State) (component : Nat) (image : List Byte) : State :=
  { s with
    svn := setAt s.svn component (Config.imageSvn image).toNat
    hashes := setAt s.hashes component (BitVec.ofNat 512 (ofBytes (sha512 image))) }

/-- The feature tables of an image in force: entries of the image cache that recorded a changed errata bit go, and paths in
them with them (R361, R365). Feature 0 is always present. -/
def State.installTables (s : State) (image : List Byte) : State :=
  let s := { s with
    present := Config.tablePresent image ||| 1
    errata := Config.tableErrata image
    binding := (List.range 512).map (fun i => (i, Config.tableBinding image i)) }
  s.dropCode (fun t => !s.errataMatch t.entry)

/-! ### Resets (R5, R394, R403, R450) -/

/-- The image that the boot finds for a component: a staged one of the two that change only at reset (R456). -/
def State.bootImageOf (s : State) (component : Nat) : List Byte :=
  match Table.find? s.staged component with
  | some x => if component < 2 && x.verified then x.bytes else Config.bootImage s.bootEpoch component
  | none => Config.bootImage s.bootEpoch component

/-- A cause of group 23 of the I/O die's firmware, recorded (R400, R467). -/
def State.imageCause (s : State) (die i : Nat) : State :=
  s.recordCause (cause 23 i) die (if die = 0 then 4 else die) 511 (Config.syndrome die s.tick)

/-- A boot that has stopped: its cause is recorded, and its vector raised, which no host access can unmask, once MSI-X is
enabled (R450, log 28). -/
def State.bootFails (s : State) (i : Nat) : State :=
  let s := s.imageCause 0 i
  if s.msixOn then { s with vectors := s.vectors ++ [securityVector] } else s

/-- One stage of the boot: verified and measured, or the boot stops. -/
def State.bootStep (s : State) (component : Nat) : State :=
  if s.bootStage = 15 then s
  else
    let image := s.bootImageOf component
    match s.imageFails component image with
    | some i => ((s.setField bootBlock 19 16 15).setField bootBlock 31 24 i).bootFails i
    | none =>
      let s := (s.measure component (sha512 image)).installImage component image
      let s := if component = 5 then s.installTables image else s
      s.setField bootBlock 19 16 (component + 1)

/-- Cores in service (R2, R448). -/
def coresInService (s : State) : Nat := Config.dies * Config.coresPerDie - s.retired.length

/-- The boot chain, from the ROM to READY. -/
def State.boot (s : State) : State :=
  let s := (s.setField bootBlock 19 16 0).setField bootBlock 0 0 0
  let s := (List.range 6).foldl State.bootStep s
  let s := s.setField bootBlock 56 48 (coresInService s)
  if s.bootStage = 15 then s else (s.setField bootBlock 19 16 7).setField bootBlock 0 0 1

/-- The cores after a reset: empty, the retired ones out of service. -/
def retiredCores (l : List Nat) : Table Core := (sortNat l).map (fun c => (c, { Core.reset with outOfService := true }))

/-- Cold reset: everything at its reset value, but what is fused or in flash. -/
def State.coldReset (s : State) : State :=
  { State.reset with
    serial := s.serial, agenda := s.agenda, flash := s.flash, integrity := s.integrity, svnFloor := s.svnFloor
    staged := s.staged, retired := s.retired, cores := retiredCores s.retired, bootEpoch := s.bootEpoch + 1
    vectors := s.vectors, sentMessages := s.sentMessages, hostData := s.hostData }

def execColdReset (s : State) : Host.Outcome State Fault Refusal := .next s.coldReset.boot

/-- The blocks that keep their fields over warm reset: boot status, the Transoms and the Latch channels. -/
def keptBlock (off : Nat) : Bool := off == bootBlock || (0x30000 ≤ off && off < 0x40000)

/-- A Latch channel whose command a reset has cut short is idle (log 30). -/
def State.settleLatch (s : State) (d : Nat) : State :=
  let st := latchState s d
  if st = 0 || st = 4 || st = 8 then s else s.setLatch d 0

/-- Warm reset: HBM, CXL and flash keep their contents, with what the register maps keep. -/
def State.warmReset (s : State) : State :=
  let lock := s.field fabricBlock 12 0
  let w : State := { State.reset with
    tick := s.tick, serial := s.serial, agenda := s.agenda, mem := s.mem, touched := s.touched, spoiled := s.spoiled
    flash := s.flash
    integrity := s.integrity, blocks := s.blocks.filter (fun b => keptBlock b.1), svnFloor := s.svnFloor
    staged := s.staged, retired := s.retired, cores := retiredCores s.retired, bootEpoch := s.bootEpoch + 1
    dies := s.dies.map (fun (n, d) => (n, { Die.reset with
      poisoned := d.poisoned, powered := d.powered, eccCorrected := d.eccCorrected, eccUncorrected := d.eccUncorrected
      telemetryAt := d.telemetryAt }))
    moves := s.moves, vectors := s.vectors, sentMessages := s.sentMessages, hostData := s.hostData
    hostRate := s.hostRate, hostWidth := s.hostWidth, hostCxl := s.hostCxl, ftimeBase := s.ftimeBase
    modidLocked := s.modidLocked, latchMap := s.latchMap, securityMap := s.securityMap, parity := s.parity
    msixOn := s.msixOn, drains := s.drains.filter (fun d => !d.mailbox), rehashAt := s.rehashAt
    cxlUncorrected := s.cxlUncorrected }
  let w := if s.modidLocked then w.setField fabricBlock 12 0 lock else w
  (List.range 4).foldl State.settleLatch w

/-! ### The dump of a fatal error (R470) -/

def dumpBase : Nat := 766 * 2 ^ 30

/-- The causes after which the dies have no power. -/
def losesPower (index : Nat) : Bool := index == 6 || index == 7

/-- The cores of a dump, ascending. -/
def dumpCores (s : State) : List Nat :=
  (List.range (Config.dies * Config.coresPerDie)).filter (fun c => !(s.core c).outOfService)

/-- What a range of memory held is lost: its bytes are as if nothing had written them. -/
def State.loseBytes (s : State) (lo hi : Nat) : State :=
  { s with mem := s.mem.filter (fun x => x.1 < lo || hi ≤ x.1) }

/-- Every core written as an image with a zero trailer, and the header last. What the range held before is lost. -/
def State.dump (s : State) (index : Nat) : State :=
  let cs := dumpCores s
  let first := Config.firstSerial s.bootEpoch + s.imageSerial
  let s := s.loseBytes dumpBase (768 * 2 ^ 30)
  let s := (cs.zip (List.range cs.length)).foldl (fun s (c, k) =>
    let header := imageHeader c (Config.tileRevision (dieOf c)).toNat 0 (first + k) s.tick
    s.writeHome (dumpBase + 4096 + imageBytes * k) (imageContent header (first + k) none)) s
  s.writeHomeNat dumpBase 4096 (1 + cs.length * 2 ^ 8 + causeCode (cause 21 index) * 2 ^ 17)

/-- WARM_RESET: a dump that is being written ends first. -/
def execWarmReset (s : State) : Host.Outcome State Fault Refusal :=
  .next (match s.fatal with
    | some i => (if losesPower i then s else s.dump i).warmReset.boot
    | none => s.warmReset.boot)

/-- The compute dies lose power (R470). -/
def State.powerOff (s : State) : State :=
  { s with dies := (List.range Config.dies).map (fun d => (d, { s.die d with powered := false })) }

/-! ### The mailbox (R453, R454) -/

def mailboxBuffer (s : State) : Nat := s.field mailboxBlock 127 88 * 4096
def mailboxArg (s : State) : Nat := s.field mailboxBlock 63 32
def mailboxTarget (s : State) : Nat := s.field mailboxBlock 24 16

/-- A command runs while STATUS is busy. -/
def State.command (s : State) (f : State → State) : State := if s.field mailboxBlock 87 80 = 1 then f s else s

/-- A command's event in the black box of a die (R467). -/
def State.commandEvent (s : State) (die core cmd : Nat) : State := s.blackBox die 0 die core cmd (Config.syndrome die s.tick)

/-- The same for a command that names a core, whether it is refused or not. -/
def State.coreCommand (s : State) (c cmd : Nat) : State :=
  if c < Config.dies * Config.coresPerDie then s.commandEvent (dieOf c) c cmd else s

/-- The quote over a nonce (R452), its parts in the order in which it lists them: the signature under the device key is over
all before it, and the certificate of that key follows (R451). -/
def State.quote (s : State) (nonce : List Byte) : List Byte :=
  let plain := nonce ++ (List.range 8).flatMap s.measured ++ toBytes 8 Config.serialNumber.toNat
    ++ (List.range 4).flatMap (fun d => toBytes 4 (Config.tileRevision d).toNat) ++ s.svn.flatMap (toBytes 4)
    ++ toBytes 8 s.tick
  let signed := plain ++ pssSign Config.deviceModulus Config.devicePrivate plain (toBytes 64 (Config.quoteSalt s.tick).toNat)
  signed ++ (List.range (4096 - signed.length)).map Config.certificateByte

/-- ATTEST. -/
def State.attest (s : State) : State :=
  let b := mailboxBuffer s
  if !isHbm b then s.endCommand (some 255)
  else (s.writeHome (b + 4096) (s.quote (s.mem.readBytes b 64))).endCommand none

def execAttest (s : State) : Host.Outcome State Fault Refusal := .next (s.command State.attest)

/-- STAGE: the image in the buffer, which is 64 KiB, copied and verified. -/
def State.stageImage (s : State) : State :=
  let b := mailboxBuffer s
  let buffer := s.mem.readBytes b 65536
  let image := buffer.take (Config.imageLength buffer)
  let component := Config.imageComponent image
  if !isHbm b || 5 < component then s.endCommand (some 255)
  else
    let fails := s.imageFails component image
    let x : Staged := {
      component, svn := (Config.imageSvn image).toNat, hash := BitVec.ofNat 512 (ofBytes (sha512 image))
      verified := fails.isNone, signed := fails != some 0, bytes := image }
    let s := match fails with
      | some i => s.imageCause 0 i
      | none => s
    { s with staged := Table.set s.staged component x }.endCommand fails

def execStage (s : State) : Host.Outcome State Fault Refusal := .next (s.command State.stageImage)

/-- FLOOR: it never falls. -/
def State.raiseFloor (s : State) : State :=
  let c := mailboxArg s
  if 5 < c then s.endCommand (some 255)
  else match Table.find? s.staged c with
    | none => s.endCommand (some 0)
    | some x =>
      if !x.verified then s.endCommand (some 0)
      else { s with svnFloor := setAt s.svnFloor c (max (s.floorOf c) x.svn) }.endCommand none

def execFloor (s : State) : Host.Outcome State Fault Refusal := .next (s.command State.raiseFloor)

/-! ### Draining a core (R455) -/

/-- A core with nothing on it, that can take an image. -/
def Core.isEmpty (k : Core) : Bool :=
  k.weaves.isEmpty && k.stops.isEmpty && k.lateStops.isEmpty && k.hinge.serving.isNone && !k.frozen && !k.outOfService
    && !k.draining

/-- One step of a drain: no more instances, evictions of all that can be evicted, and the freeze of the rest once the
channel is free. -/
def State.drainStep (s : State) (c : Nat) : State :=
  let s := s.modifyCore c (fun k => { k with draining := true })
  let s := (s.core c).weaves.foldl (fun s x =>
    if !x.2.evicting && s.judgeEviction c x.1 = 1 then s.modifyWeave c x.1 (fun w => { w with evicting := true }) else s) s
  let k := s.core c
  if k.frozen || k.weaves.isEmpty || k.weaves.any (fun x => x.2.evicting) || !s.latchFree (dieOf c) then s
  else
    let s := s.aimLatch c
    { s with drainImages := s.drainImages ++ [(c, latchImage s (dieOf c))] }.freeze (dieOf c)

/-- The core onto which an image of a core is restored: an empty one of its own die, the lowest number first, and else of
another die of the same tile revision. The core itself is one again once it has been returned. -/
def State.restoreTarget (s : State) (c : Nat) : Option Nat :=
  let fit := fun (n : Nat) => (s.core n).isEmpty
    && Config.tileRevision (dieOf n) == Config.tileRevision (dieOf c) && (s.die (dieOf n)).powered
  let all := List.range (Config.dies * Config.coresPerDie)
  ((all.filter (fun n => dieOf n == dieOf c)).find? fit) <|> (all.find? fit)

/-- The images of drains restored as far as they can be; one that no longer exists is forgotten. -/
def State.restoreDrained (s : State) : State :=
  s.drainImages.foldl (fun s x =>
    let forget := fun (s : State) => { s with drainImages := s.drainImages.erase x }
    if (s.core x.1).frozen then s
    else if (s.imageAt x.2).isNone then forget s
    else match s.restoreTarget x.1 with
      | none => s
      | some n =>
        let b := latchBlock (dieOf n)
        if !s.latchFree (dieOf n) then s
        else forget (((s.setField b 264 256 n).setField b 383 344 (x.2 / 4096)).restore (dieOf n))) s

/-- A core whose drain has left nothing resident. -/
def State.drainedOut (s : State) (c : Nat) : Bool := (s.core c).draining && (s.core c).weaves.isEmpty && !(s.core c).frozen

/-- DRAIN of core TARGET begins, or goes on. -/
def State.drainTarget (s : State) : State :=
  let c := mailboxTarget s
  let s :=
    if s.drains.any (fun d => d.mailbox) then s
    else if Config.dies * Config.coresPerDie ≤ c || (s.core c).outOfService then (s.coreCommand c 5).endCommand (some 255)
    else { s.coreCommand c 5 with drains := s.drains ++ [{ core := c, mailbox := true }] }
  ((s.drains.filter (fun d => d.mailbox)).foldl (fun s d => s.drainStep d.core) s).restoreDrained

def execDrain (s : State) : Host.Outcome State Fault Refusal := .next (s.command State.drainTarget)

/-- DRAIN_COMPLETE: the status word shows no resident weave. -/
def execDrainComplete (core : Nat) (s : State) : Host.Outcome State Fault Refusal :=
  .next (if s.drains.contains { core, mailbox := true } && s.drainedOut core then
    { s with drains := s.drains.erase { core, mailbox := true } }.endCommand none
  else s)

/-- A core that has been drained, and stands so. -/
def State.standsDrained (s : State) (c : Nat) : Bool := s.drainedOut c && !s.drains.any (fun d => d.core == c)

/-- RETURN. -/
def State.returnTarget (s : State) : State :=
  let c := mailboxTarget s
  let s := s.coreCommand c 6
  if !s.standsDrained c then s.endCommand (some 255)
  else (s.modifyCore c (fun k => { k with draining := false })).endCommand none

def execReturnCore (s : State) : Host.Outcome State Fault Refusal := .next (s.command State.returnTarget)

/-- A core out of service for good (R471). -/
def State.retireCore (s : State) (c : Nat) : State :=
  let s := { s.modifyCore c (fun k => { k with outOfService := true, draining := false }) with
    retired := insertNat c s.retired }
  s.setField bootBlock 56 48 (coresInService s)

/-- An image of a core is sealed, or is being sealed for a drain, and not yet restored; one whose bytes are gone never will be. -/
def State.awaitsRestore (s : State) (c : Nat) : Bool :=
  s.drainImages.any (fun x => x.1 == c)
    || s.images.any (fun i => i.source == c && i.epoch == s.bootEpoch && !s.restored.contains i.serial
      && (s.imageAt i.base).map (fun j => j.serial) == some i.serial)

/-- RETIRE: it waits while an image of the core is not restored (R471). -/
def State.retireTarget (s : State) : State :=
  let c := mailboxTarget s
  let s := s.restoreDrained
  if !s.standsDrained c then (s.coreCommand c 7).endCommand (some 255)
  else if s.awaitsRestore c then s
  else ((s.coreCommand c 7).retireCore c).endCommand none

def execRetire (s : State) : Host.Outcome State Fault Refusal := .next (s.command State.retireTarget)

/-! ### APPLY (R456) -/

/-- The swap has ended: the image is in force and measured into MR6. -/
def State.endApply (s : State) (die component : Nat) (x : Staged) : State :=
  let s := { s.installImage component x.bytes with applying := none }
  let s := s.measure 6 (toBytes 1 die ++ toBytes 1 component ++ sha512 x.bytes)
  s.endCommand none

/-- The cores of a die in service. -/
def State.dieCores (s : State) (die : Nat) : List Nat :=
  ((List.range Config.coresPerDie).map (fun i => die * Config.coresPerDie + i)).filter (fun c => !(s.core c).outOfService)

/-- Hinge firmware: the hinge cores that are between two stops change. -/
def State.applyHinge (s : State) (die : Nat) (x : Staged) : State :=
  let left := (s.applying.getD (s.dieCores die)).filter (fun c => (s.core c).hinge.inStop)
  if left.isEmpty then s.endApply die 2 x else { s with applying := some left }

/-- Microcode: the die's cores drained, loaded and returned one at a time. -/
def State.applyMicrocode (s : State) (die : Nat) (x : Staged) : State :=
  match s.applying.getD (s.dieCores die) with
  | [] => s.endApply die 3 x
  | c :: rest =>
    let s := (s.drainStep c).restoreDrained
    if s.drainedOut c then
      { s.modifyCore c (fun k => { k with draining := false }) with applying := some rest }
    else { s with applying := some (c :: rest) }

/-- Transom tables: no new move starts, and the swap comes when none is in progress. -/
def State.applyTransom (s : State) (die : Nat) (x : Staged) : State :=
  let s := s.setField (transomBlock die) 2 2 1
  if s.moves.any (fun m => m.die == die) then s else (s.setField (transomBlock die) 2 2 0).endApply die 4 x

/-- Feature tables: the whole module, with an ICINV.ALL, which leaves the cache entries that stay usable (R365). -/
def State.applyTables (s : State) (x : Staged) : State :=
  ((s.purgeFetch { ctx := none, base := 0, size := 0, tick := s.tick }).installTables x.bytes).endApply 0 5 x

/-- Why APPLY of a component does not begin: an argument error, or the group 23 index. -/
def State.applyFails (s : State) (component die : Nat) : Option Nat :=
  if component < 2 || 5 < component || (component != 5 && Config.dies ≤ die) then some 255
  else match Table.find? s.staged component with
    | none => some 0
    | some x =>
      if !x.signed then some 0 else if x.svn < s.floorOf component then some 4 else if !x.verified then some 0 else none

/-- The end of an APPLY that is refused: its event, and that of its cause (R400, R467). -/
def State.refuseApply (s : State) (component die i : Nat) : State :=
  let s := if component != 5 && Config.dies ≤ die then s else s.commandEvent (if component = 5 then 0 else die) 511 3
  (if i = 255 then s else s.imageCause (if component = 5 then 0 else die) i).endCommand (some i)

/-- APPLY: it begins, or goes on with what had to wait. -/
def State.applyStaged (s : State) : State :=
  let component := mailboxArg s
  let die := mailboxTarget s
  match s.applyFails component die, Table.find? s.staged component with
    | some i, _ => s.refuseApply component die i
    | none, none => s
    | none, some x =>
        let s := if s.applying.isSome then s
          else { s.commandEvent (if component = 5 then 0 else die) 511 3 with applying := some (s.dieCores die) }
        match component with
        | 2 => s.applyHinge die x
        | 3 => s.applyMicrocode die x
        | 4 => s.applyTransom die x
        | _ => s.applyTables x

def execApplyUpdate (s : State) : Host.Outcome State Fault Refusal := .next (s.command State.applyStaged)

/-! ### Re-hashing (R458) -/

/-- One second in cycles. -/
def secondCycles : Nat := 2100000000

/-- FIRMWARE_REHASH: the resident firmware of every die hashed again, a second after the last time. -/
def execFirmwareRehash (s : State) : Host.Outcome State Fault Refusal :=
  let s := s.reachTick (s.rehashAt + secondCycles)
  let s := { s with rehashAt := s.tick }
  .next ((List.range Config.dies).foldl (fun s d =>
    if Config.firmwareIntact s.tick d then s else s.firmwareCause 1 d 511) s)

/-! ### The translated image cache (R355, R356, R364) -/

/-- TRANSLATION_INSTALL: a translation built from other bytes than the section now has, or whose build met an ICINV, is never
installed; an older one of the same section and mask gives way. -/
def execTranslationInstall (entry : Translation) (s : State) : Host.Outcome State Fault Refusal :=
  let (s, b) := s.sectionBytes entry.ctx entry.base entry.size
  .next (match b with
    | none => s
    | some l =>
      if BitVec.ofNat 512 (ofBytes (sha512 l)) != entry.key || !s.buildStands entry then s
      else
        let others := s.translations.filter (fun t => !(t.entry.ctx == entry.ctx && t.entry.base == entry.base
          && t.entry.key == entry.key && t.entry.present == entry.present))
        { s with translations := others ++ [
            { entry, id := s.serial, spans := s.sectionSpans entry.ctx entry.base entry.size }], serial := s.serial + 1 })

end Sys2Proof.Machine
end

