-- ==== Sys2Proof/Machine/Fleet.lean ====
section
/-! DEFINITION. Fleet operation: telemetry (R466), gating (R469), hardware and fatal errors (R400, R467, R470), and
automatic retirement (R471). -/

namespace Sys2Proof.Machine

/-! ### Telemetry (R466) -/

/-- SEQ of the next record over an old one: even again. -/
def nextSequence (old : Nat) : Nat := (bits old 511 480 / 2 + 1) * 2 % 2 ^ 32

/-- A value saturated at a field's width. -/
def saturate (w v : Nat) : Nat := min v (2 ^ w - 1)

/-- Cores of a die out of service. -/
def State.outCores (s : State) (die : Nat) : Nat := (s.retired.filter (fun c => dieOf c == die)).length

/-- The record of a die. -/
def State.dieRecord (s : State) (t : Telemetry) (old : Nat) : Nat :=
  nextSequence old * 2 ^ 480 + (s.die t.die).eccCorrected % 2 ^ 32 * 2 ^ 448 + saturate 16 (s.die t.die).eccUncorrected * 2 ^ 432
    + saturate 16 (s.die t.die).poisoned * 2 ^ 416 + s.outCores t.die % 256 * 2 ^ 408 + t.throttle % 2 ^ 16 * 2 ^ 384
    + t.power % 2 ^ 16 * 2 ^ 368 + t.hbmPower % 2 ^ 16 * 2 ^ 352 + t.junction % 2 ^ 16 * 2 ^ 336
    + t.hbmTemperature % 2 ^ 16 * 2 ^ 320

/-- The record of the module. -/
def State.moduleRecord (s : State) (t : Telemetry) (old : Nat) : Nat :=
  nextSequence old * 2 ^ 480 + t.modulePower % 2 ^ 16 * 2 ^ 464 + t.inputVoltage % 2 ^ 16 * 2 ^ 448
    + t.inlet % 2 ^ 16 * 2 ^ 432 + t.flashWear % 2 ^ 16 * 2 ^ 416 + saturate 16 s.cxlUncorrected * 2 ^ 400

/-- What the sensors count since the last reading added to the counters of a die and of the module. -/
def State.countErrors (s : State) (t : Telemetry) : State :=
  { s.modifyDie t.die (fun d => { d with
      eccCorrected := d.eccCorrected + t.eccCorrected, eccUncorrected := d.eccUncorrected + t.eccUncorrected
      telemetryAt := s.tick }) with
    cxlUncorrected := s.cxlUncorrected + t.cxlUncorrected }

/-! ### Limits and gating (R469) -/

/-- 1 ms in cycles. -/
def millisecond : Nat := 1000 * cyclesPerMicro

/-- Since when a condition has held that holds now or not. -/
def heldSince (now : Bool) (tick : Nat) (since : Option Nat) : Option Nat :=
  if now then some (since.getD tick) else none

/-- A condition has held for a time. -/
def State.heldFor (s : State) (since : Option Nat) (n : Nat) : Bool :=
  match since with
  | some t => t + n ≤ s.tick
  | none => false

/-- The input voltage, in units of 10 mV, lies within 54 V ± 5 %. -/
def voltageFits (v : Nat) : Bool := 5130 ≤ v && v ≤ 5670

/-- The readings of the last second, the mean of which is the average input power. -/
def State.notePower (s : State) (t : Telemetry) : State :=
  { s with
    powerReadings := s.powerReadings.filter (fun x => s.tick < x.1 + secondCycles) ++ [(s.tick, t.modulePower)]
    powerSince := heldSince (4800 < t.modulePower) s.tick s.powerSince
    voltageSince := heldSince (!voltageFits t.inputVoltage) s.tick s.voltageSince }

/-- The module's input power calls for gating: on average above 4.4 kW, or above 4.8 kW for 10 ms. -/
def State.powerGates (s : State) : Bool :=
  4400 * s.powerReadings.length < (s.powerReadings.map (fun x => x.2)).sum || s.heldFor s.powerSince (10 * millisecond)

/-- Gating begins, or ends, on every die for which its conditions say so. -/
def State.settleGating (s : State) : State :=
  (List.range Config.dies).foldl (fun s d =>
    let on := (s.die d).hot || s.powerGates
    if (s.die d).gated = on then s else s.queueEvent (.gatingChange d on)) s

/-- What a reading calls for (R469): gating, and the fatal errors of a junction at 115 °C or of a voltage out of range for
1 ms. -/
def State.enforceLimits (s : State) (t : Telemetry) : State :=
  let s := s.notePower t
  let s := (s.modifyDie t.die (fun d => { d with hot := 800 < t.junction })).settleGating
  let s := if 920 ≤ t.junction then s.queueEvent (.hardwareError 6 t.die 511 0) else s
  if s.heldFor s.voltageSince millisecond then s.queueEvent (.hardwareError 7 41 511 0) else s

/-- TELEMETRY_UPDATE: the record of a die, and the module's, 1 ms after the last; and what the reading calls for. -/
def execTelemetryUpdate (reading : Telemetry) (s : State) : Host.Outcome State Fault Refusal :=
  .next (if Config.dies ≤ reading.die then s
    else
      let at_ := firmwareBase + 64 * reading.die
      let s := (s.reachTick ((s.die reading.die).telemetryAt + millisecond)).countErrors reading
      let s := s.writeHomeNat at_ 64 (s.dieRecord reading (s.readHomeNat at_ 64))
      let s := s.writeHomeNat (firmwareBase + 0x100) 64 (s.moduleRecord reading (s.readHomeNat (firmwareBase + 0x100) 64))
      s.enforceLimits reading)

/-- GATING_CHANGE: a die's issue cycles are gated, or no longer; only timing changes. -/
def execGatingChange (die : Nat) (on : Bool) (s : State) : Host.Outcome State Fault Refusal :=
  .next (if die < Config.dies then s.modifyDie die (fun d => { d with gated := on }) else s)

/-! ### Automatic retirement (R471) -/

/-- CORE_AUTO_RETIRE: a drain, and the retirement once it has ended; it goes on with what had to wait. -/
def State.autoRetire (s : State) (c : Nat) : State :=
  let entry : Drain := { core := c, mailbox := false }
  if Config.dies * Config.coresPerDie ≤ c || (s.core c).outOfService then s
  else
    let s := if s.drains.contains entry then s else { s.commandEvent (dieOf c) c 5 with drains := s.drains ++ [entry] }
    let s := (s.drainStep c).restoreDrained
    if s.drainedOut c && !s.awaitsRestore c then
      ({ s with drains := s.drains.erase entry }.commandEvent (dieOf c) c 7).retireCore c
    else s

def execCoreAutoRetire (core : Nat) (s : State) : Host.Outcome State Fault Refusal := .next (s.autoRetire core)

/-! ### Hardware errors (R400, R467) -/

/-- The die in whose black box a unit's event stands; die 0 for the units of no compute die (log 25). -/
def unitDie (unit : Nat) : Nat :=
  if unit < 4 then unit
  else if 5 ≤ unit && unit ≤ 16 then (unit - 5) / 3
  else if 17 ≤ unit && unit ≤ 24 then (unit - 17) / 2
  else if 25 ≤ unit && unit ≤ 40 then (unit - 25) / 4
  else 0

/-- R470: the hardware causes that are fatal. -/
def isFatal (index unit : Nat) : Bool := losesPower index || ((index == 0 || index == 2) && unit ≤ 4)

/-- A day in cycles. -/
def dayCycles : Nat := 86400 * secondCycles

/-- The parity errors of a core in the last day, this one among them. -/
def State.noteParity (s : State) (core : Nat) : State :=
  { s with parity := s.parity.filter (fun x => s.tick < x.2 + dayCycles) ++ [(core, s.tick)] }

/-- A core that hangs, or that shows its third parity error in a day, is to be retired. -/
def State.mustRetire (s : State) (index core : Nat) : Bool :=
  core < Config.dies * Config.coresPerDie
    && (index == 1 || (index == 0 && 3 ≤ (s.parity.filter (fun x => x.1 == core)).length))

/-- HARDWARE_ERROR: a cause of group 21 in the bitmaps and the black box; no path stops. -/
def execHardwareError (index unit core syndrome : Nat) (s : State) : Host.Outcome State Fault Refusal :=
  .next (if 7 < index then s
    else
      let s := s.recordCause (cause 21 index) (unitDie unit) unit core (BitVec.ofNat 160 syndrome)
      let s := if index = 0 then s.noteParity core else s
      let s := if s.mustRetire index core then s.pushEvent (.coreAutoRetire core) else s
      if isFatal index unit then s.pushEvent (.fatalError index unit core) else s)

/-! ### Fatal errors (R470) -/

/-- FATAL_ERROR: the dispatcher stops, every die records the error, and the dump begins, its header not valid; the reset that
follows ends it. A second error during the dump resets at once. -/
def execFatalError (index unit core : Nat) (s : State) : Host.Outcome State Fault Refusal :=
  .next (if !isFatal index unit then s
    else
      let s := (List.range Config.dies).foldl (fun s d =>
        s.blackBox d (causeCode (cause 21 index)) unit core 0 (Config.syndrome d s.tick)) s
      match s.fatal with
      | some _ => (if losesPower index then s.powerOff else s).warmReset.boot
      | none =>
        let s := { s with dispatchStopped := true, fatal := some index }
        if losesPower index then s.powerOff else s.writeHomeNat dumpBase 4096 0)

end Sys2Proof.Machine
end

