-- ==== Sys2Proof/Machine/Dispatch.lean ====
section
/-! DEFINITION. The dispatch: one arm for every constructor of `Instr`, a direct call of its meaning. -/

namespace Sys2Proof.Machine

/-- One instruction or event at a state. -/
def exec (i : Instr) (s : State) : Host.Outcome State Fault Refusal :=
  match i with
  | .iadd f => Sys2Proof.Machine.execIadd f s
  | .isub f => Sys2Proof.Machine.execIsub f s
  | .imul f => Sys2Proof.Machine.execImul f s
  | .imulh f => Sys2Proof.Machine.execImulh f s
  | .imad f => Sys2Proof.Machine.execImad f s
  | .imin f => Sys2Proof.Machine.execImin f s
  | .imax f => Sys2Proof.Machine.execImax f s
  | .iabs f => Sys2Proof.Machine.execIabs f s
  | .ineg f => Sys2Proof.Machine.execIneg f s
  | .icmp f => Sys2Proof.Machine.execIcmp f s
  | .isel f => Sys2Proof.Machine.execIsel f s
  | .andB f => Sys2Proof.Machine.execAndB f s
  | .orB f => Sys2Proof.Machine.execOrB f s
  | .xorB f => Sys2Proof.Machine.execXorB f s
  | .andn f => Sys2Proof.Machine.execAndn f s
  | .notB f => Sys2Proof.Machine.execNotB f s
  | .shl f => Sys2Proof.Machine.execShl f s
  | .shr f => Sys2Proof.Machine.execShr f s
  | .sar f => Sys2Proof.Machine.execSar f s
  | .rot f => Sys2Proof.Machine.execRot f s
  | .bfe f => Sys2Proof.Machine.execBfe f s
  | .bfi f => Sys2Proof.Machine.execBfi f s
  | .popc f => Sys2Proof.Machine.execPopc f s
  | .clz f => Sys2Proof.Machine.execClz f s
  | .brev f => Sys2Proof.Machine.execBrev f s
  | .lea f => Sys2Proof.Machine.execLea f s
  | .plop f => Sys2Proof.Machine.execPlop f s
  | .widen f => Sys2Proof.Machine.execWiden f s
  | .bndget f => Sys2Proof.Machine.execBndget f s
  | .bndtop f => Sys2Proof.Machine.execBndtop f s
  | .arset f => Sys2Proof.Machine.execArset f s
  | .arget f => Sys2Proof.Machine.execArget f s
  | .archk f => Sys2Proof.Machine.execArchk f s
  | .nop f => Sys2Proof.Machine.execNop f s
  | .bra f => Sys2Proof.Machine.execBra f s
  | .brx f => Sys2Proof.Machine.execBrx f s
  | .bcmp f => Sys2Proof.Machine.execBcmp f s
  | .call f => Sys2Proof.Machine.execCall f s
  | .ret f => Sys2Proof.Machine.execRet f s
  | .reconv f => Sys2Proof.Machine.execReconv f s
  | .exit f => Sys2Proof.Machine.execExit f s
  | .endWeave f => Sys2Proof.Machine.execEndWeave f s
  | .trapSw f => Sys2Proof.Machine.execTrapSw f s
  | .bkpt f => Sys2Proof.Machine.execBkpt f s
  | .fadd f => Sys2Proof.Machine.execFadd f s
  | .fsub f => Sys2Proof.Machine.execFsub f s
  | .fmul f => Sys2Proof.Machine.execFmul f s
  | .ffma f => Sys2Proof.Machine.execFfma f s
  | .fmin f => Sys2Proof.Machine.execFmin f s
  | .fmax f => Sys2Proof.Machine.execFmax f s
  | .fabs f => Sys2Proof.Machine.execFabs f s
  | .fneg f => Sys2Proof.Machine.execFneg f s
  | .fcmp f => Sys2Proof.Machine.execFcmp f s
  | .fdot2 f => Sys2Proof.Machine.execFdot2 f s
  | .frcp f => Sys2Proof.Machine.execFrcp f s
  | .frsq f => Sys2Proof.Machine.execFrsq f s
  | .fsqrt f => Sys2Proof.Machine.execFsqrt f s
  | .fexp2 f => Sys2Proof.Machine.execFexp2 f s
  | .flog2 f => Sys2Proof.Machine.execFlog2 f s
  | .fsin f => Sys2Proof.Machine.execFsin f s
  | .fcos f => Sys2Proof.Machine.execFcos f s
  | .ftanh f => Sys2Proof.Machine.execFtanh f s
  | .cvt f => Sys2Proof.Machine.execCvt f s
  | .cvtSat f => Sys2Proof.Machine.execCvtSat f s
  | .cvtUns f => Sys2Proof.Machine.execCvtUns f s
  | .cvtSatUns f => Sys2Proof.Machine.execCvtSatUns f s
  | .quant f => Sys2Proof.Machine.execQuant f s
  | .dequant f => Sys2Proof.Machine.execDequant f s
  | .qperm f => Sys2Proof.Machine.execQperm f s
  | .pack f => Sys2Proof.Machine.execPack f s
  | .unpack f => Sys2Proof.Machine.execUnpack f s
  | .fmtset f => Sys2Proof.Machine.execFmtset f s
  | .fmtget f => Sys2Proof.Machine.execFmtget f s
  | .mov f => Sys2Proof.Machine.execMov f s
  | .movs f => Sys2Proof.Machine.execMovs f s
  | .s2v f => Sys2Proof.Machine.execS2v f s
  | .v2s f => Sys2Proof.Machine.execV2s f s
  | .shfl f => Sys2Proof.Machine.execShfl f s
  | .vote f => Sys2Proof.Machine.execVote f s
  | .ballot f => Sys2Proof.Machine.execBallot f s
  | .wred f => Sys2Proof.Machine.execWred f s
  | .ld f => Sys2Proof.Machine.execLd f s
  | .st f => Sys2Proof.Machine.execSt f s
  | .ldr f => Sys2Proof.Machine.execLdr f s
  | .str f => Sys2Proof.Machine.execStr f s
  | .lds f => Sys2Proof.Machine.execLds f s
  | .sts f => Sys2Proof.Machine.execSts f s
  | .atom f => Sys2Proof.Machine.execAtom f s
  | .red f => Sys2Proof.Machine.execRed f s
  | .atoms f => Sys2Proof.Machine.execAtoms f s
  | .spill f => Sys2Proof.Machine.execSpill f s
  | .fill f => Sys2Proof.Machine.execFill f s
  | .pref f => Sys2Proof.Machine.execPref f s
  | .stash f => Sys2Proof.Machine.execStash f s
  | .unstash f => Sys2Proof.Machine.execUnstash f s
  | .stwb f => Sys2Proof.Machine.execStwb f s
  | .phase f => Sys2Proof.Machine.execPhase f s
  | .fence f => Sys2Proof.Machine.execFence f s
  | .fencex f => Sys2Proof.Machine.execFencex f s
  | .bar f => Sys2Proof.Machine.execBar f s
  | .abinit f => Sys2Proof.Machine.execAbinit f s
  | .abexp f => Sys2Proof.Machine.execAbexp f s
  | .abarr f => Sys2Proof.Machine.execAbarr f s
  | .abwait f => Sys2Proof.Machine.execAbwait f s
  | .joinHoop f => Sys2Proof.Machine.execJoinHoop f s
  | .leaveHoop f => Sys2Proof.Machine.execLeaveHoop f s
  | .hbar f => Sys2Proof.Machine.execHbar f s
  | .waitc f => Sys2Proof.Machine.execWaitc f s
  | .yieldTurn f => Sys2Proof.Machine.execYieldTurn f s
  | .sleep f => Sys2Proof.Machine.execSleep f s
  | .qpush f => Sys2Proof.Machine.execQpush f s
  | .qpop f => Sys2Proof.Machine.execQpop f s
  | .tsrld f => Sys2Proof.Machine.execTsrld f s
  | .cpy f => Sys2Proof.Machine.execCpy f s
  | .gather f => Sys2Proof.Machine.execGather f s
  | .scatter f => Sys2Proof.Machine.execScatter f s
  | .mclaim f => Sys2Proof.Machine.execMclaim f s
  | .mrel f => Sys2Proof.Machine.execMrel f s
  | .mload f => Sys2Proof.Machine.execMload f s
  | .mma f => Sys2Proof.Machine.execMma f s
  | .mmas f => Sys2Proof.Machine.execMmas f s
  | .accld f => Sys2Proof.Machine.execAccld f s
  | .accst f => Sys2Proof.Machine.execAccst f s
  | .accz f => Sys2Proof.Machine.execAccz f s
  | .mtask f => Sys2Proof.Machine.execMtask f s
  | .shwin f => Sys2Proof.Machine.execShwin f s
  | .shload f => Sys2Proof.Machine.execShload f s
  | .shinj f => Sys2Proof.Machine.execShinj f s
  | .shinjV f => Sys2Proof.Machine.execShinjV f s
  | .shlaunch f => Sys2Proof.Machine.execShlaunch f s
  | .shcap f => Sys2Proof.Machine.execShcap f s
  | .shreset f => Sys2Proof.Machine.execShreset f s
  | .kvapp f => Sys2Proof.Machine.execKvapp f s
  | .kvld f => Sys2Proof.Machine.execKvld f s
  | .vqlut f => Sys2Proof.Machine.execVqlut f s
  | .vqscore f => Sys2Proof.Machine.execVqscore f s
  | .spawn f => Sys2Proof.Machine.execSpawn f s
  | .park f => Sys2Proof.Machine.execPark f s
  | .wake f => Sys2Proof.Machine.execWake f s
  | .role f => Sys2Proof.Machine.execRole f s
  | .csrr f => Sys2Proof.Machine.execCsrr f s
  | .csrw f => Sys2Proof.Machine.execCsrw f s
  | .eretReplay f => Sys2Proof.Machine.execEretReplay f s
  | .eretSkip f => Sys2Proof.Machine.execEretSkip f s
  | .eretKill f => Sys2Proof.Machine.execEretKill f s
  | .eretEnd f => Sys2Proof.Machine.execEretEnd f s
  | .tlbinvVa f => Sys2Proof.Machine.execTlbinvVa f s
  | .tlbinvCtx f => Sys2Proof.Machine.execTlbinvCtx f s
  | .tlbinvAll f => Sys2Proof.Machine.execTlbinvAll f s
  | .icinvVa f => Sys2Proof.Machine.execIcinvVa f s
  | .icinvCtx f => Sys2Proof.Machine.execIcinvCtx f s
  | .icinvAll f => Sys2Proof.Machine.execIcinvAll f s
  | .dbgrd f => Sys2Proof.Machine.execDbgrd f s
  | .dbgwr f => Sys2Proof.Machine.execDbgwr f s
  | .halt f => Sys2Proof.Machine.execHalt f s
  | .dispatchInstance => Sys2Proof.Machine.execDispatchInstance s
  | .dispatchSpillExpiry die => Sys2Proof.Machine.execDispatchSpillExpiry die s
  | .starveExpiry level => Sys2Proof.Machine.execStarveExpiry level s
  | .issueStarvationPromote core slot path => Sys2Proof.Machine.execIssueStarvationPromote core slot path s
  | .operationComplete core slot op => Sys2Proof.Machine.execOperationComplete core slot op s
  | .pathMerge core slot serial => Sys2Proof.Machine.execPathMerge core slot serial s
  | .weaveEnd core slot => Sys2Proof.Machine.execWeaveEnd core slot s
  | .parentDecrement ctx record => Sys2Proof.Machine.execParentDecrement ctx record s
  | .sliceExpired core slot => Sys2Proof.Machine.execSliceExpired core slot s
  | .matrixFaultDelivery core slot => Sys2Proof.Machine.execMatrixFaultDelivery core slot s
  | .tileTaskStart core => Sys2Proof.Machine.execTileTaskStart core s
  | .tileTaskComplete core => Sys2Proof.Machine.execTileTaskComplete core s
  | .shutterRaceEnd core => Sys2Proof.Machine.execShutterRaceEnd core s
  | .copySectorPerformed core ch => Sys2Proof.Machine.execCopySectorPerformed core ch s
  | .gatherBatchTranslate core ch => Sys2Proof.Machine.execGatherBatchTranslate core ch s
  | .stashWritebackAuto core slot window sector => Sys2Proof.Machine.execStashWritebackAuto core slot window sector s
  | .heatEpoch die => Sys2Proof.Machine.execHeatEpoch die s
  | .remoteReplyHeld request reply => Sys2Proof.Machine.execRemoteReplyHeld request reply s
  | .sleepDeadline core slot path => Sys2Proof.Machine.execSleepDeadline core slot path s
  | .queuePortUnbind ctx port => Sys2Proof.Machine.execQueuePortUnbind ctx port s
  | .parkT1Expiry saved => Sys2Proof.Machine.execParkT1Expiry saved s
  | .parkT2Expiry saved => Sys2Proof.Machine.execParkT2Expiry saved s
  | .ageT1Expiry ctx va => Sys2Proof.Machine.execAgeT1Expiry ctx va s
  | .ageT2Expiry ctx va => Sys2Proof.Machine.execAgeT2Expiry ctx va s
  | .transomPageMove ctx va frame => Sys2Proof.Machine.execTransomPageMove ctx va frame s
  | .pageMoveComplete ctx va => Sys2Proof.Machine.execPageMoveComplete ctx va s
  | .tableWalkBusyTimeout core slot path => Sys2Proof.Machine.execTableWalkBusyTimeout core slot path s
  | .faultRecordDeferredWrite ctx => Sys2Proof.Machine.execFaultRecordDeferredWrite ctx s
  | .replyRingTailWrite ctx tail => Sys2Proof.Machine.execReplyRingTailWrite ctx tail s
  | .replyRetry ctx => Sys2Proof.Machine.execReplyRetry ctx s
  | .replySkip ctx => Sys2Proof.Machine.execReplySkip ctx s
  | .replyKill ctx => Sys2Proof.Machine.execReplyKill ctx s
  | .replyEnd ctx => Sys2Proof.Machine.execReplyEnd ctx s
  | .replyRaise ctx => Sys2Proof.Machine.execReplyRaise ctx s
  | .replyReserved ctx => Sys2Proof.Machine.execReplyReserved ctx s
  | .stopEnqueueDeferred core => Sys2Proof.Machine.execStopEnqueueDeferred core s
  | .takeStop core => Sys2Proof.Machine.execTakeStop core s
  | .takeInterrupt core => Sys2Proof.Machine.execTakeInterrupt core s
  | .hfwd core => Sys2Proof.Machine.execHfwd core s
  | .evictRequest core slot => Sys2Proof.Machine.execEvictRequest core slot s
  | .evictReturn core => Sys2Proof.Machine.execEvictReturn core s
  | .evictionComplete core slot => Sys2Proof.Machine.execEvictionComplete core slot s
  | .weaveWakeReturn saved => Sys2Proof.Machine.execWeaveWakeReturn saved s
  | .weaveReturn saved => Sys2Proof.Machine.execWeaveReturn saved s
  | .retall ctx => Sys2Proof.Machine.execRetall ctx s
  | .haltreq core slot path => Sys2Proof.Machine.execHaltreq core slot path s
  | .latchFreeze die => Sys2Proof.Machine.execLatchFreeze die s
  | .scanOutEnd die => Sys2Proof.Machine.execScanOutEnd die s
  | .latchReplyCatch die request reply => Sys2Proof.Machine.execLatchReplyCatch die request reply s
  | .catchSlow die => Sys2Proof.Machine.execCatchSlow die s
  | .imageSeal die => Sys2Proof.Machine.execImageSeal die s
  | .latchRestore die => Sys2Proof.Machine.execLatchRestore die s
  | .contQueueTailWrite queue tail => Sys2Proof.Machine.execContQueueTailWrite queue tail s
  | .hostBar2Access offset access => Sys2Proof.Machine.execHostBar2Access offset access s
  | .registerWrite offset size value => Sys2Proof.Machine.execRegisterWrite offset size value s
  | .hostLinkTrained rate width config => Sys2Proof.Machine.execHostLinkTrained rate width config s
  | .wasisLinkUp port lanes peer => Sys2Proof.Machine.execWasisLinkUp port lanes peer s
  | .wasisLinkDown port => Sys2Proof.Machine.execWasisLinkDown port s
  | .flitReceive port flit => Sys2Proof.Machine.execFlitReceive port flit s
  | .fabricRequestReceive port request => Sys2Proof.Machine.execFabricRequestReceive port request s
  | .fabricResponseReceive port response => Sys2Proof.Machine.execFabricResponseReceive port response s
  | .remoteTimeoutExpiry request => Sys2Proof.Machine.execRemoteTimeoutExpiry request s
  | .fabricTimeFlit port time => Sys2Proof.Machine.execFabricTimeFlit port time s
  | .gangArm => Sys2Proof.Machine.execGangArm s
  | .gangDisarm => Sys2Proof.Machine.execGangDisarm s
  | .gangStart => Sys2Proof.Machine.execGangStart s
  | .gangMemberReady => Sys2Proof.Machine.execGangMemberReady s
  | .gangReadyReceive member => Sys2Proof.Machine.execGangReadyReceive member s
  | .gangGoReceive => Sys2Proof.Machine.execGangGoReceive s
  | .gangAbortReceive => Sys2Proof.Machine.execGangAbortReceive s
  | .gangGraceExpiry => Sys2Proof.Machine.execGangGraceExpiry s
  | .gangMemberTimeout => Sys2Proof.Machine.execGangMemberTimeout s
  | .attest => Sys2Proof.Machine.execAttest s
  | .stage => Sys2Proof.Machine.execStage s
  | .applyUpdate => Sys2Proof.Machine.execApplyUpdate s
  | .floor => Sys2Proof.Machine.execFloor s
  | .drain => Sys2Proof.Machine.execDrain s
  | .drainComplete core => Sys2Proof.Machine.execDrainComplete core s
  | .returnCore => Sys2Proof.Machine.execReturnCore s
  | .retire => Sys2Proof.Machine.execRetire s
  | .coldReset => Sys2Proof.Machine.execColdReset s
  | .warmReset => Sys2Proof.Machine.execWarmReset s
  | .firmwareRehash => Sys2Proof.Machine.execFirmwareRehash s
  | .hingeFault core => Sys2Proof.Machine.execHingeFault core s
  | .translationInstall entry => Sys2Proof.Machine.execTranslationInstall entry s
  | .pathSample core scheduler => Sys2Proof.Machine.execPathSample core scheduler s
  | .telemetryUpdate reading => Sys2Proof.Machine.execTelemetryUpdate reading s
  | .gatingChange die on => Sys2Proof.Machine.execGatingChange die on s
  | .hardwareError index unit core syndrome => Sys2Proof.Machine.execHardwareError index unit core syndrome s
  | .fatalError index unit core => Sys2Proof.Machine.execFatalError index unit core s
  | .coreAutoRetire core => Sys2Proof.Machine.execCoreAutoRetire core s
  | .cacheLineWriteBack core line => Sys2Proof.Machine.execCacheLineWriteBack core line s
  | .cxlMemAccess address access => Sys2Proof.Machine.execCxlMemAccess address access s

end Sys2Proof.Machine
end

