-- ==== Sys2Proof/Machine/Run.lean ====
section
/-! DEFINITION. One instruction of a path: the cycles of its slice that it takes (R405, R412), its fetch and its
execution. -/

namespace Sys2Proof.Machine

/-- Cycles of issue that an instruction took of its weave's slice (R405, R412): one for each group with lanes (R11). -/
def State.countSlice (s : State) (a : Actor) (mask : LaneMask) : State :=
  if a.isHinge || (s.core a.core).hinge.slice = 0 then s
  else s.modifyWeave a.core a.slot (fun w =>
    let passes := ((List.range w.groups).filter (fun g => mask.word g != 0)).length
    { w with
      sliceLeft := w.sliceLeft - passes
      slicePending := w.slicePending || (w.sliceLeft != 0 && w.sliceLeft ≤ passes) })

/-- The lanes of a path, which its slice pays for. -/
def State.maskOf (s : State) (a : Actor) : LaneMask :=
  match s.path? a with
  | some q => q.mask
  | none => 0

/-- An instruction that has to wait takes no cycle yet: `t` with the slice as it was in `s`. -/
def State.keepSlice (t s : State) (a : Actor) : State :=
  match (t.path? a).map (fun (q : Path) => q.cond), s.weave? a.core a.slot with
  | some (.blocked (.stall _)), some v =>
    t.modifyWeave a.core a.slot (fun w => { w with sliceLeft := v.sliceLeft, slicePending := v.slicePending })
  | _, _ => t

/-- A weave of which nothing issues: one that ends, or is being evicted (R414), or whose write-back awaits a reply (R83), on a
core that stands still. -/
def State.mayRun (s : State) (c slot : Nat) (w : Weave) : Bool :=
  (s.die (dieOf c)).powered && !w.ending && !w.evicting && w.writeBackToken.isNone
    && (if slot = hingeSlot then !(s.core c).hinge.stopped else !(s.core c).frozen)

def State.issuesNothing (s : State) (a : Actor) : Bool :=
  (s.weave? a.core a.slot).any (fun w => !s.mayRun a.core a.slot w)

/-- The instruction that a path has issued and waits on, or the next one fetched (R363). -/
def State.nextInstr (s : State) (a : Actor) : Fetched :=
  match (s.path? a).bind (fun q => if q.cond = .ready then none else q.held) with
  | some i => .instr s i
  | none => s.fetch a

/-- A path fetches and executes its next instruction, which its slice pays for: an expiry in the same cycle shows in the
detail of a halt (R412). -/
def runPath (a : Actor) (s : State) : Host.Outcome State Fault Refusal :=
  if s.issuesNothing a then .next s
  else match ({ s with cur := a } : State).nextInstr a with
  | .instr s1 i =>
    (match exec i (s1.countSlice a (s1.maskOf a)) with
      | .next t => .next (t.keepSlice s1 a)
      | r => r)
  | .moved t => .next t
  | .stop f => .fault f

end Sys2Proof.Machine
end

