-- ==== Sys2Proof/Machine/Schedule.lean ====
section
/-! DEFINITION. Which move comes next (log 3), and what settles after each: waits that are over (R24, R35, R89, R177, R301,
R389), time (R196), slices (R412), the fabric (R421, R438, R443) and samples (R463). -/

namespace Sys2Proof.Machine

/-! ### Paths that may issue (R34 to R36, R304) -/

/-- A path that may issue now: READY, or waiting on the instruction at its PC. -/
def Path.issuable (q : Path) : Bool :=
  q.stepping != 3 && (match q.cond with
    | .ready | .blocked (.stall _) => true
    | _ => false)

/-- An engine fault is for a path that has come to its boundary, which it stops (R155). -/
def Weave.faultDue (w : Weave) (i : Nat) (q : Path) : Bool :=
  q.atBoundary && w.matrixFaults.any (fun f => w.faultPath f == some i)

/-- A path that may issue, with what the choice among paths looks at. -/
structure Runner where
  actor : Actor
  path : Path
  role : Nat
deriving DecidableEq, Repr

/-- The issue class of a role (R36). -/
def roleClass (role : Nat) : Nat :=
  match role with
  | 2 => 0
  | 1 => 1
  | 3 => 2
  | _ => 3

/-- The paths of a weave that may issue. -/
def State.weaveRunners (s : State) (c slot : Nat) (w : Weave) : List Runner :=
  if !s.mayRun c slot w then []
  else w.livePaths.filterMap (fun i =>
    match w.path? i with
    | some q =>
      if q.issuable && !w.faultDue i q then some { actor := actorOf c slot i, path := q, role := w.role } else none
    | none => none)

/-- The paths of the module that may issue. -/
def State.runners (s : State) : List Runner :=
  s.cores.flatMap (fun (c, k) => k.slots.flatMap (fun (slot, w) => s.weaveRunners c slot w))

/-- Two paths share a scheduler. -/
def Runner.sameScheduler (x y : Runner) : Bool :=
  x.actor.core == y.actor.core && x.actor.slot / 16 == y.actor.slot / 16

/-- A path that has yielded waits for those that were READY when it did, and have not issued since (R202, R304). -/
def Runner.heldBack (x : Runner) (all : List Runner) : Bool :=
  x.path.yielded && !x.path.promoted && all.any (fun y =>
    y.sameScheduler x && y.actor != x.actor && y.path.lastIssue < x.path.lastIssue
      && y.path.readySince ≤ x.path.readySince && y.path.cond == .ready)

/-- A path goes before its scheduler's others: promoted, or of the highest class there. -/
def Runner.leads (x : Runner) (all : List Runner) : Bool :=
  x.path.promoted || all.all (fun y =>
    !y.sameScheduler x || (!y.path.promoted && roleClass x.role ≤ roleClass y.role))

/-- The oldest issue among paths. -/
def Runner.oldest : List Runner → Option Actor
  | [] => none
  | x :: l => some (l.foldl (fun (best : Runner) y => if y.path.lastIssue < best.path.lastIssue then y else best) x).actor

/-- A path that waits on the instruction at its PC would wait on if it tried again now. -/
def State.stillStalls (s : State) (a : Actor) : Bool :=
  match runPath a s with
  | .next t =>
    (match (t.path? a).map (fun (q : Path) => q.cond) with
    | some (.blocked (.stall _)) => true
    | _ => false)
  | _ => false

/-- The path that issues next (log 3). Of the paths that are READY, or whose wait on the instruction at their PC is over,
and that lead their schedulers, the one that issued longest ago; a path that still waits has yielded its turn (R34) and
holds back none of them (R35), and such paths look again in rotation, at every other turn of the paths. -/
def State.nextRunner (s : State) : Option Actor :=
  let (ready, waiting) := s.runners.partition (fun x => x.path.cond == .ready || !s.stillStalls x.actor)
  let free := ready.filter (fun x => !x.heldBack ready)
  let first := Runner.oldest (free.filter (fun x => x.leads free))
  let again := (waiting[s.turn / 4 % max 1 waiting.length]?).map (fun x => x.actor)
  if s.turn / 2 % 2 = 0 then first <|> again else again <|> first

/-! ### Events that are due -/

/-- An event when a condition holds. -/
def whenDue (b : Bool) (i : Instr) : List Instr := if b then [i] else []

/-- The completion of an operation would have an effect now. -/
def State.mayComplete (s : State) (c : Nat) (w : Weave) (o : Operation) : Bool :=
  !s.requested w o.id && match o.kind with
    | .shutter | .park => false
    | .copy ch => !((s.core c).channel ch).any (fun y => y.op == o.id && y.weave == w.id)
    | .matrix => !(s.core c).matrix.any (fun m => m.op == o.id && m.weave == w.id && (m.work.isTask || (s.core c).blocked m))
    | .invalidate requests works => !s.accessesLeft requests works
    | .result | .store | .writeBack | .remote => true

/-- Events of one weave. -/
def State.weaveEvents (s : State) (c slot : Nat) (w : Weave) : List Instr :=
  let live := w.livePaths.filterMap (fun i => (w.path? i).map (fun (q : Path) => (i, q)))
  let halted := live.any (fun x => match x.2.cond with
    | .halted _ => true
    | _ => false)
  let completions := (w.ops.filter (s.mayComplete c w)).map (fun o => Instr.operationComplete c slot o.id)
  if slot = hingeSlot then completions
  else
    whenDue (w.ending && w.ops.isEmpty) (.weaveEnd c slot)
    ++ whenDue (w.evicting && w.writeBackToken.isNone && s.drained c w) (.evictionComplete c slot)
    ++ whenDue w.nextFault.isSome (.matrixFaultDelivery c slot)
    ++ whenDue (w.slicePending && !halted && live.any (fun x => x.2.cond == .ready)) (.sliceExpired c slot)
    ++ completions
    ++ live.flatMap (fun (i, q) =>
      match q.cond with
      | .arrived _ serial _ => whenDue (w.mayMerge serial) (.pathMerge c slot serial)
      | .ready => whenDue (s.starves q && !q.promoted) (.issueStarvationPromote c slot i)
      | .blocked (.qpop port _) =>
        let entry := s.portEntry w.id.ctx port
        whenDue (entry = 0 || bits entry 127 72 != 0) (.queuePortUnbind w.id.ctx port)
      | _ => [])

/-- Events of the engines and of the hinge core of one core. -/
def State.coreEvents (s : State) (c : Nat) (k : Core) : List Instr :=
  whenDue k.takesStop (.takeStop c)
  ++ whenDue k.takesInterrupt (.takeInterrupt c)
  ++ (if k.frozen then []
    else
      whenDue (!k.lateStops.isEmpty && k.stops.length < 64) (.stopEnqueueDeferred c)
      ++ whenDue k.running.isSome (.tileTaskComplete c)
      ++ whenDue (k.running.isNone && k.matrix.any (fun m => m.work.isTask)) (.tileTaskStart c)
      ++ whenDue (k.shutter.state == .racing) (.shutterRaceEnd c)
      ++ k.channels.flatMap (fun (ch, l) =>
        match l with
        | o :: _ => [if o.isRows && !o.untranslated.isEmpty then .gatherBatchTranslate c ch else .copySectorPerformed c ch]
        | [] => [])
      ++ k.slots.flatMap (fun (slot, w) => s.weaveEvents c slot w))

/-- Events of the dispatcher. -/
def State.dispatchEvents (s : State) : List Instr :=
  whenDue (!s.dispatchStopped && s.enabledQueues.any (fun q => queueFill s q != 0 || s.returned.any (fun x => x.queue == q)))
    .dispatchInstance
  ++ s.saved.flatMap (fun (key, x) =>
    whenDue (!x.returned && s.anyMet x.weave key x.held && !s.repliesDue x.weave.id) (.weaveWakeReturn key))
  ++ s.live.flatMap (fun l => whenDue (l.retiring && l.token = 0 && !l.sent) (.parentDecrement l.ctx l.record))
  ++ s.lateFaults.flatMap (fun r => whenDue (s.faultRoom r.ctx) (.faultRecordDeferredWrite r.ctx))
  ++ (List.range 64).flatMap (fun ctx =>
    if s.repliesWaiting ctx = 0 then [] else [replyEvent ctx (s.replyAt ctx (s.replyHead ctx))])

/-- The highest frame from `base` on, of `n`, that fits a planned move. -/
def State.findFrame (s : State) (p : PlannedMove) (base : Nat) : (n : Nat) → Option Nat
  | 0 => none
  | n + 1 => if s.fitDestination p (base + n) then some (base + n) else State.findFrame s p base n

/-- Where the frames of a planned move's destination lie: the first, and how many. -/
def PlannedMove.frames (p : PlannedMove) : Nat × Nat :=
  match p.toTier with
  | 0 => (p.die * (hbmPerDie / 65536), hbmPerDie / 65536)
  | 1 => (cxlBase / 65536, (cxlTop - cxlBase) / 65536)
  | _ => (0, 2 ^ 30)

/-- Events of the Transoms. -/
def State.transomEvents (s : State) : List Instr :=
  s.moves.map (fun m => Instr.pageMoveComplete m.ctx m.va)
  ++ (List.range Config.dies).flatMap (fun d =>
    if s.field (transomBlock d) 2 2 = 1 || s.moves.any (fun m => m.die == d) then []
    else match s.nextPlanned d with
      | none => []
      | some p =>
        match s.findFrame p p.frames.1 p.frames.2 with
        | some f => [.transomPageMove p.ctx p.va f]
        | none => [])

/-- Events of the fabric and the gang. -/
def State.fabricEvents (s : State) : List Instr :=
  s.incoming.flatMap (fun (port, r) =>
    whenDue (r.dest != s.moduleNumber || (!s.gangHolds r && s.canRespond r)) (.fabricRequestReceive port r))
  ++ whenDue (gangState s = 1 && s.gangStarted && !s.preempting) .gangMemberReady
  ++ whenDue (gangState s = 4 && s.gangCores.any (fun c =>
    s.latchFree (dieOf c) || (s.gangSlots c).all (fun i => s.judgeEviction c i == 1))) .gangAbortReceive

/-- The mailbox command, or drain, that goes on. -/
def State.securityEvents (s : State) : List Instr :=
  (if s.field mailboxBlock 87 80 != 1 then []
   else match s.drains.find? (fun d => d.mailbox) with
    | some d => [if s.drainedOut d.core then .drainComplete d.core else .drain]
    | none => [if s.applying.isSome then .applyUpdate else .retire])
  ++ (s.drains.filter (fun d => !d.mailbox)).map (fun d => Instr.coreAutoRetire d.core)

/-- Events of a Latch channel that are due now. -/
def State.latchEvents (s : State) (d : Nat) : List Instr :=
  match (s.die d).latch with
  | some l => whenDue (latchState s d = 3 && s.outstanding l.source = 0) (.imageSeal d)
  | none => []

/-! ### Deadlines -/

/-- Ticks of fabric time. -/
def State.tickOf (s : State) (ns : Nat) : Nat := ((ns - s.ftimeBase) * 21 + 9) / 10

/-- Deadlines of the weaves of a core. -/
def State.coreDeadlines (s : State) (c : Nat) (k : Core) : List (Nat × Instr) :=
  k.slots.flatMap (fun (slot, w) => w.livePaths.flatMap (fun i =>
    match w.path? i with
    | none => []
    | some q =>
      match q.cond with
      | .blocked (.sleep d _) => [(d, .sleepDeadline c slot i)]
      | _ => (s.walkDeadline c w.id.ctx q).toList.filterMap (fun t =>
          if s.tick < t then some (t, .tableWalkBusyTimeout c slot i) else none)))

/-- Deadlines of the dispatcher: spills and starving levels. -/
def State.dispatchDeadlines (s : State) : List (Nat × Instr) :=
  s.spills.flatMap (fun x =>
    let ns := s.field fabricBlock (32 * x.die + 159) (32 * x.die + 128)
    let t := x.since + spillCycles ns
    if ns = never || t ≤ s.tick then [] else [(t, .dispatchSpillExpiry x.die)])
  ++ s.levelSince.flatMap (fun (level, t) =>
    if s.starving.contains level then [] else [(t + s.field fabricBlock 31 16 * cyclesPerMicro, .starveExpiry level)])

/-- The entries of a table node that are not zero, ascending. -/
def State.nodeEntries (s : State) (node : Nat) : List Nat :=
  sortNat ((s.mem.filter (fun x => node ≤ x.1 && x.1 < node + 65536)).map (fun x => (x.1 - node) / 8))

/-- The addresses of the 64 KiB entries below a node of a context's tables; `va` is where it begins. -/
def State.leavesBelow (s : State) : (shifts : List Nat) → (node va : Nat) → List Nat
  | [], _, _ => []
  | sh :: rest, node, va =>
    (s.nodeEntries node).flatMap (fun i =>
      let e := s.readHomeNat (node + 8 * i) 8
      if sh = 16 then [va + i * 65536]
      else if pointerFollowed e then s.leavesBelow rest (bits e 55 20 * 65536) (va + i * 2 ^ sh)
      else [])

/-- The pages of the contexts whose aging a Transom may call for: none while no Transom ages any. -/
def State.pages (s : State) : List (Nat × Nat) :=
  if !(List.range Config.dies).any s.aging then []
  else (List.range 64).flatMap (fun ctx =>
    if s.ctxEnabled ctx then (s.leavesBelow levelShifts (s.ctxRoot ctx) 0).map (fun va => (ctx, va)) else [])

/-- When a page's class timer runs out (R393). -/
def State.ageDeadline (s : State) (ctx va : Nat) : List (Nat × Instr) :=
  match s.movable ctx va with
  | none => []
  | some (_, _, l) =>
    let t := l.tier + 1
    let timer := s.classTimer (leafDie l) l.age t
    let at_ := (Table.find? s.touched l.frame).getD 0 + timer * cyclesPerMicro
    if l.age = 0 || 2 < t || timer = never || l.pin || !s.aging (leafDie l) || s.entryPins ctx va || s.moving ctx va then []
    else [(at_, if t = 1 then .ageT1Expiry ctx va else .ageT2Expiry ctx va)]

/-- Deadlines of pages and parks. -/
def State.transomDeadlines (s : State) : List (Nat × Instr) :=
  s.parks.flatMap (fun e =>
    if e.woken.isSome || !s.saved.any (fun x => x.1 == e.saved) || e.t1 = never then []
    else if e.aged = 0 then [(e.since + e.t1 * cyclesPerMicro, .parkT1Expiry e.saved)]
    else if e.aged = 1 && e.t2 != never then [(e.since + (e.t1 + e.t2) * cyclesPerMicro, .parkT2Expiry e.saved)]
    else [])
  ++ s.pages.flatMap (fun x => s.ageDeadline x.1 x.2)
  ++ (List.range Config.dies).map (fun d =>
    ((s.die d).epochAt + 2 ^ min 20 (s.field (transomBlock d) 15 8) * cyclesPerMicro, .heatEpoch d))

/-- Deadlines of the Latch channels, of the fabric, of telemetry, of a gang slice and of the security processor. -/
def State.otherDeadlines (s : State) : List (Nat × Instr) :=
  (List.range Config.dies).flatMap (fun d =>
    match (s.die d).latch with
    | none => []
    | some l =>
      if latchState s d = 2 then [(l.started + 9264, .scanOutEnd d)]
      else if latchState s d = 3 && !l.slowReported && s.outstanding l.source != 0 then
        [(l.scanned + s.field (latchBlock d) 415 384 * cyclesPerMicro, .catchSlow d)]
      else [])
  ++ (s.requests.filter (fun r => !r.waiting)).map (fun r => (r.sent + s.remoteTimeout, .remoteTimeoutExpiry r.id))
  ++ s.ports.flatMap (fun (p, x) => if s.portUp p then [(x.timeAt + timePeriod, .fabricTimeFlit p 0)] else [])
  ++ (List.range Config.dies).map (fun d =>
    ((s.die d).telemetryAt + millisecond, .telemetryUpdate { Config.reading s.tick d with die := d }))
  ++ (if gangState s = 1 && !s.gangStarted then [(s.tickOf (gangStartTime s), .gangStart)] else [])
  ++ (if s.gangOpen && s.isLeader then [(s.tickOf (gangStartTime s + gangGrace s), .gangGraceExpiry)] else [])
  ++ (if s.gangOpen then [(s.tickOf (gangStartTime s + 2 * gangGrace s), .gangMemberTimeout)] else [])
  ++ [(s.rehashAt + secondCycles, .firmwareRehash)]

/-- Every deadline that is set, with its event. -/
def State.deadlines (s : State) : List (Nat × Instr) :=
  s.cores.flatMap (fun (c, k) => s.coreDeadlines c k) ++ s.dispatchDeadlines ++ s.transomDeadlines ++ s.otherDeadlines

/-- Events that are due now. -/
def State.dueEvents (s : State) : List Instr :=
  s.cores.flatMap (fun (c, k) => if (s.die (dieOf c)).powered then s.coreEvents c k else []) ++ s.dispatchEvents
    ++ s.transomEvents ++ s.fabricEvents ++ s.securityEvents ++ (List.range Config.dies).flatMap s.latchEvents
    ++ (s.deadlines.filter (fun x => x.1 ≤ s.tick)).map (fun x => x.2)

/-- The event of the earliest deadline. -/
def State.earliest (s : State) : Option Instr :=
  match s.deadlines with
  | [] => none
  | x :: l => some (l.foldl (fun best y => if y.1 < best.1 then y else best) x).2

/-! ### The next move -/

/-- A move in the default order: paths and events in turn, the events one after another; with neither, time goes on to the
next deadline. Nothing but the boot runs before READY, and nothing but the reset after a fatal error. -/
def State.defaultMove (s : State) : Option Move :=
  if s.fatal.isSome then some (.event .warmReset)
  else if s.bootStage = 0 then some (.event .coldReset)
  else if !s.isReady then none
  else
    let events := s.dueEvents
    let event := (events[s.turn / 2 % max 1 events.length]?).map Move.event
    let path := s.nextRunner.map Move.issue
    let chosen := if s.turn % 2 = 0 then path <|> event else event <|> path
    chosen <|> s.earliest.map Move.event

/-- The next move, and the state once it has left the agenda. -/
def State.nextMove (s : State) : Option Move × State :=
  match s.agenda with
  | m :: rest => (some m, { s with agenda := rest })
  | [] => (s.defaultMove, s)

/-! ### What settles after a move -/

/-- A path whose wait is over, or whose page has come, goes on. -/
def State.settlePath (s : State) (a : Actor) (w : Weave) (q : Path) : State :=
  match q.cond with
  | .ready => if q.stepping = 3 then s.haltPath a 1 0 false false (s.nextOf a) else s
  | .blocked _ =>
    let s := s.modifyPath a (fun q => { q with readySince := s.tick })
    if q.waitOver then s.modifyPath a Path.wake else s
  | .parked k =>
    let s := s.modifyPath a (fun q => { q with readySince := s.tick })
    if k.cause = tierWait && s.landed w.id.ctx (bits k.detail.toNat 71 0) then
      s.modifyPath a (fun q => { q with cond := .ready })
    else s
  | _ => s.modifyPath a (fun q => { q with readySince := s.tick })

/-- The waits of a weave; a barrier word may also have been written by plain stores (R298, R300). -/
def State.settleWeave (s : State) (c slot : Nat) : State :=
  let s := s.modifyWeave c slot Weave.retestAb
  let s := (((s.settleBars c slot).settleHoops c slot).settleQueues c slot).settleKv c slot
  match s.weave? c slot with
  | none => s
  | some w => w.livePaths.foldl (fun s i =>
      match w.path? i with
      | some q => s.settlePath (actorOf c slot i) w q
      | none => s) s

/-- The waits of a core: its weaves', its matrix queue's, and its hinge core's HALT. -/
def State.settleCore (s : State) (c : Nat) : State :=
  let s := s.modifyCore c (fun k =>
    if k.hinge.stopped && k.pendingForHinge then { k with hinge := { k.hinge with stopped := false } } else k)
  if (s.core c).frozen then s
  else ((s.core c).slots.foldl (fun s x => s.settleWeave c x.1) s).settleMatrix c

/-- The sample period of a context in cycles (R459). -/
def State.samplePeriod (s : State) (ctx : Nat) : Nat := ringSize (s.field (debugBlock ctx) 12 8) 8 16

/-- The sample period of a scheduler: the least of those of the contexts that it samples (log 60). -/
def State.schedulerPeriod (s : State) (c sched : Nat) : Option Nat :=
  let ctxs := ((s.core c).schedWeaves sched).filterMap (fun x =>
    if s.field (debugBlock x.2.id.ctx) 2 2 = 1 then some (s.samplePeriod x.2.id.ctx) else none)
  leastBy (fun n => n) ctxs

/-- Samples of a scheduler at the ends of periods `first` to `first + n - 1`, each with its own tick. -/
def State.takeSamples (s : State) (c sched period first : Nat) : (n : Nat) → State
  | 0 => s
  | n + 1 =>
    let t := ({ s with tick := first * period } : State).samplePath c sched
    ({ t with tick := s.tick } : State).takeSamples c sched period (first + 1) n

/-- The samples that the passing of time from a tick on calls for: one of each scheduler at the end of each period (R463). -/
def State.settleSamples (s : State) (before : Nat) : State :=
  s.cores.foldl (fun s (c, k) =>
    if k.frozen then s
    else (List.range 4).foldl (fun s sched =>
      match s.schedulerPeriod c sched with
      | none => s
      | some n => s.takeSamples c sched n (before / n + 1) (s.tick / n - before / n)) s) s

/-- Lines of a core's L1, 256 KiB, and of a die's L2, 96 MiB (R69). -/
def l1Lines : Nat := 2048
def l2Lines : Nat := 786432

/-- The line that leaves a full cache: any of them (R69, log 7). -/
def victimOf (turn : Nat) (t : Table CacheLine) : Nat :=
  ((t[Config.victim turn t.length % max 1 t.length]?).map (fun x => x.1)).getD 0

/-- Lines written back and dropped until a core's L1 keeps to its capacity; the fuel is the number of lines too many. -/
def State.trimL1 (s : State) (c : Nat) : Nat → State
  | 0 => s
  | n + 1 =>
    let k := victimOf (s.turn + n) (s.core c).l1
    ((s.flushL1Line c k).modifyCore c (fun x => { x with l1 := Table.erase x.l1 k })).trimL1 c n

def State.trimL2 (s : State) (d : Nat) : Nat → State
  | 0 => s
  | n + 1 =>
    let k := victimOf (s.turn + n) (s.die d).l2
    ((s.flushL2Line d k).modifyDie d (fun x => { x with l2 := Table.erase x.l2 k })).trimL2 d n

/-- Every cache within its capacity (R69). A frozen core's waits. -/
def State.settleCaches (s : State) : State :=
  let s := s.cores.foldl (fun s x => if x.2.frozen then s else s.trimL1 x.1 (x.2.l1.length - l1Lines)) s
  s.dies.foldl (fun s x => s.trimL2 x.1 (x.2.l2.length - l2Lines)) s

/-- What follows every move: time passes, every wait that is over ends, and the caches keep to their capacities. -/
def State.settle (s : State) (before : Nat) : State :=
  let s := { s with tick := s.tick + 1 + Config.extraCycles s.turn, turn := s.turn + 1 }
  let s := s.settlePorts
  let s := s.cores.foldl (fun s x => s.settleCore x.1) s
  let s := s.settleRecords.settleParks.settleAging.settleLooks.settleWatches.restoreDrained.settleCaches
  s.settleSends.settleCredits.settleTime.settleTraces.settleSamples before

end Sys2Proof.Machine
end

