-- ==== Sys2Proof/Machine/Step.lean ====
section
/-! DEFINITION. One step of the module: the next move, and what settles after it. -/

namespace Sys2Proof.Machine

/-- A move carried out; with none, only time passes. -/
def runMove (m : Option Move) (s : State) : Host.Outcome State Fault Refusal :=
  match m with
  | some (.issue a) => runPath a s
  | some (.event i) => exec i s
  | none => .next s

/-- One step. -/
def step (s : State) : Host.Outcome State Fault Refusal :=
  match runMove s.nextMove.1 s.nextMove.2 with
  | .next t => .next (t.settle s.tick)
  | r => r

/-- Where `withFetchWord` puts the word: one 64 KiB page of context 0. -/
def fetchWordVa : Nat := 0x10000

/-- `s` with the instruction placed at the next fetch, as the launch of a weave would leave it (log 21): context 0
enabled on a booted module, with a table of five nodes (frames 1 to 5) and one leaf, the word's bytes in frame 6, an empty Farno range
table in frame 7, and a weave of 32 lanes in slot 0 of core 0 that issues next. -/
def State.withFetchWord (s : State) (nbits w : Nat) : State :=
  let pointer := fun (frame : Nat) => frame * 2 ^ 20 + 1
  let leaf := 6 * 2 ^ 20 + 1 * 2 ^ 9 + 0x69
  let write8 := fun (m : Memory) (pa v : Nat) => m.writeBytes pa (toBytes 8 v)
  let mem := write8 s.mem 0x10000 (pointer 2)
  let mem := write8 mem 0x20000 (pointer 3)
  let mem := write8 mem 0x30000 (pointer 4)
  let mem := write8 mem 0x40000 (pointer 5)
  let mem := write8 mem (0x50000 + 8 * (fetchWordVa / 65536)) leaf
  let mem := mem.writeBytes 0x60000 (toBytes 24 (w % 2 ^ nbits))
  let mem := mem.writeBytes 0x70000 (List.replicate 256 0)
  let s := { s with
    mem
    frames := Table.set s.frames 6 { shared := false, free := false, owner := 0 }
    quadTlbs := Table.erase s.quadTlbs 0
    cur := { core := 0, slot := 0, path := 0 }
    agenda := [.issue { core := 0, slot := 0, path := 0 }] }
  let s := s.setField bootBlock 19 0 (7 * 2 ^ 16 + 1)
  let s := s.setField (translationBlock 0) 52 52 1
  let s := s.setField (translationBlock 0) 35 0 1
  let s := s.setField (serviceBlock 0) 207 168 0x70
  let s := s.modifyDie 0 (fun d => { d with l3 := [] })
  let weave := Weave.blank { ctx := 0, record := 0, inst := 0, gen := 0 } 1 255 64 16 (BitVec.ofNat 72 fetchWordVa)
  s.modifyCore 0 (fun k => { k with
    tlb := [], walkAhead := [], fetch := []
    slots := Table.set k.slots 0 { weave with spadBytes := 65536, stashCount := 16 } })

end Sys2Proof.Machine
end

