-- ==== Sys2Proof/Safety.lean ====
section
/-! DEFINITION. The terms that statements use: a safe step, an instruction that issues and runs, what a step leaves
alone, and the values written. -/

namespace Sys2Proof

open Machine

/-- A step that neither stops the machine nor is refused. -/
def SafeStep (s : State) : Prop := ∃ t, step s = .next t

/-- A lane of a vector register, where the weave has one. -/
def laneAt? (w : Weave) (n k : Nat) : Option Word32 := (w.vregs[n]?).bind (fun l => l[k]?)

/-- `i` issues in `s` and acts: its path is live and READY, not asked to halt or to step, and no replay; no register is
owed a result (R205), and none is promised to an open window where HINTCHK checks it (R206); the word breaks no rule of R210, its wait is over and its counter not full (R203), its
privilege (R338) and its weave's role (R36) allow it; some lane of the path acts under the guard (R201). `e` is the instruction with what it reads. -/
structure Issuing (i : Instr) (g : Engine) (s : State) (e : Env) : Prop where
  known : ∃ sig f w q, sigOf i = some (sig, f) ∧ s.weave? s.cur.core s.cur.slot = some w
    ∧ w.path? s.cur.path = some q ∧ q.cond = .ready ∧ q.haltRequest = false ∧ q.stepping = 0
    ∧ q.captured = none ∧ q.replayMask = none ∧ (∀ o ∈ w.ops, o.writes = [])
    ∧ issueDefect s s.cur w q i sig f = none ∧ (sig.privileged = true → s.cur.isHinge = true)
    ∧ waitsOnCounter w q f = false ∧ (bitAt w.mode.toNat 2 = true → q.windows = [])
    ∧ e = issueEnv i (s.sized s.cur w i sig) f s (w.modifyPath s.cur.path Path.countIssue) q.countIssue
  counter : e.counterFull = false
  acts : ∃ k, k ∈ e.lanes
  role : roleAllows e.w.role g = true

/-- From `s` to `t` nothing changes but the weave of `a` (and the issue count). -/
structure OnlyWeave (s t : State) (a : Actor) : Prop where
  memory : ∀ p, t.mem.read p = s.mem.read p
  machine : { t with cores := s.cores, serial := s.serial } = s
  cores : ∀ c, c ≠ a.core → t.core c = s.core c
  core : { t.core a.core with slots := (s.core a.core).slots } = s.core a.core
  slots : ∀ n, n ≠ a.slot → t.weave? a.core n = s.weave? a.core n

/-- Every register of a weave keeps its value, and its tag, but those whose operand codes (R195) are listed. -/
structure RegsKept (w w' : Weave) (written : List Nat) : Prop where
  vregs : ∀ n, n ∉ written → w'.vregs[n]? = w.vregs[n]? ∧ w'.tags[n]? = w.tags[n]?
  sregs : ∀ n, 0x100 + n ∉ written → w'.sregs[n]? = w.sregs[n]?
  preds : ∀ n, 0x200 + n ∉ written → w'.preds[n]? = w.preds[n]?
  aregs : ∀ n, 0x210 + n ∉ written → w'.aregs[n]? = w.aregs[n]?
  shapes : ∀ n, 0x236 + n ∉ written → w'.shapes[n]? = w.shapes[n]?

/-- Jambs (R42) of registers not listed keep their place in the weave's table. -/
structure JambsKept (w w' : Weave) (written : List Nat) : Prop where
  vjambs : ∀ n, n ∉ written → w'.vjambs[n]? = w.vjambs[n]?
  sjambs : ∀ n, 0x100 + n ∉ written → w'.sjambs[n]? = w.sjambs[n]?

/-- What a weave holds beside its registers, jambs and paths is the same: its mode and random counter, its operations,
its scratchpad, stash windows and sectors, the hoops it holds, and its ends. -/
def RestKept (w w' : Weave) : Prop :=
  { w' with
    vregs := w.vregs, tags := w.tags, vjambs := w.vjambs, sregs := w.sregs, sjambs := w.sjambs
    preds := w.preds, aregs := w.aregs, shapes := w.shapes, paths := w.paths } = w

/-- The issuing path stands READY at `pc` with its lanes, stack, counters and operations; the other paths are as they
were. -/
structure PathAt (e : Env) (w' : Weave) (pc : VAddr) : Prop where
  here : ∃ q', w'.path? e.a.path = some q' ∧ q'.pc = pc ∧ q'.cond = .ready ∧ q'.mask = e.p.mask ∧ q'.stack = e.p.stack
    ∧ q'.counters = e.p.counters ∧ q'.issued = e.p.issued
  others : ∀ i, i ≠ e.a.path → w'.path? i = e.w.path? i

/-- An instruction that writes registers alone has run to `t`: the registers in `written` may have changed, and nothing
else but their jambs and the path's place. `w'` is the weave after it. -/
structure RegisterRun (s : State) (e : Env) (t : State) (w' : Weave) (written : List Nat) : Prop where
  weave : t.weave? e.a.core e.a.slot = some w'
  only : OnlyWeave s t e.a
  regs : RegsKept e.w w' written
  jambs : JambsKept e.w w' written
  rest : RestKept e.w w'
  path : PathAt e w' e.next

/-- The registers that a destination operand names: none for vz, pT and special registers. -/
def writtenBy (o : Operand) : List Nat :=
  match o with
  | .vreg n => [n]
  | .sreg n => [0x100 + n]
  | .pred n => [0x200 + n]
  | _ => []

/-- A destination after an instruction of the acting lanes with values `val` by lane (R200, R217, R218): a vector
register takes them in the acting lanes and keeps its other lanes, a scalar register takes the one of the lowest acting
lane, a predicate takes bit 0 in the acting lanes; vz and pT discard. -/
def Took (e : Env) (w' : Weave) (o : Operand) (val : Nat → Nat) : Prop :=
  match o with
  | .vreg n => ∀ k old, laneAt? e.w n k = some old →
      laneAt? w' n k = some (if e.acting.has k then BitVec.ofNat 32 (val k) else old)
  | .sreg n => ∀ old, e.w.sregs[n]? = some old → w'.sregs[n]? = some (BitVec.ofNat 64 (val e.lowLane))
  | .pred n => ∀ old k, e.w.preds[n]? = some old → k < e.w.laneCount → k < 1024 →
      ∃ new, w'.preds[n]? = some new ∧ new.has k = (if e.acting.has k then val k % 2 == 1 else old.has k)
  | _ => True

/-- A vector destination carries tag `t` (R132). -/
def Tagged (e : Env) (w' : Weave) (o : Operand) (t : Tag) : Prop :=
  match o with
  | .vreg n => n < e.w.tags.length → w'.tags[n]? = some t
  | _ => True

/-- The tag check of R133 passes for an operand read as `t`. -/
def TagOk (w : Weave) (t : Tag) (o : Operand) : Prop :=
  match o with
  | .vreg n => w.tag n = .untyped ∨ w.tag n = t
  | _ => True

/-- The byte that a cache holds at an address. -/
def lineByte? (t : Table CacheLine) (p : Nat) : Option Byte :=
  if (getLine t (p / 128)).valid.getLsbD (p % 128) then some ((getLine t (p / 128)).byte (p % 128)) else none

/-- The byte that core `c` sees at a physical address (R93, R94): its L1's, else its die's, else memory's. -/
def byteSeen (s : State) (c p : Nat) : Byte :=
  match lineByte? (s.core c).l1 p with
  | some b => b
  | none =>
    if homeDie p = dieOf c then s.mem.read p
    else match lineByte? (s.die (dieOf c)).l2 p with
      | some b => b
      | none => s.mem.read p

/-- The `n` bytes that core `c` sees from an address on. -/
def bytesSeen (s : State) (c p n : Nat) : List Byte := (List.range n).map (fun i => byteSeen s c (p + i))

/-- No byte of memory changes, at home or as any core sees it. -/
def MemorySame (s t : State) : Prop :=
  (∀ p, t.mem.read p = s.mem.read p) ∧ ∀ c p, byteSeen t c p = byteSeen s c p

/-- An address that the instruction reaches at `pa` by a translation that is held: nothing changes in finding it (R382 to
R386), and `pa` is aligned as the access is (R68). -/
def HeldAt (e : Env) (n : Need) (va pa width : Nat) : Prop :=
  e.s.translateFor e.a e.w.id.ctx va n = (e.s, .phys pa) ∧ pa % width = 0

/-- Every acting lane's global access of `width` bytes is good: masked by its bounds check (R54), or reached at `pa k`. -/
def LanesReach (e : Env) (n : Need) (o : Int) (width : Nat) (pa : Nat → Option Nat) : Prop :=
  ∀ k ∈ e.lanes, match pa k with
    | none => e.globalLane o width k = .masked
    | some p => ∃ va, e.globalLane o width k = .global va ∧ HeldAt e n va p width

/-- The weave after an access whose results an operation owes: no value changes yet (R204), the path stands at next. It is
READY, but where a request already bears the number of this issue (none does in a run), for which an .ACQ atomic waits. -/
structure Owing (s : State) (e : Env) (t : State) (w' : Weave) : Prop where
  weave : t.weave? e.a.core e.a.slot = some w'
  vregs : w'.vregs = e.w.vregs
  sregs : w'.sregs = e.w.sregs
  aregs : w'.aregs = e.w.aregs
  shapes : w'.shapes = e.w.shapes
  modes : w'.mode = e.w.mode ∧ w'.rng = e.w.rng ∧ w'.role = e.w.role
  path : ∃ q', w'.path? e.a.path = some q' ∧ q'.pc = e.next ∧ q'.mask = e.p.mask ∧ q'.stack = e.p.stack
    ∧ (q'.cond = .ready ∨ (q'.cond = .blocked (.hold e.serial) ∧ ∃ r ∈ s.requests, r.op = e.serial))
  others : ∀ i, i ≠ e.a.path → w'.path? i = e.w.path? i
  cores : ∀ c, c ≠ e.a.core → ∀ n, t.weave? c n = s.weave? c n
  slots : ∀ n, n ≠ e.a.slot → t.weave? e.a.core n = s.weave? e.a.core n

/-- An operation of this issue is outstanding, counted by SET (R203), and owes `ws`. -/
def Owes (e : Env) (w' : Weave) (cls : Option AccessClass) (ws : List PendingWrite) : Prop :=
  (∃ o, w'.ops = e.w.ops ++ [o] ∧ o.id = e.serial ∧ o.cls = cls ∧ o.writes = ws)
    ∧ ∃ q', w'.path? e.a.path = some q' ∧ q'.issued = e.p.issued ++ [e.serial]
      ∧ ∀ c l, e.p.counters[c]? = some l → q'.counters[c]? = some (if e.f.setN = c + 1 then l ++ [e.serial] else l)

end Sys2Proof
end

