-- ==== Sys2Proof/Certificates/Slice0/Obligations.lean ====
section
/-! DEFINITION. The statements for the provers. Each names the rules of spec/ that it comes from. A statement about an
instruction starts from `Issuing`: the instruction passes every check of its issue and has a lane to act in. -/

open Sys2Proof Sys2Proof.Machine

/-! ### Class 0: integer arithmetic (R217 to R224) -/

/-- R223: `v` is the exact result `r` reduced to `w` bits, or with SAT clamped into the range of the type. -/
def Sys2Proof.Narrowed (w : Nat) (isSigned sat : Bool) (r : Int) (v : Nat) : Prop :=
  v < 2 ^ w ∧
    (if sat then
      (if isSigned then signed w v = max (-(2 ^ (w - 1) : Int)) (min r ((2 ^ (w - 1) : Int) - 1))
        else (v : Int) = max 0 (min r ((2 ^ w : Int) - 1)))
      else (r - v) % (2 ^ w : Int) = 0)

/-- An arithmetic form: with every tagged source I32 or UNTYPED it runs, and its destination takes the exact result of
the sources, read as its type reads them, narrowed. -/
def Sys2Proof.ArithmeticRuns (mk : Fields → Instr) (srcs : List (Fields → Operand)) (mayClamp : Bool)
    (exact : (w : Nat) → List Int → Int) : Prop :=
  ∀ f s e, Issuing (mk f) .none s e → (∀ o ∈ srcs, TagOk e.w .i32 (o f)) →
    ∃ t w', exec (mk f) s = .next t ∧ RegisterRun s e t w' (writtenBy f.xOp) ∧ Tagged e w' f.xOp .i32
      ∧ ∃ val, Took e w' f.xOp val ∧ ∀ k, Narrowed f.xOp.width (f.it % 2 == 0) (mayClamp && f.sat)
          (exact f.xOp.width (srcs.map (fun o =>
            if f.it % 2 = 0 then e.readInt f.xOp.width (o f) k else (e.read f.xOp.width (o f) k : Int)))) (val k)

def Sys2Proof.first (l : List Int) : Int := (l[0]?).getD 0
def Sys2Proof.second (l : List Int) : Int := (l[1]?).getD 0
def Sys2Proof.third (l : List Int) : Int := (l[2]?).getD 0

/-- R222, R223, R217, R218: IADD, ISUB, IMUL, IMULH, IMAD, IMIN, IMAX, IABS and INEG run; the destination takes the
exact integer result, narrowed; nothing else changes. -/
def Obligations.IntegerArithmetic : Prop :=
  ArithmeticRuns .iadd [Fields.yOp, Fields.zOp] true (fun _ l => first l + second l)
  ∧ ArithmeticRuns .isub [Fields.yOp, Fields.zOp] true (fun _ l => first l - second l)
  ∧ ArithmeticRuns .imul [Fields.yOp, Fields.zOp] true (fun _ l => first l * second l)
  ∧ ArithmeticRuns .imulh [Fields.yOp, Fields.zOp] false (fun w l => first l * second l / (2 ^ w : Int))
  ∧ ArithmeticRuns .imad [Fields.yOp, Fields.zOp, Fields.wOp] true (fun _ l => first l * second l + third l)
  ∧ ArithmeticRuns .imin [Fields.yOp, Fields.zOp] false (fun _ l => min (first l) (second l))
  ∧ ArithmeticRuns .imax [Fields.yOp, Fields.zOp] false (fun _ l => max (first l) (second l))
  ∧ ArithmeticRuns .iabs [Fields.yOp] true (fun _ l => if first l < 0 then -first l else first l)
  ∧ ArithmeticRuns .ineg [Fields.yOp] true (fun _ l => -first l)

/-- A form that makes its destination's bits from its sources' bits: bit `i` is `bit w vs i`, and bits from the width
on are zero. -/
def Sys2Proof.BitsRun (mk : Fields → Instr) (srcs : List (Fields → Operand)) (tag : Tag)
    (bit : Fields → (w : Nat) → List Nat → (i : Nat) → Bool) : Prop :=
  ∀ f s e, Issuing (mk f) .none s e →
    ∃ t w', exec (mk f) s = .next t ∧ RegisterRun s e t w' (writtenBy f.xOp) ∧ Tagged e w' f.xOp tag
      ∧ ∃ val, Took e w' f.xOp val ∧ ∀ k, val k < 2 ^ f.xOp.width ∧ ∀ i, i < f.xOp.width →
          (val k).testBit i = bit f f.xOp.width (srcs.map (fun o => e.read f.xOp.width (o f) k)) i

def Sys2Proof.nat1 (l : List Nat) : Nat := (l[0]?).getD 0
def Sys2Proof.nat2 (l : List Nat) : Nat := (l[1]?).getD 0
def Sys2Proof.nat3 (l : List Nat) : Nat := (l[2]?).getD 0
def Sys2Proof.nat4 (l : List Nat) : Nat := (l[3]?).getD 0

/-- R226: AND, OR, XOR, ANDN, NOT, and the shifts SHL, SHR, SAR and ROT by the count's low 5 or 6 bits, bit by bit. -/
def Obligations.BitwiseAndShifts : Prop :=
  BitsRun .andB [Fields.yOp, Fields.zOp] .untyped (fun _ _ v i => (nat1 v).testBit i && (nat2 v).testBit i)
  ∧ BitsRun .orB [Fields.yOp, Fields.zOp] .untyped (fun _ _ v i => (nat1 v).testBit i || (nat2 v).testBit i)
  ∧ BitsRun .xorB [Fields.yOp, Fields.zOp] .untyped (fun _ _ v i => (nat1 v).testBit i ^^ (nat2 v).testBit i)
  ∧ BitsRun .andn [Fields.yOp, Fields.zOp] .untyped (fun _ _ v i => (nat1 v).testBit i && !(nat2 v).testBit i)
  ∧ BitsRun .notB [Fields.yOp] .untyped (fun _ _ v i => !(nat1 v).testBit i)
  ∧ BitsRun .shl [Fields.yOp, Fields.zOp] .untyped (fun _ w v i => decide (nat2 v % w ≤ i) && (nat1 v).testBit (i - nat2 v % w))
  ∧ BitsRun .shr [Fields.yOp, Fields.zOp] .untyped (fun _ w v i => (nat1 v).testBit (i + nat2 v % w))
  ∧ BitsRun .sar [Fields.yOp, Fields.zOp] .untyped (fun _ w v i => (nat1 v).testBit (min (i + nat2 v % w) (w - 1)))
  ∧ BitsRun .rot [Fields.yOp, Fields.zOp] .untyped (fun _ w v i => (nat1 v).testBit ((i + w - nat2 v % w) % w))

/-- R227: BFE takes `len` bits from `start` on, zero- or sign-extended; BFI puts the low `len` bits of its second source
there; BREV mirrors. A start and a length are the low 8 bits of their sources, a length above the width acts as it. -/
def Sys2Proof.BitFieldsSays : Prop :=
  BitsRun .bfe [Fields.yOp, Fields.zOp, Fields.wOp] .i32 (fun f w v i =>
    let start := nat2 v % 256
    let len := min (nat3 v % 256) w
    if i < len then (nat1 v).testBit (start + i)
    else f.it % 2 == 0 && len != 0 && (nat1 v).testBit (start + len - 1))
  ∧ BitsRun .bfi [Fields.xOp, Fields.yOp, Fields.zOp, Fields.wOp] .untyped (fun _ w v i =>
    let start := nat3 v % 256
    let len := min (nat4 v % 256) w
    if start ≤ i ∧ i < start + len then (nat2 v).testBit (i - start) else (nat1 v).testBit i)
  ∧ BitsRun .brev [Fields.yOp] .untyped (fun _ w v i => (nat1 v).testBit (w - 1 - i))

/-- R227: POPC counts the one bits of its source, CLZ the zero bits above its highest one bit. -/
def Sys2Proof.BitCountsSays : Prop :=
  (∀ f s e, Issuing (.popc f) .none s e →
    ∃ t w', exec (.popc f) s = .next t ∧ RegisterRun s e t w' (writtenBy f.xOp) ∧ Tagged e w' f.xOp .i32
      ∧ Took e w' f.xOp (fun k => ((List.range f.xOp.width).filter (fun i =>
          (e.read f.xOp.width f.yOp k).testBit i)).length))
  ∧ (∀ f s e, Issuing (.clz f) .none s e →
    ∃ t w', exec (.clz f) s = .next t ∧ RegisterRun s e t w' (writtenBy f.xOp) ∧ Tagged e w' f.xOp .i32
      ∧ ∃ val, Took e w' f.xOp val ∧ ∀ k,
          let v := e.read f.xOp.width f.yOp k
          if v = 0 then val k = f.xOp.width
          else val k < f.xOp.width ∧ 2 ^ (f.xOp.width - 1 - val k) ≤ v ∧ v < 2 ^ (f.xOp.width - val k))

/-- R228: LEA writes base + index · 2^n for the shift n, the low 6 bits of W; a scalar shift above 31 with a 32-bit
destination stops the path before any effect with FIELD_RESERVED (7, 7), where the word has no other defect. (That it is judged with the word, whatever the WAIT mask and the guard, is log 40.) -/
def Sys2Proof.LoadEffectiveAddressSays : Prop :=
  (∀ f s e, Issuing (.lea f) .none s e → TagOk e.w .i32 f.yOp → TagOk e.w .i32 f.zOp →
    ∃ t w', exec (.lea f) s = .next t ∧ RegisterRun s e t w' (writtenBy f.xOp) ∧ Tagged e w' f.xOp .i32
      ∧ ∃ val, Took e w' f.xOp val ∧ ∀ k, Narrowed f.xOp.width true false
          (e.readInt f.xOp.width f.yOp k + e.readInt f.xOp.width f.zOp k * 2 ^ (e.scalar f.wOp % 64)) (val k))
  ∧ (∀ f (s : State) w q m v, s.weave? s.cur.core s.cur.slot = some w → w.path? s.cur.path = some q → q.cond = .ready →
    q.haltRequest = false → q.captured = none → (∀ o ∈ w.ops, o.writes = []) → s.cur.isHinge = false →
    firstDefect (.lea f) s.present w.vregs.length w.scount w.acount = none →
    f.xOp.isS = false → f.wOp = .sreg m → w.sregs[m]? = some v → 31 < v.toNat % 64 →
    exec (.lea f) s = .next (s.trapPath s.cur (cause 7 7) (BitVec.ofNat 96 (4 * 2 ^ 9 + f.wN % 1024 * 2 ^ 12))
      (BitVec.ofNat 72 (q.pc.toNat + f.size))))

/-- R207: a condition of two patterns of `w` bits, signed (codes 2 to 5) or unsigned (6 to 9). -/
def Sys2Proof.conditionOf (w code a b : Nat) : Prop :=
  match code with
  | 0 => a = b
  | 1 => a ≠ b
  | 2 => signed w a < signed w b
  | 3 => signed w a ≤ signed w b
  | 4 => signed w a > signed w b
  | 5 => signed w a ≥ signed w b
  | 6 => a < b
  | 7 => a ≤ b
  | 8 => a > b
  | 9 => a ≥ b
  | _ => False

/-- R225, R229: ICMP writes its condition in the acting lanes; ISEL takes its first source where its predicate is true and
its second elsewhere; PLOP writes the truth table's bit 4a + 2b + c of its three predicates. -/
def Obligations.ComparesAndSelects : Prop :=
  (∀ f s e, Issuing (.icmp f) .none s e → TagOk e.w .i32 f.yOp → TagOk e.w .i32 f.zOp →
    ∃ t w', exec (.icmp f) s = .next t ∧ RegisterRun s e t w' (writtenBy f.xOp)
      ∧ ∃ val, Took e w' f.xOp val ∧ ∀ k, val k ≤ 1 ∧
          let w := if f.it = 2 then 64 else 32
          (val k = 1 ↔ conditionOf w f.cond (e.read w f.yOp k) (e.read w f.zOp k)))
  ∧ (∀ f s e, Issuing (.isel f) .none s e → TagOk e.w .i32 f.yOp → TagOk e.w .i32 f.zOp →
    ∃ t w', exec (.isel f) s = .next t ∧ RegisterRun s e t w' (writtenBy f.xOp) ∧ Tagged e w' f.xOp .i32
      ∧ Took e w' f.xOp (fun k =>
          if (e.predOf f.wOp).has k then e.read f.xOp.width f.yOp k else e.read f.xOp.width f.zOp k))
  ∧ (∀ f s e, Issuing (.plop f) .none s e →
    ∃ t w', exec (.plop f) s = .next t ∧ RegisterRun s e t w' (writtenBy f.xOp)
      ∧ Took e w' f.xOp (fun k => bit01 (f.immN.testBit
          (4 * bit01 ((e.predOf f.yOp).has k) + 2 * bit01 ((e.predOf f.zOp).has k) + bit01 ((e.predOf f.wOp).has k)))))

/-! ### Jambs and array registers (R50 to R53, R230 to R235) -/

/-- R50, R51, R230, R231, R232: WIDEN of a register whose acting lanes all lie within [lo, hi] narrows its jamb to that interval
in the issuing path; BNDGET reads an endpoint, or whether the jamb is TOP; BNDTOP makes the jamb TOP in every path. No
register changes but BNDGET's destination. -/
def Sys2Proof.JambFormsSays : Prop :=
  (∀ f s e, Issuing (.widen f) .none s e → TagOk e.w .i32 f.xOp →
    let w := f.xOp.width
    let lo := clampInt (e.readInt 64 f.yOp e.lowLane) (minInt w) (maxInt w)
    let hi := clampInt (e.readInt 64 f.zOp e.lowLane) (minInt w) (maxInt w)
    if hi < lo then
      exec (.widen f) s = .next (s.trapPath e.a (cause 3 4)
        (BitVec.ofNat 96 (uwrap 32 lo + (f.xOp.code % 1024) * 2 ^ 32)) e.next)
    else (∀ k ∈ e.lanes, lo ≤ e.readInt w f.xOp k ∧ e.readInt w f.xOp k ≤ hi) →
      ∃ t w', exec (.widen f) s = .next t ∧ RegisterRun s e t w' (writtenBy f.xOp) ∧ RegsKept e.w w' []
        ∧ (∀ n, f.xOp = .vreg n → n < e.w.vjambs.length → w'.jambOf e.a.path n = Jamb.mk 32 lo hi)
        ∧ (∀ n, f.xOp = .sreg n → n < e.w.sjambs.length → w'.jambOf e.a.path (0x100 + n) = Jamb.mk 64 lo hi))
  ∧ (∀ f s e, Issuing (.bndget f) .none s e →
    ∃ t w', exec (.bndget f) s = .next t ∧ RegisterRun s e t w' (writtenBy f.xOp)
      ∧ Took e w' f.xOp (fun _ =>
          let j := e.jambAt f.yOp.width f.yOp
          if f.modN = 0 then uwrap 64 (j.lo f.yOp.width)
          else if f.modN = 1 then uwrap 64 (j.hi f.yOp.width)
          else if j = .top then 1 else 0))
  ∧ (∀ f s e n, Issuing (.bndtop f) .none s e → f.xOp = .vreg n → n < e.w.vjambs.length →
    ∃ t w' q', exec (.bndtop f) s = .next t ∧ t.weave? e.a.core e.a.slot = some w' ∧ OnlyWeave s t e.a
      ∧ RegsKept e.w w' [] ∧ JambsKept e.w w' [n] ∧ RestKept e.w w' ∧ (∀ p, w'.jambOf p n = .top)
      ∧ w'.path? e.a.path = some q' ∧ q'.pc = e.next ∧ q'.cond = .ready ∧ q'.mask = e.p.mask)
  ∧ (∀ f s e n, Issuing (.bndtop f) .none s e → f.xOp = .sreg n → n < e.w.sjambs.length →
    ∃ t w' q', exec (.bndtop f) s = .next t ∧ t.weave? e.a.core e.a.slot = some w' ∧ OnlyWeave s t e.a
      ∧ RegsKept e.w w' [] ∧ JambsKept e.w w' [0x100 + n] ∧ RestKept e.w w' ∧ (∀ p, w'.jambOf p (0x100 + n) = .top)
      ∧ w'.path? e.a.path = some q' ∧ q'.pc = e.next ∧ q'.cond = .ready ∧ q'.mask = e.p.mask)

/-- R53, R233, R234, R235: ARSET stores its two halves, or traps with AREG_BAD (3, 6) when a reserved bit is not zero, CHK is 3
or ESZ is above 12; ARGET reads a half; ARCHK answers in each acting lane whether 0 ≤ i + o and i + o lies below
EXTENT, and for every lane alike where the jamb [l, h] of its index shows all of them, or none, to be in range. -/
def Sys2Proof.ArrayRegistersSays : Prop :=
  (∀ f s e n, Issuing (.arset f) .none s e → f.xOp = .areg n →
    let v : BitVec 128 := BitVec.ofNat 128 (e.scalar f.yOp + e.scalar f.zOp * 2 ^ 64)
    if bits v.toNat 127 121 ≠ 0 ∨ bits v.toNat 117 116 = 3 ∨ 12 < bits v.toNat 115 112 then
      exec (.arset f) s = .next (s.trapPath e.a (cause 3 6) (boundsDetail 0 0 0 n 0) e.next)
    else ∃ t w', exec (.arset f) s = .next t ∧ RegisterRun s e t w' [0x210 + n]
      ∧ ∀ old, e.w.aregs[n]? = some old → w'.aregs[n]? = some v)
  ∧ (∀ f s e n, Issuing (.arget f) .none s e → f.yOp = .areg n → f.modN ≤ 1 →
    ∃ t w', exec (.arget f) s = .next t ∧ RegisterRun s e t w' (writtenBy f.xOp)
      ∧ Took e w' f.xOp (fun _ => bits (e.areg n).toNat (64 * f.modN + 63) (64 * f.modN)))
  ∧ (∀ f s e n, Issuing (.archk f) .none s e → f.yOp = .areg n → TagOk e.w .i32 f.zOp →
    ∃ t w', exec (.archk f) s = .next t ∧ RegisterRun s e t w' (writtenBy f.xOp)
      ∧ ∃ val, Took e w' f.xOp val ∧ ∀ k, val k ≤ 1 ∧
          let o := offset14 f
          let extent : Int := bits (e.areg n).toNat 111 72
          let l := (e.indexJamb f.zOp).1
          let h := (e.indexJamb f.zOp).2
          (val k = 1 ↔ ¬(h + o < 0 ∨ extent ≤ l + o)
            ∧ ((0 ≤ l + o ∧ h + o < extent) ∨ (0 ≤ e.index f.zOp k + o ∧ e.index f.zOp k + o < extent))))

/-! ### Class 5: control flow (R236 to R247) -/

/-- The paths of the weave after lanes `T` of the issuing path branch to `target` (R15): no lane of the path, every
lane, or a split into a SPLIT pair in the lowest free entry, or a DEFER entry when the table is full. -/
def Sys2Proof.BranchedTo (e : Env) (w' : Weave) (T : LaneMask) (target : VAddr) : Prop :=
  let taken := e.p.mask &&& T
  let left := e.p.mask &&& ~~~T
  if taken = 0 then PathAt e w' e.next
  else if left = 0 then PathAt e w' target
  else match e.w.freePath with
    | some n =>
      (∃ q, w'.path? e.a.path = some q ∧ q.pc = e.next ∧ q.cond = .ready ∧ q.mask = left
        ∧ q.stack = .split (e.f.zN % 64) e.serial :: e.p.stack ∧ q.counters = e.p.counters)
      ∧ (∃ q, w'.path? n = some q ∧ q.pc = target ∧ q.cond = .ready ∧ q.mask = taken
        ∧ q.stack = .split (e.f.zN % 64) e.serial :: e.p.stack ∧ q.counters = e.p.counters)
      ∧ ∀ i, i ≠ e.a.path → i ≠ n → w'.path? i = e.w.path? i
    | none =>
      (∃ q age, w'.path? e.a.path = some q ∧ q.pc = target ∧ q.cond = .ready ∧ q.mask = taken
        ∧ q.stack = .defer (e.f.zN % 64) left e.next 0 false 0 0 age :: e.p.stack ∧ q.counters = e.p.counters)
      ∧ ∀ i, i ≠ e.a.path → w'.path? i = e.w.path? i

/-- What a branch of lanes `T` to `target` does: DEFER_OVERFLOW (9, 0) when it would split with a full stack of 16
entries; else the paths of `BranchedTo`, and nothing else changes. -/
def Sys2Proof.Branches (i : Instr) (s : State) (e : Env) (T : LaneMask) (target : VAddr) : Prop :=
  if e.p.mask &&& T ≠ 0 ∧ e.p.mask &&& ~~~T ≠ 0 ∧ 16 ≤ e.p.stack.length then
    exec i s = .next (s.trapPath e.a (cause 9 0) (syncDetail e.p.pc.toNat (e.f.zN % 64)) e.next)
  else ∃ t w', exec i s = .next t ∧ t.weave? e.a.core e.a.slot = some w' ∧ OnlyWeave s t e.a ∧ RegsKept e.w w' []
    ∧ JambsKept e.w w' [] ∧ RestKept e.w w' ∧ BranchedTo e w' T target

/-- R212, R236, R237, R238, R241: BRA goes to PC + 4 · offset (8 · offset in Farno code), or traps with PC_WRAP (1, 6) where that leaves the
72-bit range; BRX to PC[71:64] joined to its scalar; RET to PC[71:32] joined to the link that the acting lanes share, or that
its jamb gives as the only one, and traps with (9, 10) where they do not share one. (That PC_WRAP stops the path on the branch, with the branch's own address and KIND 3, is log 39.) -/
def Sys2Proof.BranchesAndReturnSays : Prop :=
  (∀ f s e, Issuing (.bra f) .none s e →
    let target : Int := e.p.pc.toNat + (match f.enc with | .native => 4 | .farno .. => 8) * signed 24 f.immN
    if 0 ≤ target ∧ target < 2 ^ 72 then Branches (.bra f) s e e.acting (BitVec.ofNat 72 target.toNat)
    else exec (.bra f) s = .next (s.trapPath e.a (cause 1 6) (BitVec.ofNat 96 (e.p.pc.toNat + 3 * 2 ^ 72)) e.next))
  ∧ (∀ f s e, Issuing (.brx f) .none s e →
    Branches (.brx f) s e e.acting (BitVec.ofNat 72 (bits e.p.pc.toNat 71 64 * 2 ^ 64 + e.scalar f.yOp)))
  ∧ (∀ f s e, Issuing (.ret f) .none s e →
    let link := e.read 32 f.yOp e.lowLane
    let target : VAddr := BitVec.ofNat 72 (bits e.p.pc.toNat 71 32 * 2 ^ 32 + link)
    let j := e.jambAt 32 f.yOp
    if j.lo 32 = j.hi 32 ∨ ∀ k ∈ e.lanes, e.read 32 f.yOp k = link then Branches (.ret f) s e e.acting target
    else exec (.ret f) s = .next (s.trapPath e.a (cause 9 10) (syncDetail target.toNat (e.f.zN % 64)) e.next))

/-- R239: BCMP sends the acting lanes whose comparison holds to PC + 4 · offset (8 · offset in Farno code); when every lane agrees, or
none, its path goes on whole, and registers keep their values. -/
def Sys2Proof.CompareAndBranchSays : Prop :=
  ∀ f s e, Issuing (.bcmp f) .none s e → TagOk e.w .i32 f.xOp → TagOk e.w .i32 f.yOp →
    let target : Int := e.p.pc.toNat + (match f.enc with | .native => 4 | .farno .. => 8) * signed 24 f.immN
    let w := f.xOp.width
    0 ≤ target → target < 2 ^ 72 →
    ∀ T : LaneMask, (∀ k, T.has k = true ↔ k ∈ e.lanes ∧ k < 1024 ∧ conditionOf w f.cond (e.read w f.xOp k) (e.read w f.yOp k)) →
    ((e.p.mask &&& T = 0 →
      ∃ t w', exec (.bcmp f) s = .next t ∧ t.weave? e.a.core e.a.slot = some w' ∧ OnlyWeave s t e.a
        ∧ RegsKept e.w w' [] ∧ RestKept e.w w' ∧ PathAt e w' e.next)
    ∧ (e.p.mask &&& ~~~T = 0 →
      ∃ t w', exec (.bcmp f) s = .next t ∧ t.weave? e.a.core e.a.slot = some w' ∧ OnlyWeave s t e.a
        ∧ RegsKept e.w w' [] ∧ RestKept e.w w' ∧ PathAt e w' (BitVec.ofNat 72 target.toNat))
    ∧ (e.p.mask &&& T ≠ 0 → e.p.mask &&& ~~~T ≠ 0 → e.p.stack.length < 16 →
      ∃ t w', exec (.bcmp f) s = .next t ∧ t.weave? e.a.core e.a.slot = some w' ∧ OnlyWeave s t e.a
        ∧ RegsKept e.w w' [] ∧ RestKept e.w w' ∧ BranchedTo e w' T (BitVec.ofNat 72 target.toNat)))

/-- R240: CALL goes to its target as BRA does and writes the low 32 bits of next into its vector register in the acting lanes; a target
outside the 4 GiB block of next traps with CALL_RANGE (9, 9). -/
def Obligations.Calls : Prop :=
  ∀ f s e n, Issuing (.call f) .none s e → f.xOp = .vreg n →
    let target : Int := e.p.pc.toNat + (match f.enc with | .native => 4 | .farno .. => 8) * signed 24 f.immN
    0 ≤ target → target < 2 ^ 72 →
    let to_ : VAddr := BitVec.ofNat 72 target.toNat
    if bits to_.toNat 71 32 ≠ bits e.next.toNat 71 32 then
      exec (.call f) s = .next (s.trapPath e.a (cause 9 9) (syncDetail to_.toNat (e.f.zN % 64)) e.next)
    else (e.p.mask &&& ~~~e.acting = 0 ∨ e.p.stack.length < 16) →
      ∃ t w', exec (.call f) s = .next t ∧ t.weave? e.a.core e.a.slot = some w' ∧ OnlyWeave s t e.a
        ∧ RegsKept e.w w' [n] ∧ JambsKept e.w w' [n] ∧ RestKept e.w w' ∧ BranchedTo e w' e.acting to_
        ∧ Took e w' f.xOp (fun _ => e.next.toNat % 2 ^ 32) ∧ Tagged e w' f.xOp .untyped

/-- R247, R246, R304: NOP does nothing; YIELD does nothing but pass the turn; BKPT does nothing while its context's debug enable is
clear, and with it set halts its path where it stands; registers and memory keep their values. -/
def Sys2Proof.NopsAndBreakpointSays : Prop :=
  (∀ f s e, Issuing (.nop f) .none s e → ∃ t w', exec (.nop f) s = .next t ∧ RegisterRun s e t w' [])
  ∧ (∀ f s e, Issuing (.yieldTurn f) .none s e →
    ∃ t w' q', exec (.yieldTurn f) s = .next t ∧ RegisterRun s e t w' [] ∧ w'.path? e.a.path = some q' ∧ q'.yielded = true)
  ∧ (∀ f s e, Issuing (.bkpt f) .none s e → s.debugEnabled e.w.id.ctx = false →
    ∃ t w', exec (.bkpt f) s = .next t ∧ RegisterRun s e t w' [])
  ∧ (∀ f s e, Issuing (.bkpt f) .none s e → s.debugEnabled e.w.id.ctx = true → s.cur.isHinge = false →
    ∃ t w' q' k, exec (.bkpt f) s = .next t ∧ t.weave? e.a.core e.a.slot = some w' ∧ w'.path? e.a.path = some q'
      ∧ q'.cond = .halted k ∧ k.cause = cause 16 0 ∧ k.next = e.next ∧ q'.pc = e.p.pc ∧ q'.mask = e.p.mask
      ∧ RegsKept e.w w' [] ∧ (∀ p, t.mem.read p = s.mem.read p))

/-- The issuing weave after an instruction that changes its own path alone: registers, jambs and all else as before, and
the path is `here`. -/
def Sys2Proof.OwnPath (s : State) (e : Env) (t : State) (here : Path → Prop) : Prop :=
  ∃ w' q', t.weave? e.a.core e.a.slot = some w' ∧ OnlyWeave s t e.a ∧ RegsKept e.w w' [] ∧ JambsKept e.w w' []
    ∧ RestKept e.w w' ∧ w'.path? e.a.path = some q' ∧ here q' ∧ ∀ i, i ≠ e.a.path → w'.path? i = e.w.path? i

/-- R16, the table: RECONV rid by the top of its path's stack. With rid nowhere in the stack it has no effect; with rid only
below other entries it traps in group 9, index RECONV_ORDER; at the first arrival of a DEFER entry the deferred lanes run
from their address and the entry keeps the lanes that arrived; at the second both go on together after RECONV with the
entry gone; on a SPLIT entry, with no path waiting for it at another RECONV, the path becomes ARRIVED. -/
def Obligations.Reconvergence : Prop :=
  ∀ f s e, Issuing (.reconv f) .none s e →
    let rid := f.zN % 64
    ((∀ x ∈ e.p.stack, x.rid ≠ rid) → ∃ t w', exec (.reconv f) s = .next t ∧ RegisterRun s e t w' [])
    ∧ (∀ top rest, e.p.stack = top :: rest → top.rid ≠ rid → (∃ x ∈ rest, x.rid = rid) →
      exec (.reconv f) s = .next (s.trapPath e.a (cause 9 1) (syncDetail e.p.pc.toNat rid) e.next))
    ∧ (∀ deferred resume merged reconv after age rest,
      e.p.stack = .defer rid deferred resume merged false reconv after age :: rest →
      ∃ t, exec (.reconv f) s = .next t ∧ OwnPath s e t (fun q =>
        q.mask = deferred ∧ q.pc = resume ∧ q.cond = .ready ∧ ∃ resume',
          q.stack = .defer rid 0 resume' e.p.mask true e.p.pc e.next age :: rest))
    ∧ (∀ deferred resume merged reconv after age rest,
      e.p.stack = .defer rid deferred resume merged true reconv after age :: rest →
      ∃ t, exec (.reconv f) s = .next t ∧ OwnPath s e t (fun q =>
        q.mask = merged ||| e.p.mask ∧ q.pc = e.next ∧ q.cond = .ready ∧ q.stack = rest))
    ∧ (∀ n rest, e.p.stack = .split rid n :: rest →
      (∀ i q r nx, e.w.path? i = some q → q.cond = .arrived r n nx → q.pc = e.p.pc) →
      ∃ t, exec (.reconv f) s = .next t ∧ OwnPath s e t (fun q =>
        q.mask = e.p.mask ∧ q.pc = e.p.pc ∧ q.cond = .arrived rid n e.next ∧ q.stack = e.p.stack))

/-- R19, R243: EXIT takes the acting lanes out of their path for good. With lanes left the path goes on at next; with none left
and nothing deferred on its stack its entry ends, and the weave begins to end with its last path. -/
def Sys2Proof.ExitSays : Prop :=
  ∀ f s e, Issuing (.exit f) .none s e →
    (e.p.mask &&& ~~~e.acting ≠ 0 →
      ∃ t, exec (.exit f) s = .next t ∧ OwnPath s e t (fun q =>
        q.mask = e.p.mask &&& ~~~e.acting ∧ q.pc = e.next ∧ q.cond = .ready ∧ q.stack = e.p.stack))
    ∧ (e.p.mask &&& ~~~e.acting = 0 → e.p.stack = [] →
      ∃ t w', exec (.exit f) s = .next t ∧ t.weave? e.a.core e.a.slot = some w' ∧ OnlyWeave s t e.a
        ∧ RegsKept e.w w' [] ∧ w'.path? e.a.path = none ∧ (∀ i, i ≠ e.a.path → w'.path? i = e.w.path? i)
        ∧ ((∀ i, i ≠ e.a.path → e.w.path? i = none) → w'.ending = true))

/-- R19, R244: END ends every path of the weave and discards its stops; the weave begins to end. -/
def Sys2Proof.EndSays : Prop :=
  ∀ f s e, Issuing (.endWeave f) .none s e →
    ∃ t w', exec (.endWeave f) s = .next t ∧ t.weave? e.a.core e.a.slot = some w' ∧ (∀ i, w'.path? i = none)
      ∧ w'.ending = true ∧ RegsKept e.w w' [] ∧ (∀ p, t.mem.read p = s.mem.read p)
      ∧ (∀ x ∈ (t.core e.a.core).stops, x.slot ≠ e.a.slot) ∧ (∀ c, c ≠ e.a.core → t.core c = s.core c)
      ∧ (∀ n, n ≠ e.a.slot → t.weave? e.a.core n = s.weave? e.a.core n)

/-- R245, R21, R404: TRAP n, code with every lane of its path acting parks the path with cause (31, n) and the code, its PC
after TRAP, and puts a stop at the end of its core's stop queue (of 64 entries); it changes no register and no byte of
memory. -/
def Sys2Proof.SoftwareTrapSays : Prop :=
  ∀ f s e, Issuing (.trapSw f) .none s e → s.cur.isHinge = false → e.acting = e.p.mask →
    (∀ k, e.p.mask.has k = true → k < e.w.laneCount) →
    ∃ t w' q' k, exec (.trapSw f) s = .next t ∧ t.weave? e.a.core e.a.slot = some w' ∧ w'.path? e.a.path = some q'
      ∧ q'.cond = .parked k ∧ k.cause = cause 31 (bits f.immN 3 0) ∧ k.detail = BitVec.ofNat 96 (bits f.immN 23 4)
      ∧ k.token = 0 ∧ q'.pc = e.next ∧ q'.mask = e.p.mask ∧ RegsKept e.w w' []
      ∧ (∀ i, i ≠ e.a.path → w'.path? i = e.w.path? i) ∧ (∀ p, t.mem.read p = s.mem.read p)
      ∧ ((s.core e.a.core).stops.length < 64 → (s.core e.a.core).lateStops = [] →
          ∃ x, (t.core e.a.core).stops = (s.core e.a.core).stops ++ [x] ∧ x.slot = e.a.slot ∧ x.path = e.a.path
            ∧ x.cause = cause 31 (bits f.immN 3 0) ∧ x.pc = e.next)

/-! ### Class 1: floating point (R249 to R257), lanes (R267 to R275); class 2: conversion (R258 to R265) -/

/-- A class 1 form on the elements of FP32, FP16x2 or BF16x2 words: with every tagged source of that format it runs; each
element of its destination is `elem` of its sources' elements, with subnormals flushed under FTZ; the destination carries
the format. Only rounding mode 4 advances the weave's random counter, by one. -/
def Sys2Proof.ElementsRun (mk : Fields → Instr) (srcs : List (Fields → Operand))
    (elem : FloatFmt → (mode : Nat) → (sat ftz : Bool) → (r : Nat) → List Nat → Nat) : Prop :=
  ∀ f s e, Issuing (mk f) .none s e → (∀ o ∈ srcs, TagOk e.w (ftTag f.ft) (o f)) →
    ∃ t w', exec (mk f) s = .next t ∧ t.weave? e.a.core e.a.slot = some w' ∧ OnlyWeave s t e.a
      ∧ RegsKept e.w w' (writtenBy f.xOp) ∧ JambsKept e.w w' (writtenBy f.xOp) ∧ PathAt e w' e.next
      ∧ RestKept e.w { w' with rng := e.w.rng }
      ∧ w'.rng = (if f.rnd = 4 then e.w.rng + 1 else e.w.rng)
      ∧ Tagged e w' f.xOp (ftTag f.ft)
      ∧ Took e w' f.xOp (fun k => ftJoin f.ft ((List.range (ftElems f.ft)).map (fun i =>
          elem (ftFmt f.ft) f.rnd f.sat f.ftz (e.random k i)
            (srcs.map (fun o => (ftFmt f.ft).flushIn f.ftz (ftElem f.ft (e.readFloat f.ft (o f) k) i))))))

/-- The exact value of element pattern `n` of a list. -/
def Sys2Proof.valueAt (f : FloatFmt) (l : List Nat) (n : Nat) : FVal := f.decode ((l[n]?).getD 0)

/-- R253: FADD, FSUB, FMUL and FFMA round the exact sum, difference, product and fused product-sum once. -/
def Obligations.FloatArithmetic : Prop :=
  ElementsRun .fadd [Fields.yOp, Fields.zOp]
    (fun f m sat ftz r l => f.encode m sat ftz r (FVal.add m (valueAt f l 0) (valueAt f l 1)))
  ∧ ElementsRun .fsub [Fields.yOp, Fields.zOp]
    (fun f m sat ftz r l => f.encode m sat ftz r (FVal.add m (valueAt f l 0) (valueAt f l 1).neg))
  ∧ ElementsRun .fmul [Fields.yOp, Fields.zOp]
    (fun f m sat ftz r l => f.encode m sat ftz r (FVal.mul (valueAt f l 0) (valueAt f l 1)))
  ∧ ElementsRun .ffma [Fields.yOp, Fields.zOp, Fields.wOp]
    (fun f m sat ftz r l => f.encode m sat ftz r (FVal.add m (FVal.mul (valueAt f l 0) (valueAt f l 1)) (valueAt f l 2)))

/-- R254: an order of values that puts −0 below +0. -/
def Sys2Proof.floatBelow (a b : FVal) : Bool := if a.isZero && b.isZero then a.isNeg && !b.isNeg else a.compare b == -1

/-- R254: FMIN and FMAX give the operand that compares less (greater), with −0 below +0, the other operand when one is NaN,
the canonical NaN when both are; FABS clears and FNEG inverts the sign, NaN giving the canonical NaN. -/
def Sys2Proof.FloatSelectionSays : Prop :=
  let pick := fun (f : FloatFmt) (least : Bool) (x y : Nat) =>
    let a := f.decode x
    let b := f.decode y
    if a.isNan && b.isNan then f.nan else if a.isNan then y else if b.isNan then x
    else if (if least then floatBelow b a else floatBelow a b) then y else x
  ElementsRun .fmin [Fields.yOp, Fields.zOp] (fun f _ _ _ _ l => pick f true ((l[0]?).getD 0) ((l[1]?).getD 0))
  ∧ ElementsRun .fmax [Fields.yOp, Fields.zOp] (fun f _ _ _ _ l => pick f false ((l[0]?).getD 0) ((l[1]?).getD 0))
  ∧ ElementsRun .fabs [Fields.yOp] (fun f _ _ _ _ l =>
      let x := (l[0]?).getD 0
      if (f.decode x).isNan then f.nan else x % 2 ^ f.signBit)
  ∧ ElementsRun .fneg [Fields.yOp] (fun f _ _ _ _ l =>
      let x := (l[0]?).getD 0
      if (f.decode x).isNan then f.nan
      else if x.testBit f.signBit then x % 2 ^ f.signBit else x % 2 ^ f.signBit + 2 ^ f.signBit)

/-- The conditions of R255 on two FP32 values. -/
def Sys2Proof.floatCondition (code : Nat) (a b : FVal) : Prop :=
  let unordered := a.isNan = true ∨ b.isNan = true
  match code with
  | 0 => ¬unordered ∧ a.compare b = 0
  | 1 => unordered ∨ a.compare b ≠ 0
  | 2 => ¬unordered ∧ a.compare b = -1
  | 3 => ¬unordered ∧ a.compare b ≠ 1
  | 4 => ¬unordered ∧ a.compare b = 1
  | 5 => ¬unordered ∧ a.compare b ≠ -1
  | 6 => ¬unordered
  | _ => unordered

/-- R253, R255: FCMP writes its condition in the acting lanes; FDOT2 rounds the exact sum of two products and an FP32 addend
once. -/
def Sys2Proof.FloatCompareAndDotSays : Prop :=
  (∀ f s e, Issuing (.fcmp f) .none s e → TagOk e.w .f32 f.yOp → TagOk e.w .f32 f.zOp →
    ∃ t w', exec (.fcmp f) s = .next t ∧ RegisterRun s e t w' (writtenBy f.xOp)
      ∧ ∃ val, Took e w' f.xOp val ∧ ∀ k, val k ≤ 1 ∧ (val k = 1 ↔ floatCondition f.fcond
          (fp32.decode (fp32.flushIn f.ftz (e.readFloat 0 f.yOp k)))
          (fp32.decode (fp32.flushIn f.ftz (e.readFloat 0 f.zOp k)))))
  ∧ (∀ f s e, Issuing (.fdot2 f) .none s e → TagOk e.w (ftTag f.ft) f.yOp → TagOk e.w (ftTag f.ft) f.zOp →
    TagOk e.w .f32 f.wOp →
    ∃ t w', exec (.fdot2 f) s = .next t ∧ t.weave? e.a.core e.a.slot = some w' ∧ OnlyWeave s t e.a
      ∧ RegsKept e.w w' (writtenBy f.xOp) ∧ JambsKept e.w w' (writtenBy f.xOp) ∧ PathAt e w' e.next
      ∧ RestKept e.w { w' with rng := e.w.rng } ∧ Tagged e w' f.xOp .f32
      ∧ Took e w' f.xOp (fun k =>
          let h := fun (o : Operand) (i : Nat) =>
            (ftFmt f.ft).decode ((ftFmt f.ft).flushIn f.ftz (ftElem f.ft (e.readFloat f.ft o k) i))
          fp32.encode f.rnd f.sat f.ftz (e.random k 0)
            (FVal.add f.rnd (FVal.add f.rnd (FVal.mul (h f.yOp 0) (h f.zOp 0)) (FVal.mul (h f.yOp 1) (h f.zOp 1)))
              (fp32.decode (fp32.flushIn f.ftz (e.readFloat 0 f.wOp k))))))

/-- A long-latency form that owes a vector register: with its source's tag right it runs; an operation of its own, counted
by its SET, owes register `n` the value `val` in every acting lane; no register's value changes until it completes. -/
def Sys2Proof.OwesLanes (i : Instr) (f : Fields) (s : State) (e : Env) (n : Nat) (tag : Tag) (val : Nat → Nat) : Prop :=
  ∃ t w' q' o, exec i s = .next t ∧ t.weave? e.a.core e.a.slot = some w' ∧ OnlyWeave s t e.a
    ∧ w'.vregs = e.w.vregs ∧ w'.sregs = e.w.sregs ∧ w'.preds = e.w.preds ∧ w'.aregs = e.w.aregs ∧ w'.shapes = e.w.shapes
    ∧ (n < e.w.tags.length → w'.tags[n]? = some tag)
    ∧ w'.ops = e.w.ops ++ [o] ∧ o.id = e.serial
    ∧ (∃ vals, o.writes = [.vreg n e.acting vals] ∧ vals.length = e.w.laneCount
        ∧ ∀ k, k < e.w.laneCount → e.acting.has k = true → vals[k]? = some (BitVec.ofNat 32 (val k)))
    ∧ w'.path? e.a.path = some q' ∧ q'.pc = e.next ∧ q'.cond = .ready ∧ q'.mask = e.p.mask
    ∧ q'.issued = e.p.issued ++ [e.serial]
    ∧ (∀ c l, e.p.counters[c]? = some l → q'.counters[c]? = some (if f.setN = c + 1 then l ++ [e.serial] else l))

/-- R204, R256, R257: the special functions run on FP32 sources and owe their destination the function's value; with vz as
the destination they write nothing. -/
def Sys2Proof.SpecialFunctionsSays : Prop :=
  let runs := fun (mk : Fields → Instr) (value : Fields → Nat → Nat) =>
    ∀ f s e, Issuing (mk f) .none s e → TagOk e.w .f32 f.yOp →
      (∀ n, f.xOp = .vreg n → OwesLanes (mk f) f s e n .f32 (fun k => value f (e.readFloat 0 f.yOp k)))
      ∧ (f.xOp = .vz → ∃ t w', exec (mk f) s = .next t ∧ RegisterRun s e t w' [])
  runs .frcp (fun f v => frcpValue (f.fcond == 1) f.ftz v) ∧ runs .frsq (fun f v => frsqValue f.ftz v)
  ∧ runs .fsqrt (fun f v => fsqrtValue f.rnd f.ftz v) ∧ runs .fexp2 (fun f v => fexp2Value f.ftz v)
  ∧ runs .flog2 (fun f v => flog2Value f.ftz v) ∧ runs .fsin (fun f v => ftrigValue false f.ftz v)
  ∧ runs .fcos (fun f v => ftrigValue true f.ftz v) ∧ runs .ftanh (fun f v => ftanhValue f.ftz v)

/-- R256: the values that the spec fixes for the special functions: of NaN, of the infinities, of zeros, of negative numbers, of
integers (FEXP2), of powers of two (FLOG2), of magnitudes from 9.1 on (FTANH), and of a subnormal under FTZ. -/
def Sys2Proof.SpecialFunctionCornersSays : Prop :=
  (∀ v, fp32.decode v = .nan → ∀ rn m c, frcpValue rn false v = fp32.nan ∧ frsqValue false v = fp32.nan
    ∧ fsqrtValue m false v = fp32.nan ∧ fexp2Value false v = fp32.nan ∧ flog2Value false v = fp32.nan
    ∧ ftrigValue c false v = fp32.nan ∧ ftanhValue false v = fp32.nan)
  ∧ (∀ rn, frcpValue rn false 0x7F800000 = 0 ∧ frcpValue rn false 0xFF800000 = 0x80000000
    ∧ frcpValue rn false 0 = 0x7F800000 ∧ frcpValue rn false 0x80000000 = 0xFF800000
    ∧ ∀ v, 0 < v → v < 2 ^ 23 → frcpValue rn true v = 0x7F800000)
  ∧ (frsqValue false 0x7F800000 = 0 ∧ frsqValue false 0 = 0x7F800000 ∧ frsqValue false 0x80000000 = 0xFF800000)
  ∧ (∀ m, fsqrtValue m false 0x7F800000 = 0x7F800000 ∧ fsqrtValue m false 0x80000000 = 0x80000000 ∧ fsqrtValue m false 0 = 0)
  ∧ (∀ v, 0x80000000 < v → v ≤ 0xFF800000 → ∀ m, frsqValue false v = fp32.nan ∧ fsqrtValue m false v = fp32.nan
    ∧ flog2Value false v = fp32.nan)
  ∧ (fexp2Value false 0x7F800000 = 0x7F800000 ∧ fexp2Value false 0xFF800000 = 0
    ∧ ∀ n : Nat, n ≤ 127 → fexp2Value false (fp32.encode 0 false false 0 (.ofInteger n)) = (n + 127) * 2 ^ 23)
  ∧ (flog2Value false 0 = 0xFF800000 ∧ flog2Value false 0x80000000 = 0xFF800000 ∧ flog2Value false 0x7F800000 = 0x7F800000
    ∧ ∀ n : Nat, 1 ≤ n → n ≤ 254 → flog2Value false (n * 2 ^ 23) = fp32.encode 0 false false 0 (.ofInteger ((n : Int) - 127)))
  ∧ (∀ c, ftrigValue c false 0x7F800000 = fp32.nan ∧ ftrigValue c false 0xFF800000 = fp32.nan)
  ∧ (ftrigValue true false 0 = 0x3F800000 ∧ ftrigValue true false 0x80000000 = 0x3F800000 ∧ ftrigValue false false 0 = 0
    ∧ ftrigValue false false 0x80000000 = 0x80000000)
  ∧ (ftanhValue false 0 = 0 ∧ ftanhValue false 0x80000000 = 0x80000000
    ∧ ∀ v, 0x4111999A ≤ v → v ≤ 0x7F800000 → ftanhValue false v = 0x3F800000 ∧ ftanhValue false (v + 2 ^ 31) = 0xBF800000)

/-- A form of class 1 or 2 that writes one vector register: it runs, its destination takes `val` and the tag, the random
counter advances by one under rounding mode 4, and nothing else changes. -/
def Sys2Proof.VectorRun (i : Instr) (f : Fields) (s : State) (e : Env) (tag : Tag) (val : Nat → Nat) : Prop :=
  ∃ t w', exec i s = .next t ∧ t.weave? e.a.core e.a.slot = some w' ∧ OnlyWeave s t e.a
    ∧ RegsKept e.w w' (writtenBy f.xOp) ∧ JambsKept e.w w' (writtenBy f.xOp) ∧ PathAt e w' e.next
    ∧ RestKept e.w { w' with rng := e.w.rng } ∧ w'.rng = (if f.rnd = 4 then e.w.rng + 1 else e.w.rng)
    ∧ Tagged e w' f.xOp tag ∧ Took e w' f.xOp val

/-- R258, R259, R260: CVT, with SAT, with UNS and with both, converts each element by itself: a wider destination takes it in the
elements that its element field names and keeps the others. -/
def Obligations.Conversions : Prop :=
  let runs := fun (mk : Fields → Instr) (uns sat : Bool) =>
    ∀ f s e, Issuing (mk f) .none s e → TagOk e.w (Tag.ofCode (bits f.modN 3 0)) f.yOp →
      let dst := bits f.modN 7 4
      let src := bits f.modN 3 0
      let ns := elemsPerWord src
      let nd := elemsPerWord dst
      let at_ := bits f.immN 2 0
      ∃ val, VectorRun (mk f) f s e (Tag.ofCode dst) val
        ∧ (nd ≤ ns → ∀ k j, j < nd → elemAt dst (val k) j
            = convertElem dst src uns sat f.rnd (e.random k j) (elemAt src (e.readElems src f.yOp k) (at_ * nd + j)) % 2 ^ elemBits dst)
        ∧ (ns < nd → ∀ k j, j < nd → elemAt dst (val k) j =
            if at_ * ns ≤ j ∧ j < at_ * ns + ns then
              convertElem dst src uns sat f.rnd (e.random k j) (elemAt src (e.readElems src f.yOp k) (j - at_ * ns)) % 2 ^ elemBits dst
            else elemAt dst (e.read 32 f.xOp k) j)
  runs .cvt false false ∧ runs .cvtSat false true ∧ runs .cvtUns true false ∧ runs .cvtSatUns true true

/-- R262, R264: QUANT of FP32 lanes into blocks of a group's 32 lanes writes the codes to X and the block scale, in every acting lane
of the group, to Z; DEQUANT multiplies each element by its block's scale and rounds once. -/
def Sys2Proof.QuantAndDequantSays : Prop :=
  (∀ f s e, Issuing (.quant f) .none s e → TagOk e.w .f32 f.yOp →
    (f.fcond = 12 → ∀ k ∈ e.lanes, ∃ n m x, fp32.decode (e.read 32 f.yOp k) = .fin n m x) →
    ∃ t w', exec (.quant f) s = .next t ∧ t.weave? e.a.core e.a.slot = some w' ∧ OnlyWeave s t e.a
      ∧ RegsKept e.w w' (writtenBy f.xOp ++ writtenBy f.zOp) ∧ JambsKept e.w w' (writtenBy f.xOp ++ writtenBy f.zOp)
      ∧ PathAt e w' e.next ∧ Tagged e w' f.zOp (if f.fcond = 12 then .q4x else .e8m0x4)
      ∧ (f.xOp ≠ f.zOp → Tagged e w' f.xOp (Tag.ofCode f.fcond))
      ∧ (∀ n k old, f.xOp = .vreg n → f.zOp ≠ .vreg n → k ∈ e.lanes → laneAt? e.w n k = some old →
          laneAt? w' n k = some (BitVec.ofNat 32 (((quantBlock e (k / 32)).1[k % 32]?).getD 0)))
      ∧ (∀ n k old, f.zOp = .vreg n → k ∈ e.lanes → laneAt? e.w n k = some old →
          laneAt? w' n k = some (BitVec.ofNat 32 (quantBlock e (k / 32)).2)))
  ∧ (∀ f s e, Issuing (.dequant f) .none s e → TagOk e.w (Tag.ofCode f.fcond) f.yOp →
    TagOk e.w (if f.fcond = 12 then .q4x else .e8m0x4) f.zOp →
    (∀ g ∈ e.actingGroups, ∃ b, dequantBlock e g = .ok b) →
    ∃ val, VectorRun (.dequant f) f s e .f32 val
      ∧ ∀ k l sc, dequantBlock e (k / 32) = .ok (l, sc) →
          val k = fp32.encode f.rnd f.sat f.ftz (e.random k 0) (FVal.mul ((l[k % 32]?).getD .nan) sc))

/-- R265: PACK joins the `w`-bit codes of a group's 32 lanes, lane 0 lowest, and its first `w` lanes take the string's words in order,
the others 0; UNPACK gives lane j of a group the string's `w`-bit code j. -/
def Sys2Proof.PackAndUnpackSays : Prop :=
  (∀ f s e, Issuing (.pack f) .none s e → TagOk e.w (Tag.ofCode f.modN) f.yOp →
    let w := elemBits f.modN
    ∃ t w' val, exec (.pack f) s = .next t ∧ RegisterRun s e t w' (writtenBy f.xOp)
      ∧ Tagged e w' f.xOp (if w = 6 then .untyped else Tag.ofCode f.modN) ∧ Took e w' f.xOp val
      ∧ ∀ k, if k % 32 < w then val k < 2 ^ 32 ∧ ∀ b, b < 32 → (val k).testBit b =
            (e.read 32 f.yOp (k - k % 32 + (32 * (k % 32) + b) / w)).testBit ((32 * (k % 32) + b) % w)
          else val k = 0)
  ∧ (∀ f s e, Issuing (.unpack f) .none s e →
    let w := elemBits f.modN
    (w ≠ 6 → TagOk e.w (Tag.ofCode f.modN) f.yOp) →
    ∃ t w' val, exec (.unpack f) s = .next t ∧ RegisterRun s e t w' (writtenBy f.xOp)
      ∧ Tagged e w' f.xOp (Tag.ofCode f.modN) ∧ Took e w' f.xOp val
      ∧ ∀ k, val k < 2 ^ w ∧ ∀ b, b < w → (val k).testBit b =
          (e.read 32 f.yOp (k - k % 32 + (w * (k % 32) + b) / 32)).testBit ((w * (k % 32) + b) % 32))

/-- R196, R267, R268, R269, R270: FMTSET changes a tag and no value, FMTGET reads one; MOV copies, or writes sr_rng or sr_mode;
MOVS sign-extends a lane's low 32 bits into a scalar register; S2V writes one lane and V2S reads one, sign-extended. -/
def Sys2Proof.TagsAndMovesSays : Prop :=
  (∀ f s e, Issuing (.fmtset f) .none s e →
    ∃ t w', exec (.fmtset f) s = .next t ∧ RegisterRun s e t w' (writtenBy f.xOp) ∧ w'.vregs = e.w.vregs
      ∧ Tagged e w' f.xOp (Tag.ofCode (bits f.immN 3 0)))
  ∧ (∀ f s e, Issuing (.fmtget f) .none s e →
    ∃ t w' c, exec (.fmtget f) s = .next t ∧ RegisterRun s e t w' (writtenBy f.xOp) ∧ Tagged e w' f.xOp .i32
      ∧ Took e w' f.xOp (fun _ => c) ∧ (∀ n, f.yOp = .vreg n → c = (e.w.tag n).code) ∧ (f.yOp = .vz → c = 0))
  ∧ (∀ f s e, Issuing (.mov f) .none s e → (∀ c, f.xOp ≠ .special c) →
    ∃ t w', exec (.mov f) s = .next t ∧ RegisterRun s e t w' (writtenBy f.xOp)
      ∧ Took e w' f.xOp (fun k => e.read 64 f.yOp k)
      ∧ (∀ n, f.yOp = .vreg n → Tagged e w' f.xOp (e.w.tag n))
      ∧ ((∀ n, f.yOp ≠ .vreg n) → Tagged e w' f.xOp .untyped))
  ∧ (∀ f s e, Issuing (.mov f) .none s e → f.xOp = .special 0x145 →
    ∃ t w', exec (.mov f) s = .next t ∧ t.weave? e.a.core e.a.slot = some w' ∧ OnlyWeave s t e.a
      ∧ RegsKept e.w w' [] ∧ PathAt e w' e.next ∧ RestKept e.w { w' with rng := e.w.rng }
      ∧ w'.rng = BitVec.ofNat 64 (e.scalar f.yOp))
  ∧ (∀ f s e, Issuing (.mov f) .none s e → f.xOp = .special 0x146 →
    ∃ t w', exec (.mov f) s = .next t ∧ t.weave? e.a.core e.a.slot = some w' ∧ OnlyWeave s t e.a
      ∧ RegsKept e.w w' [] ∧ PathAt e w' e.next ∧ RestKept e.w { w' with mode := e.w.mode }
      ∧ ∀ i, i < 64 → w'.mode.getLsbD i = ((i ≤ 2 || (6 ≤ i && i ≤ 41)) && (e.scalar f.yOp).testBit i))
  ∧ (∀ f s e, Issuing (.movs f) .none s e →
    ∃ t w', exec (.movs f) s = .next t ∧ RegisterRun s e t w' (writtenBy f.xOp)
      ∧ Took e w' f.xOp (fun k => uwrap 64 (e.readInt 32 f.yOp k)))
  ∧ (∀ f s e, Issuing (.s2v f) .none s e →
    let l := e.scalar f.zOp % e.w.laneCount
    ∃ t w', exec (.s2v f) s = .next t ∧ RegisterRun s e t w' (writtenBy f.xOp) ∧ w'.tags = e.w.tags
      ∧ ∀ n k old, f.xOp = .vreg n → k < 1024 → laneAt? e.w n k = some old → laneAt? w' n k =
          some (if k = l ∧ e.acting.has k = true then BitVec.ofNat 32 (e.scalar f.yOp) else old))
  ∧ (∀ f s e, Issuing (.v2s f) .none s e →
    ∃ t w', exec (.v2s f) s = .next t ∧ RegisterRun s e t w' (writtenBy f.xOp)
      ∧ Took e w' f.xOp (fun _ => uwrap 64 (e.readInt 32 f.yOp (e.scalar f.zOp % e.w.laneCount))))

/-- R271, R272, R273, R274: SHFL gives each acting lane its source lane's value where that lane is in the path, its own elsewhere, and a
predicate that says which; VOTE answers whether any, all, or equally many as none or all acting lanes' predicates hold; BALLOT
gives the mask words of the acting lanes whose predicate holds. -/
def Sys2Proof.ShufflesVotesAndBallotsSays : Prop :=
  (∀ f s e, Issuing (.shfl f) .none s e →
    let src := fun (k : Nat) =>
      let wd := 2 ^ bits f.modN 5 2
      let b := e.read 32 f.zOp k
      let pos := k % wd
      k - pos + (match bits f.modN 1 0 with
        | 0 => b % wd
        | 1 => (((pos : Int) - b) % (wd : Int)).toNat
        | 2 => (pos + b) % wd
        | _ => (pos ^^^ b) % wd)
    let hit := fun (k : Nat) => decide (src k < e.w.laneCount) && e.p.mask.has (src k)
    ∃ t w', exec (.shfl f) s = .next t ∧ RegisterRun s e t w' (writtenBy f.xOp ++ writtenBy f.wOp)
      ∧ Took e w' f.xOp (fun k => e.read 32 f.yOp (if hit k then src k else k))
      ∧ Took e w' f.wOp (fun k => bit01 (hit k)))
  ∧ (∀ f s e, Issuing (.vote f) .none s e →
    let ps := e.predOf f.yOp
    ∃ t w' r, exec (.vote f) s = .next t ∧ RegisterRun s e t w' (writtenBy f.xOp) ∧ Took e w' f.xOp (fun _ => r) ∧ r ≤ 1
      ∧ (r = 1 ↔ (if f.modN = 0 then ∃ k ∈ e.lanes, ps.has k = true
          else if f.modN = 1 then ∀ k ∈ e.lanes, ps.has k = true
          else (∀ k ∈ e.lanes, ps.has k = true) ∨ (∀ k ∈ e.lanes, ps.has k = false))))
  ∧ (∀ f s e, Issuing (.ballot f) .none s e → (∀ n, f.xOp ≠ .sreg n) →
    ∃ t w' val, exec (.ballot f) s = .next t ∧ RegisterRun s e t w' (writtenBy f.xOp) ∧ Tagged e w' f.xOp .untyped ∧ Took e w' f.xOp val
      ∧ ∀ k b, k < 1024 → b < 32 → (val k).testBit b =
          (e.acting.has (32 * (k / 32) + b) && (e.predOf f.yOp).has (32 * (k / 32) + b)))
  ∧ (∀ f s e n, Issuing (.ballot f) .none s e → f.xOp = .sreg n →
    let g := e.scalar f.zOp % 32
    ∃ t w' v, exec (.ballot f) s = .next t ∧ RegisterRun s e t w' [0x100 + n] ∧ Took e w' f.xOp (fun _ => v)
      ∧ ∀ b, b < 32 →
          v.testBit b = (e.acting.has (32 * g + b) && (e.predOf f.yOp).has (32 * g + b))
          ∧ (v.testBit (32 + b) = true ↔ ∃ j, j < 32 ∧ e.acting.has (32 * b + j) = true ∧ (e.predOf f.yOp).has (32 * b + j) = true))

/-- R275: WRED reduces the acting lanes' values by ADD, MIN or MAX of its type, or by AND, OR or XOR, and writes the result.
An FP32 ADD is exact and rounded once; a FP32 MIN or MAX passes over NaN, which it gives where every value is NaN. -/
def Sys2Proof.ReductionsSays : Prop :=
  ∀ f s e, Issuing (.wred f) .none s e → (f.fcond ≤ 2 → TagOk e.w (if f.ft = 2 then .f32 else .i32) f.yOp) →
    let vs := e.lanes.map (fun k => e.read 32 f.yOp k)
    let ps := vs.map (fp32.flushIn f.ftz)
    let isNumber := fun (v : Nat) => fp32.decode v ≠ .nan
    let least := fun (r : Nat) (low : Nat → Nat → Bool) => ((∀ v ∈ ps, ¬isNumber v) → r = fp32.nan)
      ∧ ((∃ v ∈ ps, isNumber v) → r ∈ ps ∧ isNumber r ∧ ∀ v ∈ ps, isNumber v → low v r = false)
    let ints := vs.map (fun v => if f.ft = 0 then signed 32 v else (v : Int))
    ∃ r, VectorRun (.wred f) f s e (if 3 ≤ f.fcond then .untyped else if f.ft = 2 then .f32 else .i32) (fun _ => r)
      ∧ (f.ft ≠ 2 → f.fcond = 0 → (r : Int) = (ints.foldl (fun a b => a + b) 0) % 2 ^ 64)
      ∧ (f.ft ≠ 2 → f.fcond = 1 → ∃ x ∈ ints, (r : Int) = x % 2 ^ 64 ∧ ∀ y ∈ ints, x ≤ y)
      ∧ (f.ft ≠ 2 → f.fcond = 2 → ∃ x ∈ ints, (r : Int) = x % 2 ^ 64 ∧ ∀ y ∈ ints, y ≤ x)
      ∧ (f.ft = 2 → f.fcond = 0 → ∀ x l, ps.map fp32.decode = x :: l →
          r = fp32.encode f.rnd false f.ftz (e.random e.lowLane 0) (l.foldl (FVal.add f.rnd) x))
      ∧ (f.ft = 2 → f.fcond = 1 → least r (fun v r => floatBelow (fp32.decode v) (fp32.decode r)))
      ∧ (f.ft = 2 → f.fcond = 2 → least r (fun v r => floatBelow (fp32.decode r) (fp32.decode v)))
      ∧ (f.fcond = 3 → ∀ b, b < 32 → (r.testBit b = true ↔ ∀ v ∈ vs, v.testBit b = true))
      ∧ (f.fcond = 4 → ∀ b, b < 32 → (r.testBit b = true ↔ ∃ v ∈ vs, v.testBit b = true))
      ∧ (f.fcond = 5 → ∀ b, b < 32 → r.testBit b = vs.foldl (fun a v => a ^^ v.testBit b) false)

/-! ### Class 3: loads and stores (R277 to R285) -/

/-- The bytes a load's lane receives: zeros where its bounds check masked it (R54). -/
def Sys2Proof.loadedBytes (s : State) (c width : Nat) (pa : Option Nat) : List Byte :=
  match pa with
  | some p => bytesSeen s c p width
  | none => List.replicate width 0

/-- The writes a load owes hold, in each lane, the bytes `got` in its format (R280, R281), for a vector register or group,
or for a scalar register those of the lowest acting lane; and the result predicate, true where the lane was not masked. -/
def Sys2Proof.LoadOwes (e : Env) (f : Fields) (ws : List PendingWrite) (got : Nat → List Byte) (unmasked : Nat → Bool)
    (pd : Operand) : Prop :=
  let width := widthBytes f.width
  (∀ n, f.xOp = .vreg n → ∀ j, j < (if width ≤ 4 then 1 else width / 4) → ∃ mask vals, .vreg (n + j) mask vals ∈ ws
    ∧ ∀ k, k ∈ e.lanes → k < 1024 → mask.has k = true
      ∧ vals[k]? = some (BitVec.ofNat 32 (loadedWord (f.fmt == 1) width (got k) j)))
  ∧ (∀ n, f.xOp = .sreg n → .sreg n (BitVec.ofNat 64 (extendTo64 (f.fmt == 1) width (ofBytes (got e.lowLane)))) ∈ ws)
  ∧ (∀ n, pd = .pred n → f.xOp ≠ .vz → ∃ mask bits, .pred n mask bits ∈ ws
    ∧ ∀ k, k ∈ e.lanes → k < 1024 → mask.has k = true ∧ bits.has k = unmasked k)

/-- A load of `width` bytes with the bytes `got` by lane has run to `t`: an operation owes its destination, or for vz nothing
is owed and its result predicate is written at once (R204). -/
def Sys2Proof.LoadRun (s : State) (e : Env) (f : Fields) (t : State) (w' : Weave) (got : Nat → List Byte) (unmasked : Nat → Bool)
    (pd : Operand) : Prop :=
  Owing s e t w' ∧ MemorySame s t ∧ w'.spad = e.w.spad
    ∧ (f.xOp ≠ .vz → w'.preds = e.w.preds ∧ ∃ ws, Owes e w' (some .L) ws ∧ LoadOwes e f ws got unmasked pd)
    ∧ (f.xOp = .vz → Took e w' pd (fun k => bit01 (unmasked k))
        ∧ ∀ n, 0x200 + n ∉ writtenBy pd → w'.preds[n]? = e.w.preds[n]?)

/-- R277, R278, R281, R283, R285: LD and LDR, where every acting lane's access is masked or reached by a held translation, owe their
destination the bytes their core sees there; no byte of memory and no register changes, but a predicate of a load to vz. -/
def Obligations.GlobalLoads : Prop :=
  let runs := fun (mk : Fields → Instr) (pd : Fields → Operand) =>
    ∀ f s e pa, Issuing (mk f) .none s e → TagOk e.w .i32 f.yOp → TagOk e.w .i32 f.zOp →
      LanesReach e needRead (offset14 f) (widthBytes f.width) pa →
      ∃ t w', exec (mk f) s = .next t
        ∧ LoadRun s e f t w' (fun k => loadedBytes s e.a.core (widthBytes f.width) (pa k)) (fun k => (pa k).isSome) (pd f)
  runs .ld Fields.wOp ∧ runs .ldr (fun _ => .pT)

/-- R277, R278, R284, R93: ST and STR, where every acting lane's access is masked or reached by a held translation, write each lane's bytes,
lanes ascending (the lowest alone when no operand differs by lane), as their core sees memory; every other byte, and
memory at home, is unchanged, as are all registers. Bytes of host memory alone are written at home at once (R114, R285; when, is log 7). -/
def Obligations.GlobalStores : Prop :=
  let runs := fun (mk : Fields → Instr) =>
    ∀ f s e pa, Issuing (mk f) .none s e → TagOk e.w .i32 f.yOp → TagOk e.w .i32 f.zOp →
      (f.fmt ≠ 0 → ∀ n ∈ groupOf f.xOp (widthBytes f.width), TagOk e.w (Tag.ofCode f.fmt) (.vreg n)) →
      LanesReach e needWrite (offset14 f) (widthBytes f.width) pa →
      let width := widthBytes f.width
      let makers := if e.uniform [f.xOp] then e.lanes.take 1 else e.lanes
      let stored := fun (p : Nat) =>
        (makers.reverse.find? (fun k => (pa k).any (fun a => decide (a ≤ p) && decide (p < a + width)))).map (fun k =>
          ((e.storeBytes f.xOp width k)[p - (pa k).getD 0]?).getD 0)
      ∃ t w', exec (mk f) s = .next t ∧ Owing s e t w' ∧ w'.preds = e.w.preds ∧ w'.spad = e.w.spad
        ∧ (∀ p, isHost p = false → t.mem.read p = s.mem.read p)
        ∧ (∀ p, isHost p = true → t.mem.read p = (stored p).getD (s.mem.read p))
        ∧ (∀ c p, c ≠ e.a.core → (isHost p = false ∨ stored p = none) → byteSeen t c p = byteSeen s c p)
        ∧ (∀ p, byteSeen t e.a.core p = (stored p).getD (byteSeen s e.a.core p))
  runs .st ∧ runs .str

/-- Every acting lane's scratchpad access of `width` bytes is good: masked, or at the offsets `offs k`. -/
def Sys2Proof.LanesInSpad (e : Env) (o : Int) (width : Nat) (offs : Nat → Option (List Nat)) : Prop :=
  ∀ k ∈ e.lanes, match offs k with
    | none => e.spadLane o width k = .masked
    | some l => e.spadLane o width k = .spad l ∧ l.length = width ∧ l.Nodup

/-- No stash window is valid (R76), and no engine's write of the scratchpad is still unordered before lane loads (R109). -/
def Sys2Proof.PlainSpad (w : Weave) : Prop := (∀ r ∈ w.windows, bitAt r.toNat 97 = false) ∧ w.engineWrites = []

/-- A swizzled array register's origin is aligned (R75). -/
def Sys2Proof.OriginOk (e : Env) : Prop := e.originTrap = none

/-- R71, R74, R277, R283, R284: LDS owes its destination the scratchpad's bytes; STS writes each lane's bytes to the scratchpad, lanes ascending, and no
other byte of the scratchpad or of memory changes. -/
def Sys2Proof.ScratchpadAccessSays : Prop :=
  (∀ f s e offs, Issuing (.lds f) .none s e → TagOk e.w .i32 f.zOp → TagOk e.w .i32 f.yOp → OriginOk e → PlainSpad e.w →
    LanesInSpad e (offset14 f) (widthBytes f.width) offs →
    ∃ t w', exec (.lds f) s = .next t
      ∧ LoadRun s e f t w' (fun k => match offs k with
          | some l => l.map e.w.spad.read
          | none => List.replicate (widthBytes f.width) 0) (fun k => (offs k).isSome) f.wOp)
  ∧ (∀ f s e offs, Issuing (.sts f) .none s e → TagOk e.w .i32 f.zOp → TagOk e.w .i32 f.yOp → OriginOk e → PlainSpad e.w →
    (f.fmt ≠ 0 → ∀ n ∈ groupOf f.xOp (widthBytes f.width), TagOk e.w (Tag.ofCode f.fmt) (.vreg n)) →
    LanesInSpad e (offset14 f) (widthBytes f.width) offs →
    let width := widthBytes f.width
    let makers := if e.uniform [f.xOp] then e.lanes.take 1 else e.lanes
    ∃ t w', exec (.sts f) s = .next t ∧ Owing s e t w' ∧ w'.preds = e.w.preds ∧ MemorySame s t
      ∧ ∀ o, w'.spad.read o =
          match makers.reverse.find? (fun k => ((offs k).getD []).contains o) with
          | some k => ((e.storeBytes f.xOp width k)[((offs k).getD []).idxOf o]?).getD 0
          | none => e.w.spad.read o)

/-- R287: the new value that an atomic of operation `aop` on `n` bytes gives. -/
def Sys2Proof.atomicResult (aop n old v c : Nat) : Nat :=
  match aop with
  | 0 => (old + v) % 2 ^ (8 * n)
  | 1 => if signed (8 * n) v < signed (8 * n) old then v else old
  | 2 => if signed (8 * n) old < signed (8 * n) v then v else old
  | 3 => min old v
  | 4 => max old v
  | 5 => old &&& v
  | 6 => old ||| v
  | 7 => old ^^^ v
  | 8 => v
  | 9 => if old = c then v else old
  | 10 => fp32.encode 0 false false 0 (FVal.add 0 (fp32.decode old) (fp32.decode v))
  | 11 => fpSelect fp32 true old v
  | _ => fpSelect fp32 false old v

/-- What ATOM or RED needs to run in a single acting lane `k` at the held address `pa`: tags, and no earlier access of the path
on its way to another module where it releases. -/
def Sys2Proof.AtomicReady (f : Fields) (s : State) (e : Env) (v : Operand) (k pa : Nat) : Prop :=
  e.lanes = [k] ∧ k < 1024 ∧ TagOk e.w .i32 f.yOp ∧ TagOk e.w .i32 f.zOp
    ∧ (∀ t, atomicTag (Fields_aop f) = some t → ∀ n ∈ groupOf v (widthBytes f.width), TagOk e.w t (.vreg n))
    ∧ LanesReach e needBoth (offset12 f) (widthBytes f.width) (fun _ => some pa)
    ∧ (f.scope < 7 ∨ isHost pa = false ∨ s.hostCxl = true ∨ Fields_aop f ∈ [0, 8, 9])
    ∧ (2 ≤ atomicOrder f → e.awaitsRemote = false)

/-- The atomic's update of the bytes at its location. -/
def Sys2Proof.atomicUpdate (f : Fields) (e : Env) (red : Bool) (k : Nat) (old : List Byte) : List Byte :=
  let n := widthBytes f.width
  toBytes n (atomicResult (Fields_aop f) n (ofBytes old) (e.atomicArg (if red then f.xOp else f.wOp) n k)
    (if red then 0 else e.atomicArg f.xOp n k))

/-- The state in which the atomic of a lane is performed, and the old bytes: a release at its scope comes first (R103). -/
def Sys2Proof.performedAt (f : Fields) (e : Env) (red : Bool) (k pa : Nat) : State × List Byte :=
  (if 2 ≤ atomicOrder f then e.s.release e.a.core f.scope else e.s).atomicAt e.a.core f.scope pa (widthBytes f.width)
    (atomicUpdate f e red k)

/-- An operation owes an atomic's destination the old value, in the acting lane `k` of a vector register or group, or in a
scalar register, MIN and MAX of a signed type sign-extended. -/
def Sys2Proof.OldOwed (e : Env) (f : Fields) (w' : Weave) (k old : Nat) : Prop :=
  ∃ ws, Owes e w' (some .L) ws
    ∧ (∀ n, f.xOp = .vreg n → ∀ j, j < widthBytes f.width / 4 → ∃ mask vals, .vreg (n + j) mask vals ∈ ws
        ∧ mask.has k = true ∧ vals[k]? = some (BitVec.ofNat 32 (old / 2 ^ (32 * j))))
    ∧ (∀ n, f.xOp = .sreg n → .sreg n (BitVec.ofNat 64 (extendTo64 (Fields_aop f == 1 || Fields_aop f == 2)
        (widthBytes f.width) old)) ∈ ws)

/-- R286, R287, R288: ATOM and RED of one acting lane, reached by a held translation, replace the bytes at their location, at
the point of their scope, by the operation's result; ATOM owes its destination the old value. (Signed MIN and MAX: log 18. That .REL releases every write held in the core's L1 is log 7.
Not stated: several acting lanes.) -/
def Sys2Proof.GlobalAtomicsSays : Prop :=
  (∀ f s e k pa, Issuing (.atom f) .none s e → AtomicReady f s e f.wOp k pa → k < e.w.laneCount →
    let r := performedAt f e false k pa
    let old := ofBytes r.2
    ∃ t w', exec (.atom f) s = .next t ∧ Owing s e t w' ∧ w'.preds = e.w.preds
      ∧ (∀ p, t.mem.read p = r.1.mem.read p) ∧ (∀ c p, byteSeen t c p = byteSeen r.1 c p)
      ∧ (f.xOp ≠ .vz → OldOwed e f w' k old))
  ∧ (∀ f s e k pa, Issuing (.red f) .none s e → AtomicReady f s e f.xOp k pa →
    let r := performedAt f e true k pa
    ∃ t w', exec (.red f) s = .next t ∧ Owing s e t w' ∧ w'.preds = e.w.preds
      ∧ (∀ p, t.mem.read p = r.1.mem.read p) ∧ (∀ c p, byteSeen t c p = byteSeen r.1 c p))

/-- R93, R103, R104: an atomic at a core's own scopes (.ln to .co) reads the bytes its core sees and changes exactly them, in its core's
view, and leaves memory at home alone, but for host memory, which it changes at home too (log 7); at the module's scopes (.pk to .fb) it changes exactly those bytes at home, where no
die's cache holds them dirty. (The quad's and the die's points, .cl and .di, are not stated.) -/
def Sys2Proof.AtomicPointsSays : Prop :=
  (∀ (s : State) c scope pa n (u : List Byte → List Byte), scope ≤ 2 → 0 < n → n ∣ 16 → pa % n = 0 → (∀ l, (u l).length = n) →
    let r := s.atomicAt c scope pa n u
    r.2 = bytesSeen s c pa n
    ∧ (∀ p, r.1.mem.read p = if isHost pa = true ∧ pa ≤ p ∧ p < pa + n then ((u (bytesSeen s c pa n))[p - pa]?).getD 0 else s.mem.read p)
    ∧ (∀ p, byteSeen r.1 c p = if pa ≤ p ∧ p < pa + n then ((u (bytesSeen s c pa n))[p - pa]?).getD 0 else byteSeen s c p)
    ∧ ∀ c' p, c' ≠ c → (isHost pa = false ∨ p < pa ∨ pa + n ≤ p) → byteSeen r.1 c' p = byteSeen s c' p)
  ∧ (∀ (s : State) c scope pa n (u : List Byte → List Byte), 5 ≤ scope → scope ≤ 8 → 0 < n → n ∣ 16 → pa % n = 0 →
    (∀ l, (u l).length = n) →
    (getLine (s.core c).l1 (pa / 128)).dirty = 0 → (getLine (s.die (dieOf c)).l2 (pa / 128)).dirty = 0 →
    let r := s.atomicAt c scope pa n u
    r.2 = s.mem.readBytes pa n
    ∧ (∀ p, r.1.mem.read p = if pa ≤ p ∧ p < pa + n then ((u (s.mem.readBytes pa n))[p - pa]?).getD 0 else s.mem.read p)
    ∧ ∀ p, pa ≤ p → p < pa + n → byteSeen r.1 c p = r.1.mem.read p)

/-- R288, R80: ATOMS of one acting lane in a scratchpad with no stash window updates its bytes and owes its destination the old value; no
other byte of the scratchpad, and no byte of memory, changes. (That signed MIN and MAX put the old value sign-extended into a scalar register is log 18. Not stated:
a destination vz, several acting lanes, and stash windows.) -/
def Sys2Proof.ScratchpadAtomicsSays : Prop :=
  ∀ f s e k l, Issuing (.atoms f) .none s e → e.lanes = [k] → k < 1024 → k < e.w.laneCount →
    (2 ≤ atomicOrder f → e.awaitsRemote = false) → TagOk e.w .i32 f.yOp → TagOk e.w .i32 f.zOp → OriginOk e → PlainSpad e.w →
    (∀ t, atomicTag (Fields_aop f) = some t → ∀ n ∈ groupOf f.wOp (widthBytes f.width), TagOk e.w t (.vreg n)) →
    LanesInSpad e (offset12 f) (widthBytes f.width) (fun _ => some l) →
    let old := l.map e.w.spad.read
    ∃ t w', exec (.atoms f) s = .next t ∧ Owing s e t w' ∧ w'.preds = e.w.preds ∧ MemorySame s t
      ∧ (∀ o, w'.spad.read o = if l.contains o then ((atomicUpdate f e false k old)[l.idxOf o]?).getD 0 else e.w.spad.read o)
      ∧ (f.xOp ≠ .vz → OldOwed e f w' k (ofBytes old))

/-- A range of `n` bytes that the instruction reaches by held translations: its pieces within 4 KiB pages, with their places. -/
def Sys2Proof.RangeHeld (e : Env) (need : Need) (va n : Nat) (ps : List (Nat × Nat × Place)) : Prop :=
  e.placeRange e.s va n need = .ok e.s ps ∧ ∀ x ∈ ps, ∃ pa, x.2.2 = .phys pa

/-- The address of a spill block (R290): raw, uniform, in range and a multiple of 32. -/
def Sys2Proof.BlockAt (e : Env) (va : Nat) : Prop := e.blockAddr = (va : Int) ∧ va < 2 ^ 64 ∧ va % 32 = 0

/-- R62, R290: SPILL of a register into a block whose bytes are all reached by held translations writes there, as its core sees memory, the
acting lanes' words (a scalar's 64 bits and zeros) and after them the 32-byte trailer with the jamb, the tag and TOP and
scalar flags (a scalar's TAG is written 0, log 75); memory at home stays, but for a block in host memory (log 7), and every register. A block that is not a multiple of 32 traps with STRUCT_ALIGN (4, 2). -/
def Sys2Proof.SpillSays : Prop :=
  (∀ f s e va, Issuing (.spill f) .none s e → BlockAt e va →
    (∀ x ∈ e.spillParts, ∃ ps, RangeHeld e needWrite (va + x.1) x.2.length ps) →
    ∃ t w', exec (.spill f) s = .next t ∧ Owing s e t w' ∧ w'.preds = e.w.preds ∧ (∀ p, isHost p = false → t.mem.read p = s.mem.read p)
      ∧ ∃ placed : List ((Nat × List Byte) × List (Nat × Nat × Place)), placed.map (fun x => x.1) = e.spillParts
        ∧ (∀ x ∈ placed, RangeHeld e needWrite (va + x.1.1) x.1.2.length x.2)
        ∧ let u := placed.foldl (fun u x => e.writePlaced u false (va + x.1.1) x.1.2 x.2) e.s
          (∀ p, t.mem.read p = u.mem.read p) ∧ ∀ c p, byteSeen t c p = byteSeen u c p)
  ∧ (∀ (f : Fields) (e : Env) (n : Nat), e.f = f → f.xOp = .sreg n → e.spillParts =
      [(0, toBytes 8 (e.sreg n).toNat ++ List.replicate 24 0),
       (32, toBytes 32 (uwrap 64 ((e.jambAt 64 (.sreg n)).lo 64) + uwrap 64 ((e.jambAt 64 (.sreg n)).hi 64) * 2 ^ 64
          + (if e.jambAt 64 (.sreg n) = .top then 2 ^ 132 else 0) + 2 ^ 133))])
  ∧ (∀ (f : Fields) (e : Env) (n : Nat), e.f = f → f.xOp = .vreg n → e.spillParts =
      e.lanes.map (fun k => (4 * k, toBytes 4 (e.vlane n k)))
        ++ [(4 * e.w.laneCount, toBytes 32 (uwrap 64 ((e.jambAt 32 (.vreg n)).lo 32)
          + uwrap 64 ((e.jambAt 32 (.vreg n)).hi 32) * 2 ^ 64 + (e.w.tag n).code * 2 ^ 128
          + (if e.jambAt 32 (.vreg n) = .top then 2 ^ 132 else 0)))])
  ∧ (∀ f s e (va : Nat), Issuing (.spill f) .none s e → e.blockAddr = (va : Int) → va < 2 ^ 64 → va % 32 ≠ 0 →
    exec (.spill f) s = .next (s.trapPath e.a (cause 4 2) (alignDetail va 5 0) e.next))

/-- The number of bytes of data before the trailer of a block for `o` (R62). -/
def Sys2Proof.blockData (w : Weave) (o : Operand) : Nat := if o.isS then 32 else 4 * w.laneCount

/-- A lane's word of a block's data (R62): a scalar's 64 bits, or the lane's 32. -/
def Sys2Proof.blockWord (o : Operand) (data : List Byte) (k : Nat) : Nat :=
  if o.isS then ofBytes (data.take 8) else ofBytes ((data.drop (4 * k)).take 4)

/-- A lane's word of a block's data as the number that a trailer's interval bounds. -/
def Sys2Proof.blockValue (o : Operand) (data : List Byte) (k : Nat) : Int := signed o.width (blockWord o data k)

/-- R63, R290: FILL of a register from a block reached by held translations. A trailer that is ill-formed or of the other class traps with
SPILL_TRAILER (6, 1). One that says TOP: an operation owes the register the block's words in the acting lanes. One with an interval that
every active lane's word lies in: the register takes the words in the acting lanes at once; one with an active lane outside
it: the path stops with FILL_JAMB (3, 5) at the lowest such lane. The tag and, unguarded, the jamb are the block's (log 56); no byte of memory changes. -/
def Sys2Proof.FillSays : Prop :=
  ∀ f s e va trl data s1 s2, Issuing (.fill f) .none s e → BlockAt e va →
    e.readRange e.s false va (blockData e.w f.xOp) = .ok s1 data →
    e.readRangeNat s1 false (va + blockData e.w f.xOp) 32 = .ok s2 trl →
    s2.weave? e.a.core e.a.slot = some e.w →
    let lo := signed 64 trl
    let hi := signed 64 (trl / 2 ^ 64)
    let active := e.p.mask.lanes e.w.laneCount
    (trailerBad f.xOp.isS trl = true →
      exec (.fill f) s = .next (s.trapPath e.a (cause 6 1) (BitVec.ofNat 96 ((f.xN % 1024) * 2 ^ 8)) e.next))
    ∧ (trailerBad f.xOp.isS trl = false → bitAt trl 132 = true →
      ∃ t w' q' ws, exec (.fill f) s = .next t ∧ t.weave? e.a.core e.a.slot = some w' ∧ w'.vregs = e.w.vregs ∧ w'.sregs = e.w.sregs
        ∧ (∀ p, t.mem.read p = s2.mem.read p) ∧ Owes e w' (some .L) ws
        ∧ (∀ n, f.xOp = .sreg n → ws = [.sreg n (BitVec.ofNat 64 (blockWord f.xOp data 0))]
            ∧ (n < e.w.sjambs.length → w'.tableJamb (0x100 + n) = .top))
        ∧ (∀ n, f.xOp = .vreg n → (n < e.w.vjambs.length → w'.jambOf e.a.path n = .top)
            ∧ (n < e.w.tags.length → w'.tags[n]? = some (Tag.ofCode (bits trl 131 128)))
            ∧ ∃ vals, ws = [.vreg n e.acting vals] ∧ ∀ k, k < e.w.laneCount → e.acting.has k = true →
                vals[k]? = some (BitVec.ofNat 32 (blockWord f.xOp data k)))
        ∧ w'.path? e.a.path = some q' ∧ q'.pc = e.next ∧ q'.cond = .ready)
    ∧ (trailerBad f.xOp.isS trl = false → bitAt trl 132 = false →
      (∀ k ∈ active, lo ≤ blockValue f.xOp data k ∧ blockValue f.xOp data k ≤ hi) →
      ∃ t w', exec (.fill f) s = .next t ∧ t.weave? e.a.core e.a.slot = some w' ∧ (∀ p, t.mem.read p = s2.mem.read p)
        ∧ RegsKept e.w w' (writtenBy f.xOp) ∧ JambsKept e.w w' (writtenBy f.xOp) ∧ RestKept e.w w' ∧ PathAt e w' e.next
        ∧ Took e w' f.xOp (blockWord f.xOp data) ∧ Tagged e w' f.xOp (Tag.ofCode (bits trl 131 128))
        ∧ (f.unguarded = true → ∀ n, (f.xOp = .sreg n → n < e.w.sjambs.length → w'.tableJamb (0x100 + n) = Jamb.mk 64 lo hi)
            ∧ (f.xOp = .vreg n → n < e.w.vjambs.length → w'.jambOf e.a.path n = Jamb.mk 32 lo hi)))
    ∧ (trailerBad f.xOp.isS trl = false → bitAt trl 132 = false → ∀ k,
      active.find? (fun j => decide (blockValue f.xOp data j < lo) || decide (hi < blockValue f.xOp data j)) = some k →
      exec (.fill f) s = .next (s.trapPath e.a (cause 3 5) (boundsDetail (blockValue f.xOp data k) f.xN 0 0 k) e.next))

/-- R60, R61, R291: PREF changes no register, no jamb and no byte of memory, and takes no fault for its addresses. -/
def Sys2Proof.PrefetchSays : Prop :=
  ∀ f s e, Issuing (.pref f) .none s e → TagOk e.w .i32 f.yOp → TagOk e.w .i32 f.zOp →
    ∃ t w', exec (.pref f) s = .next t ∧ t.weave? e.a.core e.a.slot = some w' ∧ RegsKept e.w w' [] ∧ JambsKept e.w w' []
      ∧ RestKept e.w w' ∧ PathAt e w' e.next ∧ MemorySame s t

/-! ### Ordering and stash (R76 to R114, R292 to R298) -/

/-- The instruction has gone on at next, with the registers, jambs and paths of its weave as they were. -/
def Sys2Proof.WentOn (s : State) (e : Env) (t : State) (w' : Weave) : Prop :=
  t.weave? e.a.core e.a.slot = some w' ∧ RegsKept e.w w' [] ∧ JambsKept e.w w' [] ∧ PathAt e w' e.next
    ∧ (∀ c, c ≠ e.a.core → ∀ n, t.weave? c n = s.weave? c n) ∧ ∀ n, n ≠ e.a.slot → t.weave? e.a.core n = s.weave? e.a.core n

/-- R98, R101, R102: a release at .pk or wider (code 5 up) writes home every byte that the core holds dirty; an acquire there makes the
core see memory at home for every byte that neither it nor its die holds dirty; at .co or narrower neither does anything. -/
def Sys2Proof.ReleaseAndAcquireSays : Prop :=
  (∀ (s : State) c scope p, 5 ≤ scope → (getLine (s.core c).l1 (p / 128)).dirty.getLsbD (p % 128) = true →
    (homeDie p = dieOf c → (getLine (s.die (dieOf c)).l2 (p / 128)).dirty = 0) →
    (s.release c scope).mem.read p = (getLine (s.core c).l1 (p / 128)).byte (p % 128))
  ∧ (∀ (s : State) c scope p, 5 ≤ scope → ((s.core c).l1.map (fun x => x.1)).Nodup →
    ((s.die (dieOf c)).l2.map (fun x => x.1)).Nodup →
    (getLine (s.core c).l1 (p / 128)).dirty.getLsbD (p % 128) = false →
    (getLine (s.die (dieOf c)).l2 (p / 128)).dirty.getLsbD (p % 128) = false →
    byteSeen (s.acquire c scope) c p = s.mem.read p)
  ∧ (∀ (s : State) c scope, scope ≤ 2 → s.release c scope = s ∧ s.acquire c scope = s)

/-- R295, R296, R105, R106, R81: PHASE, FENCE and FENCEX, with nothing of theirs left to wait for, go on: PHASE at .co or narrower and FENCE
change nothing; PHASE at .cl or wider releases and then acquires at its scope and drops the clean sectors of the stash
windows; FENCEX takes its classes' operations as over. With an access still on its way to another module, PHASE and FENCE
wait, and so does FENCEX for an operation of a class it names. -/
def Sys2Proof.PhasesAndFencesSays : Prop :=
  (∀ f s e, Issuing (.phase f) .none s e → e.awaitsRemote = false → f.modN ≤ 2 →
    ∃ t w', exec (.phase f) s = .next t ∧ RegisterRun s e t w' [])
  ∧ (∀ f s e, Issuing (.phase f) .none s e → e.awaitsRemote = true →
    ∃ t, exec (.phase f) s = .next t ∧ OwnPath s e t (fun q => q.pc = e.p.pc ∧ q.cond = .blocked (.stall 11)))
  ∧ (∀ f s e, Issuing (.phase f) .none s e → e.awaitsRemote = false → 3 ≤ f.modN → e.w.dirtySectors (fun _ => true) = [] →
    e.s.writingBack e.w.id (fun _ => true) = false →
    let r := (e.s.release e.a.core f.modN).acquire e.a.core f.modN
    ∃ t w', exec (.phase f) s = .next t ∧ WentOn s e t w' ∧ w'.spad = e.w.spad
      ∧ w'.sectors = e.w.sectors.filter (fun x => x.written != 0)
      ∧ (∀ p, t.mem.read p = r.mem.read p) ∧ ∀ c p, byteSeen t c p = byteSeen r c p)
  ∧ (∀ f s e, Issuing (.fence f) .none s e →
    (e.awaitsRemote = false → ∃ t w', exec (.fence f) s = .next t ∧ RegisterRun s e t w' [])
    ∧ (e.awaitsRemote = true → ∃ t, exec (.fence f) s = .next t
        ∧ OwnPath s e t (fun q => q.pc = e.p.pc ∧ q.cond = .blocked (.stall 7))))
  ∧ (∀ f s e, Issuing (.fencex f) .none s e → e.w.opsOf e.p ((fenceClasses f.modN).filter (fun c => c != .L)) ≠ [] →
    ∃ t, exec (.fencex f) s = .next t ∧ OwnPath s e t (fun q => q.pc = e.p.pc ∧ q.cond = .blocked (.stall 7)))
  ∧ (∀ f s e, Issuing (.fencex f) .none s e → (.L ∈ fenceClasses f.modN → e.awaitsRemote = false) →
    e.w.opsOf e.p ((fenceClasses f.modN).filter (fun c => c != .L)) = [] →
    ∃ t w', exec (.fencex f) s = .next t ∧ WentOn s e t w' ∧ w'.spad = e.w.spad
      ∧ (∀ x ∈ w'.engineWrites, x ∈ e.w.engineWrites
          ∧ ¬ (.L ∈ fenceClasses f.modN ∧ x.cls ∈ fenceClasses f.modN ∧ x.serial ∈ e.p.history)))

/-- R297: BAR. While some other path of the weave is neither at a BAR nor ARRIVED the path is BLOCKED at it; once every other live path is at
one, all of them go on, each after its own BAR, and no path merges. Where each of the others is at a BAR or ARRIVED at a RECONV, one at least ARRIVED, every path at a BAR
traps with BAR_DEADLOCK (9, 11), and the ARRIVED ones stay. -/
def Sys2Proof.BarrierOfPathsSays : Prop :=
  ∀ f s e, Issuing (.bar f) .none s e → e.awaitsRemote = false →
    ((∃ i q, i ≠ e.a.path ∧ e.w.path? i = some q ∧ q.atBar = false ∧ q.isArrived = false) →
      ∃ t, exec (.bar f) s = .next t ∧ OwnPath s e t (fun q => q.pc = e.p.pc ∧ q.cond = .blocked (.bar e.next)))
    ∧ ((∀ i q, i ≠ e.a.path → e.w.path? i = some q → ∃ n, q.cond = .blocked (.bar n)) →
      ∃ t w' q', exec (.bar f) s = .next t ∧ t.weave? e.a.core e.a.slot = some w' ∧ OnlyWeave s t e.a
        ∧ RegsKept e.w w' [] ∧ JambsKept e.w w' [] ∧ RestKept e.w w'
        ∧ w'.path? e.a.path = some q' ∧ q'.pc = e.next ∧ q'.cond = .ready ∧ q'.mask = e.p.mask
        ∧ ∀ i q n, i ≠ e.a.path → e.w.path? i = some q → q.cond = .blocked (.bar n) →
          ∃ r, w'.path? i = some r ∧ r.pc = n ∧ r.cond = .ready ∧ r.mask = q.mask)
    ∧ ((∀ i q, i ≠ e.a.path → e.w.path? i = some q → q.atBar = true ∨ q.isArrived = true) →
      (∃ i q, i ≠ e.a.path ∧ e.w.path? i = some q ∧ q.isArrived = true) →
      ∃ t w', exec (.bar f) s = .next t ∧ t.weave? e.a.core e.a.slot = some w' ∧ RegsKept e.w w' []
        ∧ (∀ i q, e.w.path? i = some q → i = e.a.path ∨ q.atBar = true →
          ∃ r k, w'.path? i = some r ∧ r.cond = .parked k ∧ k.cause = cause 9 11 ∧ r.mask = q.mask)
        ∧ ∀ i q, i ≠ e.a.path → e.w.path? i = some q → q.isArrived = true → w'.path? i = some q)

/-- No path of the weave waits at ABWAIT. -/
def Sys2Proof.NoneWaits (w : Weave) : Prop := ∀ i q off g n, w.path? i = some q → q.cond ≠ .blocked (.abwait off g n)

/-- The instruction's barrier word is at `off`: aligned, in the weave's scratchpad, in no stash window (R299). -/
def Sys2Proof.BarrierAt (e : Env) (off : Nat) : Prop :=
  e.index e.f.yOp e.lowLane + offset14 e.f = (off : Int) ∧ off % 16 = 0 ∧ off + 16 ≤ e.w.spadBytes ∧ PlainSpad e.w

/-- The run of a form that writes registers `written` and the 16 bytes of scratchpad at `off` to hold `v`. -/
def Sys2Proof.BarrierRun (s : State) (e : Env) (t : State) (w' : Weave) (written : List Nat) (off v : Nat) : Prop :=
  t.weave? e.a.core e.a.slot = some w' ∧ OnlyWeave s t e.a ∧ RegsKept e.w w' written ∧ JambsKept e.w w' written
    ∧ RestKept e.w { w' with spad := e.w.spad } ∧ PathAt e w' e.next ∧ w'.spad.readNat off 16 = v
    ∧ ∀ o, o < off ∨ off + 16 ≤ o → w'.spad.read o = e.w.spad.read o

/-- R298, R299: with no path waiting at ABWAIT, ABINIT sets EXP and clears the rest of its word, ABEXP adds to EXP and ABARR to ARR, both saturating at
2^32 − 1; a misaligned word traps with STRUCT_ALIGN. ABARR wakes a path that waits on the word for its current generation once ARR
reaches EXP, which ends that generation. -/
def Sys2Proof.ArrivalBarriersSays : Prop :=
  (∀ f s e off, Issuing (.abinit f) .none s e → BarrierAt e off → NoneWaits e.w →
    ∃ t w', exec (.abinit f) s = .next t ∧ BarrierRun s e t w' [] off (e.scalar f.xOp % 2 ^ 32 * 2 ^ 32))
  ∧ (∀ f s e off, Issuing (.abexp f) .none s e → BarrierAt e off → NoneWaits e.w →
    ∃ t w' v, exec (.abexp f) s = .next t ∧ BarrierRun s e t w' [] off v
      ∧ let old := e.w.spad.readNat off 16
        abExp v = min (abExp old + e.scalar f.xOp % 2 ^ 32) (2 ^ 32 - 1) ∧ abArr v = abArr old
          ∧ bits v 127 64 = bits old 127 64)
  ∧ (∀ f s e off, Issuing (.abarr f) .none s e → BarrierAt e off → NoneWaits e.w → e.awaitsRemote = false →
    ∃ t w' v, exec (.abarr f) s = .next t ∧ BarrierRun s e t w' [] off v
      ∧ let old := e.w.spad.readNat off 16
        abArr v = min (abArr old + e.scalar f.xOp % 2 ^ 32) (2 ^ 32 - 1) ∧ bits v 127 32 = bits old 127 32)
  ∧ (∀ f s e off i q n, Issuing (.abarr f) .none s e → BarrierAt e off → e.awaitsRemote = false → i ≠ e.a.path →
    e.w.path? i = some q → q.cond = .blocked (.abwait off (abGen (e.w.spad.readNat off 16)) n) →
    (∀ j r off' g m, j ≠ i → e.w.path? j = some r → r.cond ≠ .blocked (.abwait off' g m)) →
    let old := e.w.spad.readNat off 16
    let arr := min (abArr old + e.scalar f.xOp % 2 ^ 32) (2 ^ 32 - 1)
    abExp old ≤ arr →
    ∃ t w' r v, exec (.abarr f) s = .next t ∧ t.weave? e.a.core e.a.slot = some w' ∧ w'.path? i = some r ∧ r.pc = n
      ∧ r.cond = .ready ∧ w'.spad.readNat off 16 = v ∧ abArr v = arr - abExp old ∧ abGen v = (abGen old + 1) % 2 ^ 16
      ∧ abExp v = abExp old)
  ∧ (∀ (f : Fields) s e, Issuing (.abinit f) .none s e → (e.index f.yOp e.lowLane + offset14 f) % 16 ≠ 0 →
    exec (.abinit f) s = .next (s.trapPath e.a (cause 4 2)
      (alignDetail (uwrap 72 (e.index f.yOp e.lowLane + offset14 f)) 4 0) e.next))

/-- R300: ABWAIT for generation g of a word, with no path waiting: it passes when g is 1 to 2^15 generations behind GEN; when g is GEN and ARR ≥ EXP it passes and
completes the generation; otherwise the path waits, and with .NB goes on. With .NB, pd takes whether it passed. -/
def Sys2Proof.ArrivalWaitsSays : Prop :=
  ∀ f s e off, Issuing (.abwait f) .none s e → BarrierAt e off → NoneWaits e.w →
    let old := e.w.spad.readNat off 16
    let g := e.scalar f.wOp % 2 ^ 16
    let behind := (abGen old + 2 ^ 16 - g) % 2 ^ 16
    let written := if f.modN = 1 then writtenBy f.xOp else []
    (1 ≤ behind → behind ≤ 2 ^ 15 →
      ∃ t w', exec (.abwait f) s = .next t ∧ BarrierRun s e t w' written off old
        ∧ (f.modN = 1 → Took e w' f.xOp (fun _ => 1)))
    ∧ (behind = 0 → abExp old ≤ abArr old →
      ∃ t w' v, exec (.abwait f) s = .next t ∧ BarrierRun s e t w' written off v
        ∧ abArr v = abArr old - abExp old ∧ abGen v = (abGen old + 1) % 2 ^ 16 ∧ abExp v = abExp old
        ∧ (f.modN = 1 → Took e w' f.xOp (fun _ => 1)))
    ∧ ((2 ^ 15 < behind ∨ (behind = 0 ∧ abArr old < abExp old)) →
      (f.modN = 1 → ∃ t w', exec (.abwait f) s = .next t ∧ BarrierRun s e t w' written off old
        ∧ Took e w' f.xOp (fun _ => 0))
      ∧ (f.modN ≠ 1 → ∃ t, exec (.abwait f) s = .next t
        ∧ OwnPath s e t (fun q => q.pc = e.p.pc ∧ q.cond = .blocked (.abwait off g e.next))))

/-- R303, R305: WAITC goes on once its counter is at or below n, and else its path waits at it; SLEEP 0 goes on, and SLEEP n blocks its path until
n ticks, at most 2^24 − 1, have passed. -/
def Sys2Proof.CounterWaitsAndSleepSays : Prop :=
  (∀ f s e c, Issuing (.waitc f) .none s e → f.xOp = .dc c →
    (((e.p.counters[c]?).getD []).length ≤ e.scalar f.yOp →
      ∃ t w', exec (.waitc f) s = .next t ∧ RegisterRun s e t w' [])
    ∧ (e.scalar f.yOp < ((e.p.counters[c]?).getD []).length →
      ∃ t, exec (.waitc f) s = .next t
        ∧ OwnPath s e t (fun q => q.pc = e.p.pc ∧ q.cond = .blocked (.waitc c (e.scalar f.yOp)))))
  ∧ (∀ f s e, Issuing (.sleep f) .none s e →
    (e.scalar f.yOp = 0 → ∃ t w', exec (.sleep f) s = .next t ∧ RegisterRun s e t w' [])
    ∧ (e.scalar f.yOp ≠ 0 → ∃ t, exec (.sleep f) s = .next t
      ∧ OwnPath s e t (fun q =>
        q.pc = e.p.pc ∧ q.cond = .blocked (.sleep (s.tick + min (e.scalar f.yOp) (2 ^ 24 - 1)) e.next))))

/-- The global address that STASH maps (R292). -/
def Sys2Proof.stashSource (e : Env) : Nat :=
  match e.f.yOp with
  | .areg r => aregBase (e.areg r)
  | o => e.scalar o

/-- R76, R77, R292: STASH of window n, with no window valid and no engine operation outstanding, sets the window register from its operands,
with no sector held, and changes nothing else; a window number beyond the weave's traps with STASH_SLOT (2, 9). -/
def Sys2Proof.StashWindowsSays : Prop :=
  (∀ f s e, Issuing (.stash f) .none s e →
    let n := f.xN % 16
    let soff := e.scalar f.zOp
    let lines := e.scalar f.wOp
    n < e.w.stashCount → n < e.w.windows.length → stashSource e % 128 = 0 → soff % 128 = 0 → 1 ≤ lines → lines ≤ 3072 →
    soff + 128 * lines ≤ e.w.spadBytes → (∀ r ∈ e.w.windows, bitAt r.toNat 97 = false) → e.w.engineBusy = false →
    ∃ t w', exec (.stash f) s = .next t ∧ WentOn s e t w' ∧ OnlyWeave s t e.a ∧ w'.spad = e.w.spad ∧ w'.sectors = e.w.sectors
      ∧ w'.windows[n]? = some (BitVec.ofNat 128
          (stashSource e + lines * 2 ^ 72 + soff / 128 * 2 ^ 84 + f.modN % 2 * 2 ^ 96 + 2 ^ 97))
      ∧ ∀ m, m ≠ n → w'.windows[m]? = e.w.windows[m]?)
  ∧ (∀ f s e, Issuing (.stash f) .none s e → e.w.stashCount ≤ f.xN % 16 →
    exec (.stash f) s = .next (s.trapPath e.a (cause 2 9) (BitVec.ofNat 96 (stashSource e % 2 ^ 72)) e.next))

/-- R81, R293, R294: STWB with one DIRTY sector among its windows, its page held at `pa`, writes exactly the sector's masked bytes home and leaves
it CLEAN; with none it does nothing. UNSTASH of an invalid window does nothing; of a valid window with no DIRTY sector it makes the window and all
its sectors invalid. -/
def Sys2Proof.StashWriteBacksSays : Prop :=
  (∀ f s e x r pa, Issuing (.stwb f) .none s e → f.modN ≠ 1 → f.xN % 16 < e.w.stashCount →
    e.w.windows[f.xN % 16]? = some r → winValid r = true → e.w.dirtySectors (fun m => m == f.xN % 16) = [x] → x.window = f.xN % 16 →
    e.w.sectors.Nodup → e.s.translate e.a.core e.w.id.ctx (winGlobal r + 32 * x.index) needWrite = (e.s, .phys pa) →
    e.s.writingBack e.w.id (fun m => m == f.xN % 16) = false →
    ∃ t w', exec (.stwb f) s = .next t ∧ t.weave? e.a.core e.a.slot = some w' ∧ RegsKept e.w w' [] ∧ JambsKept e.w w' []
      ∧ w'.spad = e.w.spad ∧ w'.sector? x.window x.index = some { x with written := 0 }
      ∧ (∃ q', w'.path? e.a.path = some q' ∧ q'.pc = e.next ∧ q'.cond = .ready)
      ∧ ∀ p, t.mem.read p = if pa ≤ p ∧ p < pa + 32 ∧ x.written.getLsbD (p - pa) = true
          then e.w.spad.read (winBase r + 32 * x.index + (p - pa)) else s.mem.read p)
  ∧ (∀ f s e, Issuing (.stwb f) .none s e → f.modN ≠ 1 → f.xN % 16 < e.w.stashCount → f.setN = 0 → e.s.awaits e = false →
    e.s.writingBack e.w.id (fun m => m == f.xN % 16) = false → (∀ x ∈ e.w.sectors, x.window = f.xN % 16 → x.written = 0) →
    ∃ t w', exec (.stwb f) s = .next t ∧ RegisterRun s e t w' [])
  ∧ (∀ f s e, Issuing (.unstash f) .none s e → f.xN % 16 < e.w.stashCount →
    (∀ r, e.w.windows[f.xN % 16]? = some r → winValid r = false) →
    ∃ t w', exec (.unstash f) s = .next t ∧ RegisterRun s e t w' [])
  ∧ (∀ f s e r, Issuing (.unstash f) .none s e → f.xN % 16 < e.w.stashCount → e.w.windows[f.xN % 16]? = some r →
    winValid r = true → (∀ x ∈ e.w.sectors, x.window = f.xN % 16 → x.written = 0) → e.w.engineBusy = false →
    e.s.writingBack e.w.id (fun m => m == f.xN % 16) = false →
    ∃ t w', exec (.unstash f) s = .next t ∧ t.weave? e.a.core e.a.slot = some w' ∧ RegsKept e.w w' [] ∧ JambsKept e.w w' []
      ∧ w'.spad = e.w.spad ∧ w'.windows[f.xN % 16]? = some 0 ∧ (∀ x ∈ w'.sectors, x.window ≠ f.xN % 16)
      ∧ (∃ q', w'.path? e.a.path = some q' ∧ q'.pc = e.next ∧ q'.cond = .ready) ∧ MemorySame s t)

/-- The instruction's hoop: its aligned descriptor, reached at `pa` by a held translation, of the weave's own context, holds `d`. -/
def Sys2Proof.HoopAt (e : Env) (va pa d : Nat) : Prop :=
  e.scalar e.f.yOp = va ∧ va % 64 = 0 ∧ e.s.translateFor e.a e.w.id.ctx va needBoth = (e.s, .phys pa)
    ∧ e.s.readHomeNat pa 64 = d ∧ hoopCtx d = e.w.id.ctx

/-- The weave gone on after a hoop update that leaves `v` in the 64 bytes at `pa`, and `hoops` held. -/
def Sys2Proof.HoopRun (s : State) (e : Env) (t : State) (pa v : Nat) (hoops : List Nat) : Prop :=
  ∃ w', WentOn s e t w' ∧ RestKept e.w { w' with hoops := e.w.hoops } ∧ w'.hoops = hoops ∧ t.readHomeNat pa 64 = v
    ∧ (∀ p, p < pa ∨ pa + 64 ≤ p → t.mem.read p = s.mem.read p)
    ∧ (∀ c, (t.core c).l1 = (s.core c).l1) ∧ ∀ d, (t.die d).l2 = (s.die d).l2

/-- R22, R24, R25, R302: JOIN of a well-formed hoop that the weave is not in adds one member and holds the hoop; LEAVE takes one member away, which
completes the barrier when all who are left have arrived, and makes the hoop inactive when none are; a descriptor that is not 64-byte aligned traps with
STRUCT_ALIGN (4, 2), a JOIN of a hoop already held in group 9, index 5, a LEAVE of one not held with index 7. -/
def Sys2Proof.HoopMembershipSays : Prop :=
  (∀ f s e va pa d, Issuing (.joinHoop f) .none s e → HoopAt e va pa d →
    bits d 511 134 = 0 → 2 ≤ hoopScope d → hoopScope d ≤ 8 →
    (va ∈ e.w.hoops → exec (.joinHoop f) s = .next (s.trapPath e.a (cause 9 5) (syncDetail va 0) e.next))
    ∧ (va ∉ e.w.hoops → e.w.hoops.length < 4 → hoopMembers d + 1 < 2 ^ 32 →
      ∃ t v, exec (.joinHoop f) s = .next t ∧ HoopRun s e t pa v (e.w.hoops ++ [va])
        ∧ hoopMembers v = hoopMembers d + 1 ∧ bitAt v 100 = true ∧ bits v 99 32 = bits d 99 32 ∧ bits v 511 101 = bits d 511 101))
  ∧ (∀ f s e va pa d, Issuing (.leaveHoop f) .none s e → HoopAt e va pa d →
    (va ∉ e.w.hoops → exec (.leaveHoop f) s = .next (s.trapPath e.a (cause 9 7) (syncDetail va 0) e.next))
    ∧ (va ∈ e.w.hoops → 0 < hoopMembers d →
      ∃ t v, exec (.leaveHoop f) s = .next t ∧ HoopRun s e t pa v (e.w.hoops.filter (fun x => x != va))
        ∧ hoopMembers v = hoopMembers d - 1 ∧ bits v 511 101 = bits d 511 101 ∧ bits v 99 96 = bits d 99 96
        ∧ (hoopMembers d = 1 → hoopArrived v = 0 ∧ bitAt v 100 = false ∧ hoopGen v = hoopGen d)
        ∧ (1 < hoopMembers d → hoopArrived d = hoopMembers d - 1 →
            hoopArrived v = 0 ∧ hoopGen v = (hoopGen d + 1) % 2 ^ 32 ∧ bitAt v 100 = bitAt d 100)
        ∧ (1 < hoopMembers d → hoopArrived d ≠ hoopMembers d - 1 →
            hoopArrived v = hoopArrived d ∧ hoopGen v = hoopGen d ∧ bitAt v 100 = bitAt d 100)))
  ∧ (∀ f s e, Issuing (.joinHoop f) .none s e → e.scalar f.yOp % 64 ≠ 0 →
    exec (.joinHoop f) s = .next (s.trapPath e.a (cause 4 2) (alignDetail (e.scalar f.yOp) 6 0) e.next))

/-- R24, R101, R302: HBAR of a held hoop by the weave's one live path releases at the hoop's scope and arrives: the last arrival clears ARR, advances GEN
and goes on; any other adds one to ARR and waits for GEN to change. A hoop not held traps in group 9, index 7. -/
def Sys2Proof.HoopBarrierSays : Prop :=
  ∀ f s e va pa d, Issuing (.hbar f) .none s e → HoopAt e va pa d →
    (va ∉ e.w.hoops → exec (.hbar f) s = .next (s.trapPath e.a (cause 9 7) (syncDetail va 0) e.next))
    ∧ (va ∈ e.w.hoops → (∀ i, i ≠ e.a.path → e.w.path? i = none) → e.awaitsRemote = false →
      let r := (e.s.touch pa).release e.a.core (hoopScope d)
      r.readHomeNat pa 64 = d → hoopArrived d + 1 < 2 ^ 32 →
      (hoopArrived d + 1 = hoopMembers d →
        ∃ t w' v, exec (.hbar f) s = .next t ∧ WentOn s e t w' ∧ RestKept e.w w' ∧ t.readHomeNat pa 64 = v
          ∧ hoopArrived v = 0 ∧ hoopGen v = (hoopGen d + 1) % 2 ^ 32 ∧ hoopMembers v = hoopMembers d ∧ bits v 511 96 = bits d 511 96
          ∧ ∀ p, p < pa ∨ pa + 64 ≤ p → t.mem.read p = r.mem.read p)
      ∧ (hoopArrived d + 1 ≠ hoopMembers d →
        ∃ t w' q' v, exec (.hbar f) s = .next t ∧ t.weave? e.a.core e.a.slot = some w' ∧ RegsKept e.w w' [] ∧ RestKept e.w w'
          ∧ w'.path? e.a.path = some q' ∧ q'.pc = e.p.pc ∧ q'.cond = .blocked (.hbar va (hoopGen d) (hoopScope d) e.next)
          ∧ t.readHomeNat pa 64 = v ∧ hoopArrived v = hoopArrived d + 1 ∧ bits v 511 64 = bits d 511 64 ∧ hoopMembers v = hoopMembers d
          ∧ ∀ p, p < pa ∨ pa + 64 ≤ p → t.mem.read p = r.mem.read p))

/-- The queue of port `port` (R88, R434): its entry is a good address, reached at `pa` by a held translation, and its
descriptor `d` is well formed and of the weave's context. -/
def Sys2Proof.QueueAt (e : Env) (port pa d : Nat) : Prop :=
  let entry := e.s.portEntry e.w.id.ctx port
  entry ≠ 0 ∧ bits entry 127 72 = 0 ∧ entry % 64 = 0
    ∧ e.s.translateFor e.a e.w.id.ctx entry needBoth = (e.s, .phys pa)
    ∧ e.s.readHomeNat pa 64 = d ∧ qBad d = false ∧ qCtx d = e.w.id.ctx

/-- In `s`, entries `first` to `first + c - 1` are reached at `pas` by held translations. -/
def Sys2Proof.EntriesHeld (e : Env) (s : State) (n : Need) (d first c : Nat) (pas : Nat → Nat) : Prop :=
  ∀ j, j < c → s.translateFor e.a e.w.id.ctx (entryVa d (first + j)) n = (s, .phys (pas j))

/-- R87, R89, R306, R307: QPUSH of `m` entries, all that its lanes have or with .NB as many as there is room for, releases at the queue's SCOPE,
moves TAIL on by m and writes the j-th acting lane's value in entry TAIL + j; pd is true in the lanes that pushed; memory is otherwise as
the release left it. A blocking QPUSH without room waits; a port that is not bound traps with PORT_UNBOUND (10, 0). -/
def Sys2Proof.QueuePushSays : Prop :=
  (∀ f s e port pa d pas, Issuing (.qpush f) .none s e → f.xOp = .port port → QueueAt e port pa d →
    let lanes := e.queueLanes f.yOp
    let c := lanes.length
    let x := e.s.queueState pa
    let s1 := e.s.touch pa
    let r := s1.release e.a.core (qScope d)
    let m := min c (2 ^ qCap d - held x.1 x.2)
    queueFits e.w f.yOp (qEsz d) = true → c ≤ 2 ^ qCap d → e.awaitsRemote = false → e.reserved = none →
    (m = c ∨ f.modN ≠ 0 → EntriesHeld e s1 needWrite d x.2 m pas →
      EntriesHeld e (e.reserve r pa x.1 x.2 m) needWrite d x.2 m pas →
      ∃ t w', exec (.qpush f) s = .next t ∧ t.weave? e.a.core e.a.slot = some w' ∧ RegsKept e.w w' (writtenBy f.wOp)
        ∧ Took e w' f.wOp (fun k => bit01 ((e.lanes.take m).contains k)) ∧ JambsKept e.w w' [] ∧ RestKept e.w w' ∧ PathAt e w' e.next
        ∧ t.queueState pa = (x.1 % 2 ^ 32, (x.2 + m) % 2 ^ 32)
        ∧ ∀ p, t.mem.read p =
            match (List.range m).reverse.find? (fun j => decide (pas j ≤ p) && decide (p < pas j + 2 ^ qEsz d)) with
            | some j => ((e.entryBytes f.yOp (qEsz d) (lanes.getD j 0))[p - pas j]?).getD 0
            | none =>
              if pa + 20 ≤ p ∧ p < pa + 28 then
                ((toBytes 8 (x.1 % 2 ^ 32 + (x.2 + m) % 2 ^ 32 * 2 ^ 32))[p - (pa + 20)]?).getD 0
              else r.mem.read p)
    ∧ (m < c → f.modN = 0 →
      ∃ t, exec (.qpush f) s = .next t ∧ OwnPath s e t (fun q => q.pc = e.p.pc ∧ q.cond = .blocked (.stall 6))))
  ∧ (∀ f s e port, Issuing (.qpush f) .none s e → f.xOp = .port port → e.s.portEntry e.w.id.ctx port = 0 →
    exec (.qpush f) s = .next (s.trapPath e.a (cause 10 0)
      (BitVec.ofNat 96 (port % 16 + (e.queueLanes f.yOp).length % 2 ^ 32 * 2 ^ 16)) e.next))

/-- R87, R89, R306, R307: QPOP of `m` entries, one for each of its lanes or with .NB as many as are held, moves HEAD on by m and owes the j-th
acting lane entry HEAD + j (in a vector register or group, or a scalar register or, of 16 bytes, a pair) and pd, true in the lanes that
popped; no byte of memory but HEAD and TAIL changes. A blocking QPOP of a queue that holds too few waits. (R89 allows the pushed value too for a word that a plain store has overwritten: that it is the stored one is log 76.) -/
def Sys2Proof.QueuePopSays : Prop :=
  ∀ f s e port pa d pas, Issuing (.qpop f) .none s e → f.yOp = .port port → QueueAt e port pa d →
    let lanes := e.queueLanes f.xOp
    let c := lanes.length
    let x := e.s.queueState pa
    let m := min c (held x.1 x.2)
    queueFits e.w f.xOp (qEsz d) = true → c ≤ 2 ^ qCap d → e.awaitsRemote = false →
    (m = c ∨ f.modN ≠ 0 → e.s.entriesWritten pa x.1 m = true → EntriesHeld e (e.s.touch pa) needRead d x.1 m pas →
      (∀ j, j < m → pas j + 2 ^ qEsz d ≤ pa + 20 ∨ pa + 28 ≤ pas j) →
      ∃ t w' ws, exec (.qpop f) s = .next t ∧ Owing s e t w' ∧ w'.preds = e.w.preds ∧ (ws ≠ [] → Owes e w' none ws)
        ∧ w'.spad = e.w.spad ∧ t.queueState pa = ((x.1 + m) % 2 ^ 32, x.2 % 2 ^ 32)
        ∧ (∀ p, p < pa + 20 ∨ pa + 28 ≤ p → t.mem.read p = s.mem.read p)
        ∧ (∀ n, f.xOp = .vreg n → ∀ i, i < 2 ^ (qEsz d - 2) → 0 < m → ∃ mask vals, .vreg (n + i) mask vals ∈ ws
            ∧ ∀ j k, j < m → lanes[j]? = some k → k < 1024 → mask.has k = true
              ∧ vals[k]? = some (BitVec.ofNat 32 (s.mem.readNat (pas j + 4 * i) 4)))
        ∧ (∀ n, f.xOp = .sreg n → 0 < m →
            if qEsz d ≤ 3 then .sreg n (BitVec.ofNat 64 (s.mem.readNat (pas 0) (2 ^ qEsz d))) ∈ ws
            else .sreg n (BitVec.ofNat 64 (s.mem.readNat (pas 0) 8)) ∈ ws
              ∧ .sreg (n + 1) (BitVec.ofNat 64 (s.mem.readNat (pas 0 + 8) 8)) ∈ ws)
        ∧ (∀ n, f.wOp = .pred n → ∃ mask b, .pred n mask b ∈ ws
            ∧ ∀ k ∈ e.lanes, k < 1024 → mask.has k = true ∧ b.has k = (e.lanes.take m).contains k))
    ∧ (m < c → f.modN = 0 →
      ∃ t, exec (.qpop f) s = .next t ∧ OwnPath s e t (fun q => q.pc = e.p.pc ∧ q.cond = .blocked (.qpop port c)))

/-- The instruction has gone on at next and changed no register of its weave; its path may count an operation. -/
def Sys2Proof.WentPast (s : State) (e : Env) (t : State) (w' : Weave) (written : List Nat) : Prop :=
  t.weave? e.a.core e.a.slot = some w' ∧ RegsKept e.w w' written ∧ JambsKept e.w w' written
    ∧ (∃ q', w'.path? e.a.path = some q' ∧ q'.pc = e.next ∧ q'.cond = .ready ∧ q'.mask = e.p.mask ∧ q'.stack = e.p.stack)
    ∧ (∀ i, i ≠ e.a.path → w'.path? i = e.w.path? i)
    ∧ (∀ c, c ≠ e.a.core → t.core c = s.core c) ∧ ∀ n, n ≠ e.a.slot → t.weave? e.a.core n = s.weave? e.a.core n

/-- A predicate destination after an engine form that answers `b` for every active lane (R140, R168). -/
def Sys2Proof.Answered (e : Env) (w' : Weave) (o : Operand) (b : Bool) : Prop :=
  ∀ n old k, o = .pred n → e.w.preds[n]? = some old → k < 1024 →
    ∃ new, w'.preds[n]? = some new ∧ new.has k = (if e.p.mask.has k then b else old.has k)

/-- The weave goes on and its core's channel `ch` has taken `o` after what it held; no byte of memory or scratchpad moves yet. -/
def Sys2Proof.CopyTaken (s : State) (e : Env) (t : State) (ch : Nat) (o : CopyOp) : Prop :=
  ∃ w', Owing s e t w' ∧ w'.preds = e.w.preds ∧ w'.spad = e.w.spad ∧ Owes e w' (some o.cls) []
    ∧ (t.core e.a.core).channel ch = (s.core e.a.core).channel ch ++ [o]
    ∧ (∀ n, n ≠ ch → (t.core e.a.core).channel n = (s.core e.a.core).channel n) ∧ MemorySame s t

/-- The barrier of a copy (R175): none, or an aligned word in the scratchpad. -/
def Sys2Proof.CopyBarrier (e : Env) (b : Option Nat) : Prop :=
  if copyHasBar e.f then b = some (e.scalar e.f.wOp) ∧ e.scalar e.f.wOp % 16 = 0 ∧ e.scalar e.f.wOp + 16 ≤ e.w.spadBytes
  else b = none

/-- R92, R171, R172, R173, R315, R319, R320: a CPY that passes its checks, every global page of it translated, is taken into its channel
whole, at its first byte, of class F when its destination has a page of another module and C otherwise, and its path
goes on; a channel that holds 16 makes the path wait; a length that is no multiple of 4 traps in group 12, index 0. -/
def Sys2Proof.CopyAcceptanceSays : Prop :=
  ∀ f s e, Issuing (.cpy f) .copy s e →
    let gdst := copyDir f == 1 || copyDir f == 2
    let gsrc := copyDir f == 0 || copyDir f == 2
    let dst := if gdst then e.globalBase f.xOp else e.scalar f.xOp
    let src := if gsrc then e.globalBase f.yOp else e.scalar f.yOp
    let len := e.scalar f.zOp
    let swz := bits f.modN 5 4
    let ch := f.modN % 4
    dst % 4 = 0 → src % 4 = 0 →
    (len % 4 ≠ 0 → exec (.cpy f) s = .next (s.trapPath e.a (cause 12 0) (unitDetail 0 0 ch) e.next))
    ∧ (∀ bar tt, len % 4 = 0 → len ≤ 2 ^ 24 → (if gdst then src else dst) % 2 ^ originLog2 swz = 0 →
      (gsrc = false → outside e.w src 0 len (if gdst then swz else 0) = false) →
      (gdst = false → outside e.w dst 0 len swz = false) → CopyBarrier e bar → PlainSpad e.w →
      (((s.core e.a.core).channel ch).length < 16 → e.placeSides e.s gsrc gdst src dst len = .ok e.s tt →
        ∃ t o, exec (.cpy f) s = .next t ∧ CopyTaken s e t ch o ∧ o.op = e.serial ∧ o.weave = e.w.id ∧ o.slot = e.a.slot
          ∧ o.path = e.a.path ∧ o.cls = (if hasRemote tt.2 then .F else .C) ∧ o.dst = (if gdst then .global dst tt.2 else .spad dst)
          ∧ o.src = (if gsrc then .global src tt.1 else .spad src) ∧ o.len = len ∧ o.seg = 0 ∧ o.moved = 0 ∧ o.swz = swz
          ∧ o.barrier = bar ∧ o.isRows = false)
      ∧ (16 ≤ ((s.core e.a.core).channel ch).length →
        ∃ t, exec (.cpy f) s = .next t ∧ OwnPath s e t (fun q => q.pc = e.p.pc ∧ q.cond = .blocked (.stall 8))))

/-- R54, R174, R176, R319: GATHER and SCATTER through an array register, with good rows, are taken into their channel with one row for each
acting lane, a row that its bounds check masks (CHK 0) marked so, with their barrier and, with ST, their status words after it,
and their path is held until the rows are translated; a channel that holds 16 makes the path wait. -/
def Sys2Proof.GatherAndScatterAcceptanceSays : Prop :=
  let runs := fun (mk : Fields → Instr) (toSpad : Bool) =>
    ∀ f s e n bar, Issuing (mk f) .copy s e → f.yOp = .areg n →
      let a := e.areg n
      let size : Nat := 2 ^ aregEsz a
      let at_ := fun (k : Nat) => (aregBase a : Int) + (e.index f.zOp k + offset14 f) * (size : Int)
      let good := fun (k : Nat) => e.inRange a (offset14 f) size k
      let base := e.scalar f.xOp
      let swz := bits f.modN 5 4
      let ch := f.modN % 4
      let status := if bitAt f.modN 7 then bar.map (fun b => b + 16) else none
      2 ≤ aregEsz a → (aregChk a = 0 ∨ ∀ k ∈ e.lanes, good k = true) → TagOk e.w .i32 f.zOp → base % 2 ^ originLog2 swz = 0 →
      CopyBarrier e bar →
      (∀ st, status = some st → st % 4 = 0 ∧ ∀ k ∈ e.lanes, st + 4 * (k / 32) + 4 ≤ e.w.spadBytes) →
      (∀ k ∈ e.lanes, good k = true → 0 ≤ at_ k ∧ at_ k < (2 ^ 72 : Int)) →
      (∀ k ∈ e.lanes, toSpad = true ∨ good k = true → outside e.w base (k * size) size swz = false) → PlainSpad e.w →
      (((s.core e.a.core).channel ch).length < 16 →
        ∃ t w' q' o, exec (mk f) s = .next t ∧ t.weave? e.a.core e.a.slot = some w' ∧ RegsKept e.w w' [] ∧ w'.spad = e.w.spad
          ∧ w'.path? e.a.path = some q' ∧ q'.cond = .blocked (.batches e.serial e.next) ∧ q'.pc = e.p.pc
          ∧ (t.core e.a.core).channel ch = (s.core e.a.core).channel ch ++ [o] ∧ o.op = e.serial ∧ o.weave = e.w.id
          ∧ o.isRows = true ∧ o.toSpad = toSpad ∧ o.rowSize = size ∧ o.swz = swz ∧ o.rows = [] ∧ o.faults = []
          ∧ o.barrier = bar ∧ o.status = status
          ∧ (toSpad = true → o.dst = .spad base) ∧ (toSpad = false → o.src = .spad base)
          ∧ o.untranslated = e.lanes.map (fun k =>
              if good k then { lane := k, va := (at_ k).toNat, masked := false, places := [] }
              else { lane := k, va := 0, masked := true, places := [] })
          ∧ MemorySame s t)
      ∧ (16 ≤ ((s.core e.a.core).channel ch).length →
        ∃ t, exec (mk f) s = .next t ∧ OwnPath s e t (fun q => q.pc = e.p.pc ∧ q.cond = .blocked (.stall 8)))
  runs .gather true ∧ runs .scatter false

/-- The uniform record of `n` bytes that an instruction names (R318, R327) is at `at_` and holds `v`: in its scratchpad, or at a
global address whose bytes class L reads so. -/
def Sys2Proof.RecordAt (e : Env) (n at_ v : Nat) : Prop :=
  at_ % n = 0 ∧
    ((e.f.zN = 0 ∧ e.index e.f.yOp e.lowLane + offset14 e.f = (at_ : Int) ∧ at_ + n ≤ e.w.spadBytes ∧ PlainSpad e.w
        ∧ v = e.w.spad.readNat at_ n)
      ∨ (e.f.zN ≠ 0 ∧ e.blockAddr = (at_ : Int) ∧ at_ < 2 ^ 64
        ∧ ∃ u, e.readRangeNat e.s false at_ n = .ok u v ∧ u.weave? e.a.core e.a.slot = some e.w))

/-- R143, R317, R318: TSRLD of a good record owes the shape register its 64 bytes; of a record that breaks R317 it traps
with SHAPE_BAD (11, 2). -/
def Sys2Proof.ShapeLoadsSays : Prop :=
  ∀ f s e n off v, Issuing (.tsrld f) .copy s e → f.xOp = .shape n → RecordAt e 64 off v →
    let sh := BitVec.ofNat 512 v
    (shapeBad sh = false →
      ∃ t w', exec (.tsrld f) s = .next t ∧ Owing s e t w' ∧ w'.preds = e.w.preds ∧ w'.spad = e.w.spad
        ∧ Owes e w' (some .L) [.shape n sh] ∧ MemorySame s t)
    ∧ (shapeBad sh = true → exec (.tsrld f) s = .next (s.trapPath e.a (cause 11 2) (unitDetail off 0 0) e.next))

/-! ### The matrix engine (R140 to R155, R322 to R328) -/

/-- No command of the weave is turned away (R142, R155): no task of it has failed, and it holds every resource of a mask. -/
def Sys2Proof.MayCommand (s : State) (e : Env) (mask : Nat) : Prop :=
  e.w.matrixAbort = false ∧ ∀ i ∈ maskBits mask, ((s.core e.a.core).matrixOwner i).holder = some e.w.id

/-- No release is outstanding on the core. -/
def Sys2Proof.NoReleases (s : State) (c : Nat) : Prop := ∀ m ∈ (s.core c).matrix, ∀ mask, m.work ≠ .release mask

/-- The operation is accepted at the end of the core's matrix operations; nothing else of the engine, and no byte of memory or scratchpad,
changes yet, but the tag of the tile that it is to write, if it names one. -/
def Sys2Proof.Accepted (s : State) (e : Env) (t : State) (work : MatrixWork) (tag : Option (Nat × Tag)) : Prop :=
  ∃ w', Owing s e t w' ∧ w'.preds = e.w.preds ∧ w'.spad = e.w.spad ∧ Owes e w' (some .M) []
    ∧ (t.core e.a.core).matrix = (s.core e.a.core).matrix ++ [{
        weave := e.w.id, slot := e.a.slot, path := e.a.path, op := e.serial, pc := e.p.pc, work }]
    ∧ (t.core e.a.core).operands = (s.core e.a.core).operands ∧ (t.core e.a.core).perms = (s.core e.a.core).perms
    ∧ (∀ n, (t.core e.a.core).tile n = (match tag with
        | some (m, x) => if n = m then { (s.core e.a.core).tile n with tag := x } else (s.core e.a.core).tile n
        | none => (s.core e.a.core).tile n))
    ∧ MemorySame s t

/-- R140, R141, R142, R322: MCLAIM takes every resource of its mask or none, answers which in its predicate, and gives a resource that another weave held last empty; MREL of
held resources, with no matrix operation on the core, gives them up at once, and of one not held traps with
SLOT_NOT_HELD (11, 0); a mask beyond 48 bits traps in group 11, index 1. -/
def Sys2Proof.MatrixClaimsSays : Prop :=
  (∀ f s e, Issuing (.mclaim f) .matrix s e → e.w.matrixAbort = false →
    let m := e.scalar f.yOp
    let owner := fun (u : State) (i : Nat) => (u.core e.a.core).matrixOwner i
    (2 ^ 48 ≤ m → exec (.mclaim f) s = .next (s.trapPath e.a (cause 11 1) 0 e.next))
    ∧ (m < 2 ^ 48 → (∀ i ∈ maskBits m, (owner s i).holder = none ∨ (owner s i).holder = some e.w.id) →
      ∃ t w', exec (.mclaim f) s = .next t ∧ WentPast s e t w' (writtenBy f.xOp) ∧ Answered e w' f.xOp true
        ∧ (∀ i ∈ maskBits m, (owner t i).holder = some e.w.id) ∧ (∀ i, i < 48 → i ∉ maskBits m → owner t i = owner s i)
        ∧ (∀ n, n < 8 → 32 + n ∈ maskBits m → (owner s (32 + n)).holder = none → (owner s (32 + n)).last ≠ some e.w.id →
            ((t.core e.a.core).tile n).rows = [] ∧ ((t.core e.a.core).tile n).tag = .untyped)
        ∧ MemorySame s t)
    ∧ (m < 2 ^ 48 → (∃ i ∈ maskBits m, ∃ id, (owner s i).holder = some id ∧ id ≠ e.w.id) →
      ∃ t w', exec (.mclaim f) s = .next t ∧ WentPast s e t w' (writtenBy f.xOp) ∧ Answered e w' f.xOp false
        ∧ (∀ i, owner t i = owner s i) ∧ MemorySame s t))
  ∧ (∀ f s e, Issuing (.mrel f) .matrix s e → e.w.matrixAbort = false → e.scalar f.yOp < 2 ^ 48 →
    let m := e.scalar f.yOp
    let owner := fun (u : State) (i : Nat) => (u.core e.a.core).matrixOwner i
    ((∀ i ∈ maskBits m, (owner s i).holder = some e.w.id) → (s.core e.a.core).matrix = [] →
      ∃ t w', exec (.mrel f) s = .next t ∧ Owing s e t w' ∧ w'.preds = e.w.preds ∧ Owes e w' (some .M) []
        ∧ (∀ i ∈ maskBits m, (owner t i).holder = none ∧ (owner t i).last = (owner s i).last)
        ∧ (∀ i, i < 48 → i ∉ maskBits m → owner t i = owner s i) ∧ MemorySame s t)
    ∧ (∀ i, i < 32 → i ∈ maskBits m → (owner s i).holder ≠ some e.w.id → (∀ j ∈ maskBits m, i ≤ j) →
      exec (.mrel f) s = .next (s.trapPath e.a (cause 11 0) (unitDetail 0 i 0) e.next)))

/-- What a transfer through a shape register needs before it is accepted: its scratchpad bytes in the window from an aligned origin, or
its global pages all translated, at `pages`. -/
def Sys2Proof.TransferReady (e : Env) (sh : BitVec 512) (spans scales : List (Nat × Nat)) (need : Need) (pages : Table Place) : Prop :=
  (shSpad sh = true ∧ shBase sh % 2 ^ originLog2 (shSwz sh) = 0 ∧ outsideWindow e.w.spadBytes sh spans scales = none
      ∧ PlainSpad e.w ∧ pages = [])
    ∨ (shSpad sh = false ∧ e.s.placePages e.a.core e.w.id.ctx (touchedRanges sh spans scales) need = .ok e.s pages)

/-- R132, R144, R145, R153, R323, R325, R328: MLOAD, ACCLD, ACCST and ACCZ on resources that the weave holds, with a record and coordinates that fit and their places reached, are
accepted, and ACCLD and ACCZ tag their tile then; a record that does not pair traps with SHAPE_BAD (11, 2). -/
def Sys2Proof.MatrixTransfersSays : Prop :=
  (∀ f s e pages, Issuing (.mload f) .matrix s e →
    let perm := f.modN == 1
    let n := f.xN % (if perm then 8 else 32)
    let row0 := signed 64 (e.scalar f.zOp)
    let k0 := signed 64 (e.scalar f.wOp)
    MayCommand s e (2 ^ (if perm then 40 + n else n)) → NoReleases s e.a.core →
    (loadPairs perm e.shapeOf row0 k0 = true →
      TransferReady e e.shapeOf (loadSpans e.shapeOf perm row0 k0) (scaleSpans e.shapeOf row0 k0) needRead pages →
      ∃ t, exec (.mload f) s = .next t ∧ Accepted s e t (.load n perm e.shapeOf row0 k0 pages []) none)
    ∧ (loadPairs perm e.shapeOf row0 k0 = false →
      exec (.mload f) s = .next (s.trapPath e.a (cause 11 2) (unitDetail 0 n 0) e.next)))
  ∧ (∀ f s e pages, Issuing (.accld f) .matrix s e → MayCommand s e (2 ^ (32 + f.xN % 8)) → NoReleases s e.a.core →
    (accPairs e.shapeOf (e.scalar f.zOp) (e.scalar f.wOp) = true →
      TransferReady e e.shapeOf (accSpans e.shapeOf (e.scalar f.zOp) (e.scalar f.wOp)) [] needRead pages →
      ∃ t, exec (.accld f) s = .next t
        ∧ Accepted s e t (.accLoad (f.xN % 8) e.shapeOf (e.scalar f.zOp) (e.scalar f.wOp) pages [])
            (some (f.xN % 8, Tag.ofCode (shFmt e.shapeOf))))
    ∧ (accPairs e.shapeOf (e.scalar f.zOp) (e.scalar f.wOp) = false →
      exec (.accld f) s = .next (s.trapPath e.a (cause 11 2) (unitDetail 0 0 (f.xN % 8)) e.next)))
  ∧ (∀ f s e pages, Issuing (.accst f) .matrix s e → MayCommand s e (2 ^ (32 + f.xN % 8)) → NoReleases s e.a.core →
    let tag := ((s.core e.a.core).tile (f.xN % 8)).tag
    (accPairs e.shapeOf (e.scalar f.zOp) (e.scalar f.wOp) = true → tag = .untyped ∨ tag = Tag.ofCode (shFmt e.shapeOf) →
      TransferReady e e.shapeOf (accSpans e.shapeOf (e.scalar f.zOp) (e.scalar f.wOp)) [] needWrite pages →
      ∃ t, exec (.accst f) s = .next t
        ∧ Accepted s e t (.accStore (f.xN % 8) e.shapeOf (e.scalar f.zOp) (e.scalar f.wOp) pages 0) none)
    ∧ (accPairs e.shapeOf (e.scalar f.zOp) (e.scalar f.wOp) = false →
      exec (.accst f) s = .next (s.trapPath e.a (cause 11 2) (unitDetail 0 0 (f.xN % 8)) e.next)))
  ∧ (∀ f s e, Issuing (.accz f) .matrix s e → MayCommand s e (2 ^ (32 + f.xN % 8)) → NoReleases s e.a.core →
    ∃ t, exec (.accz f) s = .next t ∧ Accepted s e t (.accZero (f.xN % 8) (f.modN == 1))
      (some (f.xN % 8, if f.modN = 1 then .i32 else .f32)))

/-- The tile task that MMA or MMAS commands (R147, R324). -/
def Sys2Proof.commandedTask (f : Fields) (scaled : Bool) : TileTask :=
  { tile := f.xN % 8, aslot := f.yN % 32, bslot := f.zN % 32, n := f.immN % 4 + 1
    perm := if bitAt f.immN 5 then some (bits f.immN 4 2) else none
    ftz := f.ftz, af := mmaAf f, bf := mmaBf f, scaled, first := 0, count := 64 * (f.immN % 4 + 1), record := none }

/-- A tile task as the engine holds it: with the tag that its acceptance has replaced. -/
def Sys2Proof.TaskHeld (s : State) (e : Env) (t : TileTask) : TileTask :=
  { t with before := some ((s.core e.a.core).tile t.tile).tag }

/-- R142, R147, R150, R155, R324, R325, R327: MMA and MMAS on slots and a tile that the weave holds, and MTASK of a record, are accepted while fewer than 16 tasks
are, and tag their tile then, F32 or I32 by their formats; slots that run past 31 trap with TILE_BAD (11, 3); after a failed task (R155) each traps with MATRIX_ABORTED (11, 5). -/
def Sys2Proof.TileTasksSays : Prop :=
  let runs := fun (mk : Fields → Instr) (scaled : Bool) =>
    ∀ f s e, Issuing (mk f) .matrix s e →
      let t := commandedTask f scaled
      (e.w.matrixAbort = true → exec (mk f) s = .next (s.trapPath e.a (cause 11 5) 0 e.next))
      ∧ (e.w.matrixAbort = false → 31 < t.aslot + t.n - 1 →
        exec (mk f) s = .next (s.trapPath e.a (cause 11 3) (unitDetail 0 0 t.tile) e.next))
      ∧ (t.aslot + t.n - 1 ≤ 31 → t.bslot + t.n - 1 ≤ 31 → (t.perm ≠ none → t.n = 1) → MayCommand s e t.names →
        NoReleases s e.a.core → (s.core e.a.core).taskCount < 16 →
        ∃ u, exec (mk f) s = .next u ∧ Accepted s e u (.task (TaskHeld s e t)) (some (t.tile, t.accTag)))
  runs .mma false ∧ runs .mmas true
  ∧ (∀ f s e off v, Issuing (.mtask f) .matrix s e → RecordAt e 32 off v →
    (e.w.matrixAbort = true → exec (.mtask f) s = .next (s.trapPath e.a (cause 11 5) 0 e.next))
    ∧ (e.w.matrixAbort = false → NoReleases s e.a.core → (s.core e.a.core).taskCount < 16 →
      let t := TileTask.ofRecord (BitVec.ofNat 256 v)
      let takes := t.recordBad = false ∧ ((s.core e.a.core).tile t.tile).owner.holder = some e.w.id
      (takes → ∃ u, exec (.mtask f) s = .next u ∧ Accepted s e u (.task (TaskHeld s e t)) (some (t.tile, t.accTag)))
      ∧ (¬ takes → ∃ u, exec (.mtask f) s = .next u ∧ Accepted s e u (.task t) none)))

/-- R266: QPERM through a permutation slot that the weave holds, with no matrix operation on it outstanding, gives acting lane k below 512 the source's lane at entry k, and zero where
the weave has no such lane; lanes from 512 on keep their values, and a destination vz takes none. A slot not held traps with
SLOT_NOT_HELD (11, 0); an operation of the weave on the slot makes it wait. -/
def Sys2Proof.LanePermutationSays : Prop :=
  ∀ f s e, Issuing (.qperm f) .none s e →
    let n := f.zN % 8
    let slot := (s.core e.a.core).perm n
    (slot.owner.holder ≠ some e.w.id →
      exec (.qperm f) s = .next (s.trapPath e.a (cause 11 0) (unitDetail 0 n 0) e.next))
    ∧ (slot.owner.holder = some e.w.id → (∃ m ∈ (s.core e.a.core).matrix, m.weave = e.w.id ∧ bitAt m.work.names (40 + n) = true) →
      ∃ t, exec (.qperm f) s = .next t ∧ OwnPath s e t (fun q => q.pc = e.p.pc ∧ q.cond = .blocked (.stall 8)))
    ∧ (slot.owner.holder = some e.w.id →
      (∀ m ∈ (s.core e.a.core).matrix, m.weave = e.w.id → bitAt m.work.names (40 + n) = false) →
      ∃ t w', exec (.qperm f) s = .next t ∧ RegisterRun s e t w' (writtenBy f.xOp)
        ∧ ∀ d k old, f.xOp = .vreg d → k < e.w.laneCount → laneAt? e.w d k = some old → laneAt? w' d k = some (
            if e.acting.has k ∧ k < 512 then
              (let from_ := (slot.entries[k]?).getD 0
               if from_ < e.w.laneCount then BitVec.ofNat 32 (e.read 32 f.yOp from_) else 0)
            else old))

/-! ### The shutter array (R157 to R170) -/

/-- The weave holds the array, and no race runs in it. -/
def Sys2Proof.HoldsArray (s : State) (e : Env) : Prop :=
  (s.shutter e.a.core).owner.holder = some e.w.id ∧ (s.shutter e.a.core).state ≠ .racing

/-- No other path of the weave waits at a shutter form that it issued earlier (R162). -/
def Sys2Proof.InTurn (e : Env) : Prop :=
  ∀ i q, i ≠ e.a.path → e.w.path? i = some q → q.waitsShutter = true → e.serial ≤ q.waitSince

/-- R158, R161, R162, R163, R164, R165, R166, R168: in its turn, SHWIN takes a free array, zeroed when another weave held it last, with its window of time, and answers so in its
predicate, gives an array it already holds its new window, or answers false when another holds it; SHLOAD and SHINJ take their words and times from the scratchpad, SHINJ.V its times from a vector; SHRESET makes the array ready,
and with FREE gives it up. SHLOAD, SHINJ, SHINJ.V, SHLAUNCH, SHCAP and SHRESET of a weave that does not hold the array trap in group 13, index 1. -/
def Sys2Proof.ShutterSetupSays : Prop :=
  (∀ f s e, Issuing (.shwin f) .shutter s e → InTurn e →
    let h := s.shutter e.a.core
    let tw := e.scalar f.yOp
    (tw = 0 ∨ 255 ≤ tw → exec (.shwin f) s = .next (s.trapPath e.a (cause 13 2) 0 e.next))
    ∧ (1 ≤ tw → tw ≤ 254 → h.owner.holder = none →
      ∃ t w', exec (.shwin f) s = .next t ∧ WentPast s e t w' (writtenBy f.xOp) ∧ Answered e w' f.xOp true ∧ MemorySame s t
        ∧ (t.shutter e.a.core).owner.holder = some e.w.id ∧ (t.shutter e.a.core).tw = tw
        ∧ (h.owner.last ≠ some e.w.id → (t.shutter e.a.core).state = .ready
            ∧ (t.shutter e.a.core).words = Shutter.reset.words ∧ (t.shutter e.a.core).west = Shutter.reset.west
            ∧ (t.shutter e.a.core).north = Shutter.reset.north)
        ∧ (h.owner.last = some e.w.id → (t.shutter e.a.core).state = h.kept ∧ (t.shutter e.a.core).words = h.words))
    ∧ (1 ≤ tw → tw ≤ 254 → HoldsArray s e →
      ∃ t w', exec (.shwin f) s = .next t ∧ WentPast s e t w' (writtenBy f.xOp) ∧ Answered e w' f.xOp true
        ∧ t.shutter e.a.core = { h with tw } ∧ MemorySame s t)
    ∧ (∀ id, 1 ≤ tw → tw ≤ 254 → h.owner.holder = some id → id ≠ e.w.id →
      ∃ t w', exec (.shwin f) s = .next t ∧ WentPast s e t w' (writtenBy f.xOp) ∧ Answered e w' f.xOp false
        ∧ t.shutter e.a.core = h ∧ MemorySame s t))
  ∧ (∀ f s e, Issuing (.shload f) .shutter s e → InTurn e → HoldsArray s e → PlainSpad e.w → e.w.spadStores = [] →
    e.shutterOffset % 64 = 0 → e.shutterOffset + 8192 ≤ e.w.spadBytes →
    ∃ t w' h, exec (.shload f) s = .next t ∧ WentPast s e t w' [] ∧ MemorySame s t ∧ w'.spad = e.w.spad
      ∧ t.shutter e.a.core = { s.shutter e.a.core with words := h }
      ∧ ∀ i, i < 4096 → h[i]? = some (BitVec.ofNat 16 (e.w.spad.readNat (e.shutterOffset + 2 * i) 2)))
  ∧ (∀ f s e, Issuing (.shinj f) .shutter s e → InTurn e → HoldsArray s e → PlainSpad e.w → e.w.spadStores = [] →
    e.shutterOffset % 64 = 0 → e.shutterOffset + 128 ≤ e.w.spadBytes →
    ∃ t w', exec (.shinj f) s = .next t ∧ WentPast s e t w' [] ∧ MemorySame s t ∧ w'.spad = e.w.spad
      ∧ t.shutter e.a.core = { s.shutter e.a.core with
          west := (List.range 64).map (fun i => (e.w.spad.read (e.shutterOffset + i)).toNat)
          north := (List.range 64).map (fun i => (e.w.spad.read (e.shutterOffset + 64 + i)).toNat) })
  ∧ (∀ f s e, Issuing (.shinjV f) .shutter s e → InTurn e → HoldsArray s e →
    let time := fun (first i : Nat) =>
      if e.acting.has (first + i / 4) then bits (e.read 32 f.yOp (first + i / 4)) (8 * (i % 4) + 7) (8 * (i % 4)) else 255
    ∃ t w', exec (.shinjV f) s = .next t ∧ WentPast s e t w' [] ∧ MemorySame s t
      ∧ t.shutter e.a.core = { s.shutter e.a.core with
          west := (List.range 64).map (time 0), north := (List.range 64).map (time 16) })
  ∧ (∀ f s e, Issuing (.shreset f) .shutter s e → InTurn e →
    (HoldsArray s e →
      ∃ t w', exec (.shreset f) s = .next t ∧ WentPast s e t w' [] ∧ MemorySame s t
        ∧ (f.modN ≠ 1 → t.shutter e.a.core = { s.shutter e.a.core with state := .ready, times := [] })
        ∧ (f.modN = 1 → (t.shutter e.a.core).owner.holder = none ∧ (t.shutter e.a.core).state = .free)))
  ∧ (∀ mk ∈ [Instr.shload, .shinj, .shinjV, .shlaunch, .shcap, .shreset], ∀ f s e, Issuing (mk f) .shutter s e → InTurn e →
    (s.shutter e.a.core).owner.holder ≠ some e.w.id → exec (mk f) s = .next (s.trapPath e.a (cause 13 1) 0 e.next))

/-- R157, R159, R160: `T` solves the array's equations: the inputs of cell (i, j) from the west, the north and the north-west, each with its
delay by `sat` and taken where its bit of the delay word enables it; the cell's time is the least of them, with AND the
greatest, and 255 when there is none. -/
def Sys2Proof.RaceTimes (h : Shutter) (T : Nat → Nat → Nat) : Prop :=
  let west := fun (i : Nat) => (h.west[i]?).getD 255
  let north := fun (j : Nat) => (h.north[j]?).getD 255
  let sat := fun (t d : Nat) => if t = 255 ∨ 254 < t + d then 255 else t + d
  ∀ i j, i < 64 → j < 64 →
    let word := ((h.words[64 * i + j]?).getD 0).toNat
    let inW := if 0 < j then T i (j - 1) else west i
    let inN := if h.chain = true ∨ i = 0 then north j else T (i - 1) j
    let inNW := if 0 < i ∧ 0 < j then T (i - 1) (j - 1)
      else if 0 < j then north (j - 1) else if 0 < i then west (i - 1) else 255
    let inputs := (if bitAt word 13 then [sat inW (bits word 3 0)] else [])
      ++ (if bitAt word 14 then [sat inN (bits word 7 4)] else [])
      ++ (if bitAt word 15 ∧ h.chain = false then [sat inNW (bits word 11 8)] else [])
    (inputs = [] → T i j = 255)
      ∧ (inputs ≠ [] → T i j ∈ inputs ∧ ∀ t ∈ inputs, if bitAt word 12 then t ≤ T i j else T i j ≤ t)

/-- R160, R161, R166, R167: SHLAUNCH of a ready array starts a race, counted until SHUTTER_RACE_END, which gives the times that solve R160's equations, each above the window as 255; SHCAP reads captured times: of a row, a
column, a diagonal, or the rank of a cell in its row; before a race every captured time is 255. -/
def Sys2Proof.ShutterRaceSays : Prop :=
  (∀ f s e, Issuing (.shlaunch f) .shutter s e → InTurn e → (s.shutter e.a.core).owner.holder = some e.w.id →
    ((s.shutter e.a.core).state = .ready →
      ∃ t w', exec (.shlaunch f) s = .next t ∧ Owing s e t w' ∧ w'.preds = e.w.preds ∧ Owes e w' (some .S) [] ∧ MemorySame s t
        ∧ t.shutter e.a.core = { s.shutter e.a.core with state := .racing, chain := f.modN == 1, raceOp := e.serial })
    ∧ ((s.shutter e.a.core).state ≠ .ready →
      exec (.shlaunch f) s = .next (s.trapPath e.a (cause 13 0) 0 e.next)))
  ∧ (∀ s c, (s.core c).frozen = false → (s.shutter c).state = .racing →
    ∃ t, exec (.shutterRaceEnd c) s = .next t ∧ (t.shutter c).state = .risen ∧ (t.shutter c).times = (s.shutter c).race
      ∧ (t.shutter c).words = (s.shutter c).words ∧ ∀ p, t.mem.read p = s.mem.read p)
  ∧ (∀ h : Shutter, (∃ T, RaceTimes h T) ∧ ∀ T, RaceTimes h T → ∀ i j, i < 64 → j < 64 →
    ((h.race[i]?).getD [])[j]? = some (if T i j ≤ h.tw then T i j else 255))
  ∧ (∀ f s e, Issuing (.shcap f) .shutter s e → InTurn e → HoldsArray s e →
    let h := s.shutter e.a.core
    let n := e.scalar f.yOp
    let x := fun (k : Nat) => e.scalar f.zOp + k
    n ≤ (if f.modN % 4 = 2 then 126 else 63) → e.scalar f.zOp ≤ 63 →
    ∃ t w' val, exec (.shcap f) s = .next t ∧ RegisterRun s e t w' (writtenBy f.xOp) ∧ Tagged e w' f.xOp .i32
      ∧ Took e w' f.xOp val
      ∧ ∀ k, val k = if 63 < x k then 255
          else if f.modN % 4 = 0 then h.captured n (x k)
          else if f.modN % 4 = 1 then h.captured (x k) n
          else if f.modN % 4 = 2 then (if x k ≤ n ∧ n - x k ≤ 63 then h.captured (x k) (n - x k) else 255)
          else ((List.range 64).filter (fun j =>
            h.captured n j < h.captured n (x k) || (j < x k && h.captured n j == h.captured n (x k)))).length)
  ∧ (∀ (h : Shutter) i j, h.state ≠ .risen → h.captured i j = 255)

/-! ### The KV array (R180 to R185, R329 to R333) -/

/-- The weave's KV descriptor `d`, at the 64-byte aligned address in Y, read to the state `u` (R180, R329). -/
def Sys2Proof.KvAt (e : Env) (d : Nat) (u : State) : Prop :=
  e.scalar e.f.yOp % 64 = 0 ∧ e.readRangeNat e.s false (e.scalar e.f.yOp) 64 = .ok u d ∧ kvDescBad d = false

/-- The lanes of a KV read have been given their words, status and predicate: the registers owe them. -/
def Sys2Proof.KvOwes (e : Env) (ws : List PendingWrite) (rs : List KvResult) : Prop :=
  let owed := fun (o : Operand) (val : KvResult → Nat) =>
    ∀ n, o = .vreg n → ∃ mask vals, .vreg n mask vals ∈ ws
      ∧ ∀ r ∈ rs, r.lane < 1024 → r.lane < e.w.laneCount → mask.has r.lane = true ∧ vals[r.lane]? = some (BitVec.ofNat 32 (val r))
  owed e.f.xOp (fun r => r.value) ∧ owed e.f.wOp (fun r => r.status)
    ∧ (bits e.f.immN 13 10 ≠ 15 → ∃ mask b, .pred (bits e.f.immN 13 10) mask b ∈ ws
        ∧ ∀ r ∈ rs, r.lane < 1024 → mask.has r.lane = true ∧ b.has r.lane = r.ok)

/-- R181, R182, R184, R330, R333: KVLD, and VQSCORE, whose lanes' map entries are all read (`ls`) and whose results are `rs`, owe d the values, st the statuses and pd whether
each lane has data; with WAIT, KVLD's path waits instead while an entry is NOT_RESIDENT or IN_FLIGHT; a lane whose entry is not VALID gets MISS and the miss value; a descriptor with a reserved bit set traps with KV_DESC_BAD (14, 0). -/
def Sys2Proof.KvReadsSays : Prop :=
  let ran := fun (s : State) (e : Env) (r : Host.Outcome State Fault Refusal) (u : State) (rs : List KvResult) =>
    ∃ t w' q' ws, r = .next t ∧ t.weave? e.a.core e.a.slot = some w' ∧ w'.vregs = e.w.vregs ∧ w'.preds = e.w.preds
      ∧ w'.path? e.a.path = some q' ∧ q'.pc = e.next ∧ q'.cond = .ready ∧ (∀ p, t.mem.read p = u.mem.read p)
      ∧ (∀ c, c ≠ e.a.core → ∀ n, t.weave? c n = s.weave? c n) ∧ (ws ≠ [] → Owes e w' (some .L) ws) ∧ KvOwes e ws rs
  let away := fun (ls : List KvLane) => ls.filter (fun l => entryState l.entry == 1 || entryState l.entry == 2)
  (∀ f s e d u ls u1, Issuing (.kvld f) .kv s e → KvAt e d u →
    e.kvLanes u (e.scalar f.yOp) d (bitAt f.modN 1) = .ok u1 (ls, []) → u1.weave? e.a.core e.a.slot = some e.w →
    (∀ rs u2, bitAt f.modN 1 = false ∨ away ls = [] → e.kvData u1 0 (e.kvCodes d) ls = .ok u2 (rs, []) →
      u2.weave? e.a.core e.a.slot = some e.w → (∀ c, c ≠ e.a.core → ∀ n, u2.weave? c n = s.weave? c n) →
      (rs.map (fun r => r.lane)).Nodup → ran s e (exec (.kvld f) s) u2 rs)
    ∧ (bitAt f.modN 1 = true → away ls ≠ [] →
      ∃ t w' q', exec (.kvld f) s = .next t ∧ t.weave? e.a.core e.a.slot = some w' ∧ RegsKept e.w w' []
        ∧ w'.path? e.a.path = some q' ∧ q'.pc = e.p.pc ∧ q'.cond = .blocked (.kvld (sortNat ((away ls).map (fun l => l.va))))))
  ∧ (∀ f s e d u ls u1 rs u2, Issuing (.vqscore f) .kv s e → KvAt e d u → u.weave? e.a.core e.a.slot = some e.w → PlainSpad e.w →
    let base := aregBase (e.areg (bits f.immN 9 6))
    base % 4 = 0 → base + 1024 * kvGroups d ≤ e.w.spadBytes →
    e.kvLanes u (e.scalar f.yOp) d false = .ok u1 (ls, []) →
    e.kvData u1 0xFF800000 (e.vqRead base (kvGroups d)) ls = .ok u2 (rs, []) →
    u2.weave? e.a.core e.a.slot = some e.w → (∀ c, c ≠ e.a.core → ∀ n, u2.weave? c n = s.weave? c n) →
    (rs.map (fun r => r.lane)).Nodup → (∀ r ∈ rs, r.value < 2 ^ 32) → ran s e (exec (.vqscore f) s) u2 rs)
  ∧ (∀ (e : Env) u miss read (l : KvLane), entryValid l.entry = false →
    e.kvData u miss read [l] = .ok u ([{ lane := l.lane, value := miss, status := 1, ok := false }], []))
  ∧ (∀ f s e d u, Issuing (.kvld f) .kv s e → e.scalar f.yOp % 64 = 0 →
    e.readRangeNat e.s false (e.scalar f.yOp) 64 = .ok u d → kvDescBad d = true →
    exec (.kvld f) s = .next (s.trapPath e.a (cause 14 0) (unitDetail (e.scalar f.yOp) 0 0) e.next))

/-- R126, R183, R184, R331, R332: KVAPP to a page of this module that is neither sealed nor full, its registers numbers and its codebook with a finite entry, writes its codes at FILL and
then the trailer, at home, and answers in its predicate; with SEAL an append to a sealed or full page changes nothing and answers false, and without SEAL traps (14, 3). VQLUT of a codebook writes the sums of products of its vector's groups with the codebook's entries to the scratchpad, 4 bytes each, entry
by entry. -/
def Sys2Proof.KvWritesSays : Prop :=
  (∀ f s e d u v pa b r, Issuing (.kvapp f) .kv s e → e.awaitsRemote = false → KvAt e d u → e.kvSecond % 65536 = 0 →
    e.reach u e.kvSecond needBoth = .ok v (.phys pa) →
    let home := v.bringHome e.a.core (pa + trailerAt) 64
    let trl := home.readHomeNat (pa + trailerAt) 64
    let g := kvGroups d
    let ks := e.channels f.zOp (8 * g)
    let vs := e.channels f.wOp (8 * g)
    pageBad trl = false → pageGm1 trl + 1 = g → TagOk e.w .f32 f.zOp → TagOk e.w .f32 f.wOp →
    e.readRange home false (kvCbtab d + 4096 * pageBook trl) 4096 = .ok r b → r.weave? e.a.core e.a.slot = some e.w →
    (ks ++ vs).any FVal.isNan = false → (codebook b).any (fun row => row.all (fun x => (x.atScale 0).isSome)) = true →
    (∀ scale, pageSealed trl = false → pageFill trl < 128 → ue8m8 (pageScale trl) = some scale →
      let x := kvAppend (bitAt f.modN 0) g trl scale ks vs (codebook b)
      let after := (r.release e.a.core scopeMd).performAppend e.a.core pa g (pageFill trl) x
      ∃ t w' q', exec (.kvapp f) s = .next t ∧ t.weave? e.a.core e.a.slot = some w' ∧ RegsKept e.w w' (writtenBy f.xOp)
        ∧ Took e w' f.xOp (fun _ => bit01 x.ok) ∧ w'.path? e.a.path = some q' ∧ q'.pc = e.next ∧ q'.cond = .ready
        ∧ (∀ p, t.mem.read p = after.mem.read p)
        ∧ t.mem.readBytes (pa + trailerAt) 8 = toBytes 8 x.trailer
        ∧ (bitAt f.modN 0 = false → pageFill x.trailer = pageFill trl + 1
            ∧ ∃ kc vc, x.codes = some (kc, vc) ∧ kc.length = g ∧ vc.length = g))
    ∧ (pageSealed trl = true ∨ 128 ≤ pageFill trl →
      (bitAt f.modN 0 = true →
        ∃ t w' q', exec (.kvapp f) s = .next t ∧ t.weave? e.a.core e.a.slot = some w' ∧ RegsKept e.w w' (writtenBy f.xOp)
          ∧ Took e w' f.xOp (fun _ => 0) ∧ w'.path? e.a.path = some q' ∧ q'.pc = e.next ∧ q'.cond = .ready
          ∧ ∀ p, t.mem.read p = (r.release e.a.core scopeMd).mem.read p)
      ∧ (bitAt f.modN 0 = false →
        exec (.kvapp f) s = .next (s.trapPath e.a (cause 14 3) (unitDetail e.kvSecond 0 0) e.next))))
  ∧ (∀ f s e n u b, Issuing (.vqlut f) .kv s e → TagOk e.w .f32 f.yOp → f.xOp = .areg n →
    let g := bits f.immN 6 0 + 1
    let base := aregBase (e.areg n)
    let q := e.channels f.yOp (8 * g)
    e.scalar f.zOp % 4096 = 0 → base % 4 = 0 → base + 1024 * g ≤ e.w.spadBytes → PlainSpad e.w →
    e.readRange e.s false (e.scalar f.zOp) 4096 = .ok u b → u.weave? e.a.core e.a.slot = some e.w →
    ∃ t w' q', exec (.vqlut f) s = .next t ∧ t.weave? e.a.core e.a.slot = some w' ∧ RegsKept e.w w' []
      ∧ w'.path? e.a.path = some q' ∧ q'.pc = e.next ∧ q'.cond = .ready ∧ (∀ p, t.mem.read p = u.mem.read p)
      ∧ (∀ i c j, i < g → c < 256 → j < 4 → w'.spad.read (base + 4 * (256 * i + c) + j)
          = ((toBytes 4 (vqEntry ((q.drop (8 * i)).take 8) (((codebook b)[c]?).getD [])))[j]?).getD 0)
      ∧ ∀ o, o < base ∨ base + 1024 * g ≤ o → w'.spad.read o = e.w.spad.read o)

/-! ### Continuations, roles (R30, R186 to R189, R334 to R337) -/

/-- R30, R101, R189, R334, R336, R337: SPAWN, with its words held on this module and room in a queue it may push to, adds one to its own record's JOIN, gives the child its parent (its own JOIN, or the address in sC), its context and at most its priority, no links (NEXT and DONE 0), and pushes the child;
WAKE releases at .md and writes its word at home, where every watch on it is disarmed; ROLE sets the weave's role, and traps with ROLE_BAD (8, 2) beyond 3. -/
def Sys2Proof.SpawnWakeAndRoleSays : Prop :=
  (∀ f s e jpa pa u r, Issuing (.spawn f) .none s e →
    let q := e.scalar f.xOp
    let child := e.scalar f.yOp
    let join := e.w.id.record + 40
    let parent := if f.zOp = .vz then join else e.scalar f.zOp
    let home := ((e.s.release e.a.core scopeMd).bringHome e.a.core jpa 4).touch jpa
    let n := home.readHomeNat jpa 4
    let joined := e.stepMade (home.atomicAt e.a.core scopeMd jpa 4 (fun b => toBytes 4 (ofBytes b + 1))).1 0
    let entry := queueEntryPa e.s q (queueTail e.s q)
    child % 64 = 0 → mayPush e.s e.w.id.ctx q = true → e.reach e.s join needBoth = .ok e.s (.phys jpa) →
    e.reach e.s child needBoth = .ok e.s (.phys pa) → pa % 64 = 0 →
    (f.zOp ≠ .vz → e.scalar f.zOp % 4 = 0 ∧ ∃ p, e.reach e.s (e.scalar f.zOp) needBoth = .ok e.s p) →
    queueFill e.s q < queueCap e.s q → e.awaitsRemote = false → (∀ x ∈ e.p.fetched, x.1 ≠ stepKey 0) →
    e.readRangeNat joined false child 64 = .ok u r → u.weave? e.a.core e.a.slot = joined.weave? e.a.core e.a.slot →
    u.mem = joined.mem → u.blocks = e.s.blocks → n + 1 < 2 ^ 32 → jpa % 4 = 0 → child < 2 ^ 72 → e.w.id.ctx < 64 →
    (jpa + 4 ≤ entry ∨ entry + 16 ≤ jpa) → (jpa + 4 ≤ pa ∨ pa + 64 ≤ jpa) →
    (pa + 64 ≤ entry ∨ entry + 16 ≤ pa) →
    ∃ t w' q', exec (.spawn f) s = .next t ∧ t.weave? e.a.core e.a.slot = some w' ∧ RegsKept e.w w' []
      ∧ w'.path? e.a.path = some q' ∧ q'.pc = e.next ∧ q'.cond = .ready
      ∧ queueTail t q = (queueTail e.s q + 1) % 2 ^ 32
      ∧ t.readHomeNat entry 16 = child + e.w.id.ctx * 2 ^ 72
      ∧ t.readHomeNat jpa 4 = n + 1
      ∧ bytesSeen t e.a.core (pa + 18) 9 = toBytes 9 parent
      ∧ (let links := ofBytes (bytesSeen t e.a.core (pa + 49) 9)
         bits links 10 5 = e.w.id.ctx ∧ bits links 4 2 = min (recPrio r) e.w.prio ∧ bits links 65 16 = 0))
  ∧ (∀ f s e pa, Issuing (.wake f) .none s e → e.awaitsRemote = false → e.scalar f.yOp % 8 = 0 → pa % 8 = 0 →
    e.reach e.s (e.scalar f.yOp) needWrite = .ok e.s (.phys pa) →
    ∃ t w' q', exec (.wake f) s = .next t ∧ t.weave? e.a.core e.a.slot = some w' ∧ RegsKept e.w w' []
      ∧ w'.path? e.a.path = some q' ∧ q'.pc = e.next ∧ q'.cond = .ready
      ∧ t.mem.readBytes pa 8 = toBytes 8 (e.scalar f.zOp)
      ∧ (∀ p, p < pa ∨ pa + 8 ≤ p →
          t.mem.read p = ((e.s.release e.a.core scopeMd).bringHome e.a.core pa 8).mem.read p)
      ∧ ∀ x ∈ t.parks, x.armed = true → ¬ (pa < x.wakePa + 8 ∧ x.wakePa < pa + 8))
  ∧ (∀ f s e, Issuing (.role f) .none s e →
    (e.scalar f.yOp ≤ 3 →
      ∃ t w', exec (.role f) s = .next t ∧ WentOn s e t w' ∧ OnlyWeave s t e.a ∧ RestKept e.w { w' with role := e.w.role }
        ∧ w'.role = e.scalar f.yOp)
    ∧ (3 < e.scalar f.yOp →
      exec (.role f) s = .next (s.trapPath e.a (cause 8 2) (privDetail e.i (e.scalar f.yOp)) e.next)))

/-- R186, R187, R335: PARK by the weave's one live path, of a well-formed record whose wake word is held on this module: with the word other than EXPECT the weave goes on, pd false; with the word equal to it the watch is
armed and the weave is to be evicted, waiting at PARK. With another live path it traps in group 15, index 4. -/
def Sys2Proof.ParkSays : Prop :=
  ∀ f s e u r v b, Issuing (.park f) .none s e → e.scalar f.yOp % 64 = 0 →
    e.readRangeNat e.s false (e.scalar f.yOp) 64 = .ok u r → bits r 511 299 = 0 → parkNr r ≤ 16 → parkWreg r < e.w.scount →
    parkRanges r % 16 = 0 → parkWake r % 8 = 0 → e.readRange u false (parkRanges r) (16 * parkNr r) = .ok v b →
    let rs := (List.range (parkNr r)).map (fun i => ofBytes ((b.drop (16 * i)).take 16))
    rs.any rangeBad = false → parkP r ≤ rs.foldl (fun n x => n + rangeCount x) 0 →
    ((∃ i, i ≠ e.a.path ∧ (e.w.path? i).isSome = true) →
      exec (.park f) s = .next (s.trapPath e.a (cause 15 4) (unitDetail (e.scalar f.yOp) 0 0) e.next))
    ∧ (∀ x pa, (∀ i, i ≠ e.a.path → e.w.path? i = none) → e.reach v (parkWake r) needRead = .ok x (.phys pa) →
      x.weave? e.a.core e.a.slot = some e.w →
      (x.readHomeNat pa 8 ≠ parkExpect r →
        ∃ t w' q', exec (.park f) s = .next t ∧ t.weave? e.a.core e.a.slot = some w' ∧ RegsKept e.w w' (writtenBy f.xOp)
          ∧ Took e w' f.xOp (fun _ => 0) ∧ w'.path? e.a.path = some q' ∧ q'.pc = e.next ∧ q'.cond = .ready
          ∧ ∀ p, t.mem.read p = x.mem.read p)
      ∧ (x.readHomeNat pa 8 = parkExpect r →
        ∃ t w' q', exec (.park f) s = .next t ∧ t.weave? e.a.core e.a.slot = some w' ∧ RegsKept e.w w' [] ∧ w'.evicting = true
          ∧ w'.path? e.a.path = some q' ∧ q'.cond = .blocked (.park (e.scalar f.yOp) e.next)
          ∧ ∃ k ∈ t.parks, k.wakePa = pa ∧ k.armed = true ∧ k.ctx = e.w.id.ctx ∧ k.wreg = parkWreg r))

/-! ### Class 7: the privileged forms of a hinge core (R338 to R344, R405 to R411) -/

/-- R5, R339, R405, R406: CSRR owes its register the value of a present control register; CSRW goes on and writes the fields that software may write: all of TVEC, TRET, IVEC, TSAVE and SLICE, the enables of HSTATUS but not INSTOP, and
bits of ICAUSE and CMAP cleared by ones; an absent register traps with CSR_ABSENT (8, 4). -/
def Sys2Proof.ControlRegistersSays : Prop :=
  (∀ f s e n v, Issuing (.csrr f) .none s e → f.xOp = .sreg n → (s.core e.a.core).readCsr (bits f.immN 15 0) = some v →
    ∃ t w', exec (.csrr f) s = .next t ∧ Owing s e t w' ∧ w'.preds = e.w.preds ∧ Owes e w' none [.sreg n (BitVec.ofNat 64 v)]
      ∧ (t.core e.a.core).hinge = (s.core e.a.core).hinge ∧ MemorySame s t)
  ∧ (∀ f s e, Issuing (.csrw f) .none s e → ((s.core e.a.core).readCsr (bits f.immN 15 0)).isSome = true →
    let h := (s.core e.a.core).hinge
    let csr := bits f.immN 15 0
    let v := e.scalar f.yOp
    ∃ t w' h', exec (.csrw f) s = .next t ∧ WentPast s e t w' [] ∧ MemorySame s t ∧ (t.core e.a.core).hinge = h'
      ∧ (f.modN = 0 →
        (csr = 0 → h' = { h with hstatus := (h.hstatus &&& 4) ||| (BitVec.ofNat 64 v &&& 3) })
        ∧ (csr = 1 → h' = { h with tvec := BitVec.ofNat 64 v }) ∧ (csr = 2 → h' = { h with tret := BitVec.ofNat 64 v })
        ∧ (csr = 7 → h' = { h with ivec := BitVec.ofNat 64 v }) ∧ (csr = 12 → h' = { h with tsave := BitVec.ofNat 64 v })
        ∧ (csr = 0x32 → h' = { h with slice := BitVec.ofNat 64 v })
        ∧ (csr = 13 → h'.icause = h.icause &&& ~~~BitVec.ofNat 64 v)
        ∧ (0x20 ≤ csr → csr ≤ 0x27 → ∀ i, h'.cmap.getLsbD i
            = (h.cmap.getLsbD i && !(decide (64 * (csr - 0x20) ≤ i) && decide (i < 64 * (csr - 0x20) + 64)
                && bitAt v (i - 64 * (csr - 0x20))))))
      ∧ (f.modN = 1 → csr = 1 → h' = { h with tvec := h.tvec ||| BitVec.ofNat 64 v })
      ∧ (f.modN = 2 → csr = 1 → h' = { h with tvec := h.tvec &&& ~~~BitVec.ofNat 64 v })
      ∧ (3 ≤ csr → csr ≤ 6 → h' = h))
  ∧ (∀ f s e, Issuing (.csrr f) .none s e → (s.core e.a.core).readCsr (bits f.immN 15 0) = none →
    exec (.csrr f) s = .next (s.trapPath e.a (cause 8 4) (privDetail (.csrr f) (bits f.immN 15 0)) e.next))
  ∧ (∀ f s e, Issuing (.csrw f) .none s e → (s.core e.a.core).readCsr (bits f.immN 15 0) = none →
    exec (.csrw f) s = .next (s.trapPath e.a (cause 8 4) (privDetail (.csrw f) (bits f.immN 15 0)) e.next))

/-- R340, R397: each ERET ends the stop in service: INSTOP falls, the hinge core goes on at TRET, and the parked path it served is READY again where it stopped (REPLAY), READY after the
instruction (SKIP), gone with its lanes (KILL), or gone with its weave (END). Only a SKIP of a stop of the hinge core's own
goes on past TRET's instruction instead, as that is fetched then; what each does with such a stop is log 73. -/
def Obligations.ReturnsFromStop : Prop :=
  let runs := fun (mk : Fields → Instr) (after : Weave → Weave → Stop → Path → Parked → Prop) =>
    ∀ f s e, Issuing (mk f) .none s e →
      ∃ t w' q', exec (mk f) s = .next t ∧ t.weave? e.a.core e.a.slot = some w' ∧ RegsKept e.w w' []
        ∧ w'.path? e.a.path = some q' ∧ q'.cond = .ready
        ∧ (let tret := (s.core e.a.core).hinge.tret.setWidth 72
           if (s.core e.a.core).hinge.serving.map (fun x => x.slot) = some hingeSlot ∧ mk f = .eretSkip f then
             q'.pc = ((e.s.endService e.a.core 1).modifyPath e.a (fun q => q.goOn tret)).nextOf e.a
           else q'.pc = tret)
        ∧ (t.core e.a.core).hinge.serving = none
        ∧ ∀ x w1 q k, (s.core e.a.core).hinge.serving = some x → x.slot ≠ hingeSlot → s.weave? e.a.core x.slot = some w1 →
          w1.id = x.weave → w1.path? x.path = some q → q.cond = .parked k →
          bitAt (t.core e.a.core).hinge.hstatus.toNat 2 = false
            ∧ ∃ w2, t.weave? e.a.core x.slot = some w2 ∧ after w1 w2 x q k
  runs .eretReplay (fun w1 w2 x q _ => w2.matrixAbort = false ∧ RegsKept w1 w2 []
      ∧ (∀ i, i ≠ x.path → w2.path? i = w1.path? i)
      ∧ ∃ r, w2.path? x.path = some r ∧ r.cond = .ready ∧ r.pc = q.pc ∧ r.mask = q.mask ∧ r.stack = q.stack)
  ∧ runs .eretSkip (fun w1 w2 x q k => w2.matrixAbort = false ∧ RegsKept w1 w2 []
      ∧ (∀ i, i ≠ x.path → w2.path? i = w1.path? i)
      ∧ ∃ r, w2.path? x.path = some r ∧ r.cond = .ready ∧ r.pc = k.next ∧ r.mask = q.mask ∧ r.replayMask = none)
  ∧ runs .eretKill (fun w1 w2 x q _ => w2.matrixAbort = false ∧ RegsKept w1 w2 []
      ∧ (∀ i, i ≠ x.path → w2.path? i = w1.path? i)
      ∧ (q.stack = [] → q.replayMask = none → w2.path? x.path = none))
  ∧ runs .eretEnd (fun _ w2 _ _ _ => w2.ending = true ∧ ∀ i, w2.path? i = none)
  ∧ (∀ (s : State) a q v i g, s.path? a = some q → s.fetch a = .instr v i → i.fields = some g →
    s.nextOf a = BitVec.ofNat 72 (q.pc.toNat + g.size))

/-- The instruction has gone on and changed nothing in its weave; other state of the machine may have changed. -/
def Sys2Proof.OnlyPathMoved (e : Env) (t : State) : Prop :=
  ∃ w' q', t.weave? e.a.core e.a.slot = some w' ∧ RegsKept e.w w' [] ∧ JambsKept e.w w' []
    ∧ w'.path? e.a.path = some q' ∧ q'.pc = e.next ∧ q'.cond = .ready

/-- No translation that `hit` picks is left in any TLB of the module, nor code built from a page of its, and the others stay (R342, R356). -/
def Sys2Proof.Purged (s t : State) (hit : TlbEntry → Bool) : Prop :=
  (∀ c, (t.core c).tlb = (s.core c).tlb.filter (fun x => !hit x)
      ∧ (t.core c).walkAhead = (s.core c).walkAhead.filter (fun x => !hit x) ∧ t.quadTlb c = (s.quadTlb c).filter (fun x => !hit x))
    ∧ (∀ d, (t.die d).l3 = (s.die d).l3.filter (fun x => !hit x))
    ∧ t.translations = s.translations.filter (fun x => !x.spans.any (fun y => pageHit hit x.entry.ctx y.1 y.2))

/-- R341, R342, R356: TLBINV and ICINV: the .VA forms drop the translations or the fetched lines and translated code that meet their range of their context (ICINV's in whole
lines), the .CTX forms those of their context, and the .ALL forms every one; no other is dropped and no byte of memory changes. A count out of range,
of either .VA form, traps with INV_RANGE (8, 5). A context above 63 names no page: log 44. -/
def Obligations.Invalidations : Prop :=
  (∀ f s e, Issuing (.tlbinvVa f) .none s e →
    let va := e.scalar f.yOp
    let n := e.scalar f.zOp
    (va % 65536 = 0 → (n = 0 ∨ 2 ^ 24 < n) →
      exec (.tlbinvVa f) s = .next (s.trapPath e.a (cause 8 5) (privDetail (.tlbinvVa f) 0) e.next))
    ∧ (va % 65536 = 0 → 1 ≤ n → n ≤ 2 ^ 24 → ∃ t, exec (.tlbinvVa f) s = .next t ∧ OnlyPathMoved e t ∧ MemorySame s t
      ∧ Purged s t (fun x => x.ctx == e.scalar f.xOp && x.base < va + n * 65536 && va < x.base + x.size)))
  ∧ (∀ f s e, Issuing (.tlbinvCtx f) .none s e → ∃ t, exec (.tlbinvCtx f) s = .next t ∧ OnlyPathMoved e t ∧ MemorySame s t
    ∧ Purged s t (fun x => x.ctx == e.scalar f.xOp))
  ∧ (∀ f s e, Issuing (.tlbinvAll f) .none s e → ∃ t, exec (.tlbinvAll f) s = .next t ∧ OnlyPathMoved e t ∧ MemorySame s t
    ∧ Purged s t (fun _ => true))
  ∧ (∀ f s e, Issuing (.icinvVa f) .none s e →
    let va := e.scalar f.yOp
    let n := e.scalar f.zOp
    ((n = 0 ∨ 2 ^ 32 < n) → exec (.icinvVa f) s = .next (s.trapPath e.a (cause 8 5) (privDetail (.icinvVa f) 0) e.next))
    ∧ (1 ≤ n → n ≤ 2 ^ 32 → ∃ t, exec (.icinvVa f) s = .next t ∧ OnlyPathMoved e t ∧ MemorySame s t
      ∧ (∀ c, (t.core c).fetch = (s.core c).fetch.filter (fun x =>
          !(x.ctx == e.scalar f.xOp && x.line * 192 < va + n && va < x.line * 192 + 192)))
      ∧ t.translations = s.translations.filter (fun x =>
          !(x.entry.ctx == e.scalar f.xOp && x.entry.base < (va + n + 191) / 192 * 192
            && va / 192 * 192 < x.entry.base + x.entry.size))))
  ∧ (∀ f s e, Issuing (.icinvCtx f) .none s e → ∃ t, exec (.icinvCtx f) s = .next t ∧ OnlyPathMoved e t ∧ MemorySame s t
    ∧ (∀ c, (t.core c).fetch = (s.core c).fetch.filter (fun x => !(x.ctx == e.scalar f.xOp && x.line * 192 < 2 ^ 72)))
    ∧ t.translations = s.translations.filter (fun x =>
        !(x.entry.ctx == e.scalar f.xOp && 0 < x.entry.base + x.entry.size && x.entry.base < 2 ^ 72)))
  ∧ (∀ f s e, Issuing (.icinvAll f) .none s e → ∃ t, exec (.icinvAll f) s = .next t ∧ OnlyPathMoved e t ∧ MemorySame s t
    ∧ (∀ c, (t.core c).fetch = []) ∧ t.translations = [])

/-- R344, R409, R410, R411: DBGRD of a scalar register, a lane or the PC of a stopped path owes its value; DBGWR writes a scalar register of a stopped path, with the jamb TOP or, with .J, the interval in its pair of registers, and nothing else;
both trap in group 16, index 3 for a slot without a weave and for a path that runs; the value that DBGWR.J writes beside the jamb is log 45. HALT stops the hinge core unless something waits for it. -/
def Sys2Proof.DebugWindowSays : Prop :=
  let chosen := fun (e : Env) (sel cls item lane : Nat) =>
    bitAt sel 63 = false ∧ bits sel 62 48 = 0 ∧ selClass sel = cls ∧ selItem sel = item ∧ selLane sel = lane
      ∧ e.scalar e.f.yOp = sel
  let stopped := fun (s : State) (e : Env) (sel : Nat) (w : Weave) =>
    s.weave? e.a.core (selSlot sel) = some w ∧ (∃ q, w.path? (selPath sel) = some q ∧ q.cond.isStopped = true)
      ∧ ∀ o ∈ w.ops, o.writes = []
  (∀ f s e n sel item lane w, Issuing (.dbgrd f) .none s e → f.xOp = .sreg n → stopped s e sel w →
    let reads := fun (v : Nat) => ∃ t w', exec (.dbgrd f) s = .next t ∧ Owing s e t w' ∧ w'.preds = e.w.preds
      ∧ Owes e w' none [.sreg n (BitVec.ofNat 64 v)] ∧ t.weave? e.a.core (selSlot sel) = some w ∧ MemorySame s t
    (chosen e sel 0x01 item lane → item < w.scount → reads (w.sreg item).toNat)
    ∧ (chosen e sel 0x00 item lane → item < w.vregs.length → lane < w.laneCount → reads (w.vlane item lane).toNat)
    ∧ (∀ q, chosen e sel 0x08 0 lane → w.path? (selPath sel) = some q → reads (q.pc.toNat % 2 ^ 64)))
  ∧ (∀ f s e sel item lane w, Issuing (.dbgwr f) .none s e → stopped s e sel w → chosen e sel 0x01 item lane →
    item < w.scount → item < w.sregs.length → item < w.sjambs.length → (f.modN = 1 → e.debugJamb.1 ≤ e.debugJamb.2) →
    ∃ t w', exec (.dbgwr f) s = .next t ∧ OnlyPathMoved e t ∧ MemorySame s t ∧ t.weave? e.a.core (selSlot sel) = some w'
      ∧ w'.sregs[item]? = some (BitVec.ofNat 64 (e.scalar f.zOp)) ∧ RegsKept w w' [0x100 + item] ∧ w'.spad = w.spad
      ∧ w'.tableJamb (0x100 + item) = (if f.modN = 1 then Jamb.mk 64 e.debugJamb.1 e.debugJamb.2 else .top))
  ∧ (∀ mk ∈ [Instr.dbgrd, .dbgwr], ∀ f s e sel, Issuing (mk f) .none s e → e.scalar f.yOp = sel → bitAt sel 63 = false → bits sel 62 48 = 0 →
    (s.weave? e.a.core (selSlot sel) = none
      ∨ ∃ w, s.weave? e.a.core (selSlot sel) = some w ∧ ∀ q, w.path? (selPath sel) = some q → q.cond.isStopped = false) →
    exec (mk f) s = .next (s.trapPath e.a (cause 16 3) 0 e.next))
  ∧ (∀ f s e, Issuing (.halt f) .none s e →
    let k := s.core e.a.core
    ∃ t w', exec (.halt f) s = .next t ∧ WentPast s e t w' [] ∧ MemorySame s t
      ∧ (k.stops = [] → k.hinge.icause = 0 → (t.core e.a.core).hinge = { k.hinge with stopped := true })
      ∧ (k.stops ≠ [] ∨ k.hinge.icause ≠ 0 → (t.core e.a.core).hinge = k.hinge))

/-! ### Events of paths (R17, R34, R155, R203, R305, R308, R382, R412, R464) -/

/-- A path now PARKED with a cause and a detail, where its instruction stands. -/
def Sys2Proof.ParkedWith (t : State) (a : Actor) (c : Cause) (d : BitVec 96) : Prop :=
  ∃ q k, t.path? a = some q ∧ q.cond = .parked k ∧ k.cause = c ∧ k.detail = d

/-- R14, R17, R203: an operation that completes makes the writes it owed, is outstanding no more and leaves every counter that counted it; the arrivals at a SPLIT merge into the lowest of them, with the lanes of both, after
their RECONV, the SPLIT gone from its stack, and the other path's entry free. -/
def Sys2Proof.CompletionAndMergeSays : Prop :=
  (∀ s c slot op w o, (s.core c).frozen = false → s.weave? c slot = some w → w.ops.find? (fun o => o.id == op) = some o →
    (o.kind = .result ∨ o.kind = .store ∨ o.kind = .writeBack ∨ o.kind = .remote) → s.requested w op = false →
    ∃ t w', exec (.operationComplete c slot op) s = .next t ∧ t.weave? c slot = some w' ∧ t.mem = s.mem
      ∧ (∀ x ∈ w'.ops, x.id ≠ op) ∧ (∀ x ∈ w.ops, x.id ≠ op → x ∈ w'.ops)
      ∧ (∀ i q, w'.path? i = some q → op ∉ q.issued ∧ ∀ l ∈ q.counters, op ∉ l)
      ∧ (∀ n v, o.writes = [.sreg n v] → n < w.sregs.length → w'.sregs[n]? = some v ∧ RegsKept w w' [0x100 + n])
      ∧ (o.writes = [] → RegsKept w w' []))
  ∧ (∀ s c slot serial w a b qa qb rid next, s.weave? c slot = some w → w.arrivals serial = [a, b] → w.mayMerge serial = true →
    w.path? a = some qa → w.path? b = some qb → qa.cond = .arrived rid serial next →
    ∃ t w' q, exec (.pathMerge c slot serial) s = .next t ∧ t.weave? c slot = some w' ∧ t.mem = s.mem ∧ RegsKept w w' []
      ∧ w'.path? a = some q ∧ q.mask = qa.mask ||| qb.mask ∧ q.pc = next ∧ q.cond = .ready ∧ q.stack = qa.stack.drop 1
      ∧ w'.path? b = none ∧ ∀ i, i ≠ a → i ≠ b → w'.path? i = w.path? i)

/-- R34, R305, R382, R464: a path that has been READY for 128 cycles is promoted; SLEEP ends at its deadline, and the path goes on after it; 64 microseconds after a walk began to wait for a node, the event of its time comes, after which the walk gives up when it is next asked for;
a halt asked for is noted in a context whose debugging is enabled, and in no other. -/
def Sys2Proof.StarvationDeadlinesAndHaltsSays : Prop :=
  (∀ s c slot i q, s.path? (actorOf c slot i) = some q →
    ∃ t, exec (.issueStarvationPromote c slot i) s = .next t
      ∧ t.path? (actorOf c slot i) = some { q with promoted := q.promoted || (decide (q.cond = .ready) && decide (q.readySince + 128 ≤ s.tick)) })
  ∧ (∀ s c slot i q d n, s.path? (actorOf c slot i) = some q → q.cond = .blocked (.sleep d n) →
    ∃ t q', exec (.sleepDeadline c slot i) s = .next t ∧ d ≤ t.tick ∧ s.tick ≤ t.tick ∧ t.path? (actorOf c slot i) = some q' ∧ q'.cond = .ready ∧ q'.pc = n)
  ∧ (∀ s c slot i w q x, s.weave? c slot = some w → w.path? i = some q → q.cond = .blocked (.stall 3) →
    s.walks.find? (fun x => x.core == c && x.ctx == w.id.ctx) = some x →
    ∃ t, exec (.tableWalkBusyTimeout c slot i) s = .next t ∧ t.tick = max s.tick (x.since + 64 * 2100) ∧ { t with tick := s.tick } = s)
  ∧ (∀ (s : State) agent ctx va node x, s.walks.find? (fun x => x.isFor agent ctx va) = some x →
    (x.since + 64 * 2100 ≤ s.tick → (s.walkBusy agent ctx va node).2 = .fault (cause 1 2) node)
    ∧ (s.tick < x.since + 64 * 2100 → s.walkBusy agent ctx va node = (s, .busy)))
  ∧ (∀ s c slot i w q, s.weave? c slot = some w → w.path? i = some q →
    ∃ t, exec (.haltreq c slot i) s = .next t
      ∧ t.path? (actorOf c slot i) = some { q with haltRequest := q.haltRequest || s.debugEnabled w.id.ctx })

/-- R155, R308, R412: the oldest engine fault whose path has come to a boundary parks it there with the engine's cause; a spent slice parks a READY path with SLICE_EXPIRED (17, 0) and a new slice begins; a path that waits to pop from a port whose entry
is empty parks with PORT_UNBOUND (10, 0), and one whose entry is bound waits on. (Faults of groups 1, 2 and 20, which go to the fault ring, are not stated here; that a spent slice's
path goes on where it was is log 23.) -/
def Obligations.StopsRaisedByEvents : Prop :=
  (∀ s c slot w f i q, slot ≠ hingeSlot → s.weave? c slot = some w → w.matrixFaults.find? w.faultReady = some f → w.faultPath f = some i →
    w.path? i = some q → f.cause.group ≠ 1 → f.cause.group ≠ 2 → f.cause.group ≠ 20 →
    ∃ t w', exec (.matrixFaultDelivery c slot) s = .next t ∧ t.weave? c slot = some w' ∧ w'.matrixFaults = w.matrixFaults.erase f
      ∧ ParkedWith t (actorOf c slot i) f.cause f.detail ∧ RegsKept w w' [])
  ∧ (∀ s c slot w i q, slot ≠ hingeSlot → s.weave? c slot = some w → w.slicePending = true → w.livePaths = [i] → w.path? i = some q → q.cond = .ready →
    ∃ t w', exec (.sliceExpired c slot) s = .next t ∧ t.weave? c slot = some w' ∧ w'.slicePending = false
      ∧ w'.sliceLeft = (s.core c).hinge.slice.toNat ∧ ParkedWith t (actorOf c slot i) (cause 17 0) (BitVec.ofNat 96 (s.tick % 2 ^ 63))
      ∧ ∃ q', w'.path? i = some q' ∧ q'.pc = q.pc)
  ∧ (∀ s c k slot w i q port n, s.cores = [(c, k)] → k.slots = [(slot, w)] → slot ≠ hingeSlot → w.livePaths = [i] → w.path? i = some q →
    q.cond = .blocked (.qpop port n) → port < 16 → s.portEntry w.id.ctx port = 0 →
    ∃ t, exec (.queuePortUnbind w.id.ctx port) s = .next t
      ∧ ParkedWith t (actorOf c slot i) (cause 10 0) (BitVec.ofNat 96 (port + n % 2 ^ 32 * 2 ^ 16)))
  ∧ (∀ s ctx port, s.portEntry ctx port ≠ 0 → bits (s.portEntry ctx port) 127 72 = 0 → exec (.queuePortUnbind ctx port) s = .next s)

/-! ### Events of the engines and caches (R81, R98, R149, R150, R174, R175) -/

/-- R149, R150: the head task of an idle tile array starts once nothing before it in the queue keeps it: it takes the tile's cells and, where its acceptance has not, gives the tile its accumulator's tag, but where the sequencer finds itself inconsistent it is withdrawn, recorded and signalled (R458; when it does is open, log 38); a task bad at its start sets the matrix-abort bit and waits with its cause for its
path; a task whose steps all succeed leaves its cells in its tile and the array idle. (That the tags of its slots are checked as they stand at its start is log 57.) -/
def Sys2Proof.TileTaskEventsSays : Prop :=
  (∀ s c m x, (s.core c).frozen = false → (s.core c).running = none → (s.core c).matrix.find? (fun m => m.work.isTask) = some m → m.work = .task x →
    (s.core c).blocked m = false →
    ∃ t, exec (.tileTaskStart c) s = .next t
      ∧ ((s.core c).startFault s.present m.weave x = none →
        if Config.sequencerFails s.serial c then
          (t.core c).running = none ∧ t.vectors = (s.raiseVector 143).vectors ∧ t.securityMap.getLsbD (16 * 23 + 2) = true
        else (t.core c).running = some { mop := m, task := x, step := x.first, cells := ((s.core c).tile x.tile).rows } 
          ∧ ((t.core c).tile x.tile).tag = (if x.before.isSome then ((s.core c).tile x.tile).tag else x.accTag))
      ∧ (∀ cs d w, (s.core c).startFault s.present m.weave x = some (cs, d) → s.weave? c m.slot = some w →
        (t.core c).running = none ∧ ∃ w', t.weave? c m.slot = some w' ∧ w'.matrixAbort = true
          ∧ { path := w.ownerOf m.op m.path, cause := cs, detail := d } ∈ w'.matrixFaults))
  ∧ (∀ s c r cells, (s.core c).frozen = false → (s.core c).running = some r →
    (s.core c).taskSteps r.task (r.task.first + r.task.count - r.step) r.step r.cells = (cells, none) →
    ∃ t, exec (.tileTaskComplete c) s = .next t ∧ (t.core c).running = none ∧ ((t.core c).tile r.task.tile).rows = cells ∧ t.mem = s.mem)

/-- R174, R175, R177: the engine moves a sector of the transfer at the head of a channel from the scratchpad to memory, or from memory to the scratchpad, where a sector that fails its integrity check gives zeros and a fault for the path (R177), and the transfer leaves its channel after its last sector; a batch of rows that translate joins the rows to be
moved, and after the last batch the path goes on. (What is written of a sector that fails its check, and that its fault waits for the path, is log 61.) -/
def Sys2Proof.CopyEventsSays : Prop :=
  (∀ s c ch o rest w b va pages pa, (s.core c).frozen = false → (s.core c).channel ch = o :: rest → s.weave? c o.slot = some w →
    o.isRows = false → o.moved = 0 → o.swz = 0 → o.barrier = none → o.status = none → o.sent = false → w.windows.any winValid = false → 0 < o.len →
    (o.src = .spad b → o.dst = .global va pages → va % 32 + o.len ≤ 32 → w.spadStores = [] → Table.find? pages (va / 4096) = some (.phys pa) →
      ∃ t, exec (.copySectorPerformed c ch) s = .next t ∧ (t.core c).channel ch = rest
        ∧ t.mem.readBytes (pa + va % 4096) o.len = (List.range o.len).map (fun i => w.spad.read (b + i))
        ∧ ∀ p, (p < pa + va % 4096 ∨ pa + va % 4096 + o.len ≤ p) → t.mem.read p = s.mem.read p)
    ∧ (o.src = .global va pages → o.dst = .spad b → b % 32 + o.len ≤ 32 → va % 4096 + o.len ≤ 4096 → Table.find? pages (va / 4096) = some (.phys pa) →
      ∃ t w', exec (.copySectorPerformed c ch) s = .next t ∧ (t.core c).channel ch = rest ∧ t.weave? c o.slot = some w' ∧ t.mem = s.mem
        ∧ (∀ i, i < o.len → w'.spad.read (b + i) = if s.failsCheck (pa + va % 4096 + i) then 0 else s.mem.read (pa + va % 4096 + i))
        ∧ (∀ i, i < o.len → s.failsCheck (pa + va % 4096 + i) = true → ∃ x ∈ w'.matrixFaults, x.path = w.ownerOf o.op o.path ∧ x.cause = cause 20 3)
        ∧ ∀ p, (p < b ∨ b + o.len ≤ p) → w'.spad.read p = w.spad.read p))
  ∧ (∀ s c ch o r r' q next, (s.core c).frozen = false → (s.core c).channel ch = [o] → o.untranslated = [r] → o.faults = [] →
    s.path? (actorOf c o.slot o.path) = some q → q.cond = .blocked (.batches o.op next) → q.stepping ≠ 4 → s.placeRow c o r = (s, some (.ok r')) →
    ∃ t o' q', exec (.gatherBatchTranslate c ch) s = .next t ∧ (t.core c).channel ch = [o'] ∧ o'.untranslated = [] ∧ o'.rows = o.rows ++ [r']
      ∧ t.path? (actorOf c o.slot o.path) = some q' ∧ q'.pc = next ∧ q'.cond = .ready)

/-- R81, R98: hardware may write a DIRTY sector of a stash window back, which leaves it CLEAN with its written bytes at home, and a dirty line of an L1, which leaves the line clean with its dirty bytes at home. -/
def Sys2Proof.WriteBackEventsSays : Prop :=
  (∀ s c slot w n ix x r pa, (s.core c).frozen = false → s.weave? c slot = some w → w.sector? n ix = some x → x.written ≠ 0 →
    w.windows[x.window]? = some r → s.translate c w.id.ctx (winGlobal r + 32 * x.index) needWrite = (s, .phys pa) → pa % 32 = 0 →
    ∃ t w', exec (.stashWritebackAuto c slot n ix) s = .next t ∧ t.weave? c slot = some w' ∧ w'.spad = w.spad
      ∧ w'.sector? n ix = some { x with written := 0 }
      ∧ ∀ i, i < 32 → x.written.getLsbD i = true → t.mem.read (pa + i) = w.spad.read (winBase r + 32 * x.index + i))
  ∧ (∀ s c k, (s.core c).frozen = false →
    let l := getLine (s.core c).l1 k
    (∀ i, i < 128 → homeDie (k * 128 + i) = dieOf c → (getLine (s.die (dieOf c)).l2 k).dirty.getLsbD i = false) →
    ∃ t, exec (.cacheLineWriteBack c k) s = .next t ∧ (getLine (t.core c).l1 k).dirty = 0 ∧ (getLine (t.die (dieOf c)).l2 k).dirty = 0
      ∧ (∀ i, i < 128 → l.dirty.getLsbD i = true → t.mem.read (k * 128 + i) = l.byte i)
      ∧ ∀ p, p / 128 ≠ k → t.mem.read p = s.mem.read p)

/-! ### The dispatcher (R12, R19, R29 to R33, R428 to R432) -/

/-- R12, R29, R429, R430: while dispatch is stopped nothing is dispatched; a queue's head record that can be placed counts one more dispatched instance, and its weave stands in the slot chosen: one READY path at CODE with every lane, FRAME in s0 and s1,
the mode word 1, every other register zero, and the record's role. -/
def Sys2Proof.DispatchOfInstancesSays : Prop :=
  (∀ s, s.dispatchStopped = true → exec .dispatchInstance s = .next s)
  ∧ (∀ s u l q ctx va pa r irq ofRing x c slot, s.dispatchStopped = false → slot < 64 → q < 256 → ctx < 64 → 2 ≤ recSregs r →
    s.candidates s.enabledQueues = (u, l) → l.filter Candidate.fits = [{ queue := q, head := .record ctx va pa r irq ofRing, inst := x, place := some (c, slot) }] →
    u.readHomeNat pa 64 = r → recNext r + 1 < 2 ^ 25 → u.field (debugBlock ctx) 1 1 = 0 →
    ∃ (t : State) (w : Weave) (p : Path), exec .dispatchInstance s = .next t ∧ t.weave? c slot = some w
      ∧ w.id.ctx = ctx ∧ w.id.record = va ∧ w.id.inst = recNext r ∧ w.groups = recLanes r + 1 ∧ w.vcount = vregCount (recVregs r)
      ∧ w.scount = recSregs r ∧ w.acount = recAregs r ∧ w.role = recRole r ∧ w.mode = 1 ∧ w.spad = []
      ∧ (∀ (n : Nat) (l : List Word32), w.vregs[n]? = some l → ∀ b ∈ l, b = 0) ∧ (∀ (n : Nat) v, 2 ≤ n → w.sregs[n]? = some v → v = 0)
      ∧ w.sregs[0]? = some (BitVec.ofNat 64 (recFrame r)) ∧ w.sregs[1]? = some (BitVec.ofNat 64 (recFrame r / 2 ^ 64))
      ∧ w.livePaths = [0] ∧ w.path? 0 = some p ∧ p.pc = BitVec.ofNat 72 (recCode r) ∧ p.cond = .ready ∧ p.mask = LaneMask.first w.laneCount
      ∧ t.readHomeNat pa 64 = withBits r 432 408 (recNext r + 1))

/-- R33, R428, R430: an instance that waits for its die waits until its spill time is over; a level that has had a placeable record for STARVE microseconds is to be served once first; the host's write of TAIL in a host-fed queue pushes entries, or sets OVF when it
would go back or past the queue's capacity, and in another queue has no effect. -/
def Sys2Proof.DispatchTimersAndTailsSays : Prop :=
  (∀ s die x, s.spills.find? (fun x => x.die == die) = some x →
    let ns := s.field fabricBlock (32 * die + 159) (32 * die + 128)
    ∃ t, exec (.dispatchSpillExpiry die) s = .next t ∧ t.spills = s.spills
      ∧ t.tick = if ns = 2 ^ 32 - 1 then s.tick else max s.tick (x.since + spillCycles ns))
  ∧ (∀ s level since, Table.find? s.levelSince level = some since →
    ∃ t, exec (.starveExpiry level) s = .next t ∧ t.tick = max s.tick (since + s.field fabricBlock 31 16 * 2100) ∧ level ∈ t.starving)
  ∧ (∀ s q tail, q < 256 → tail < 2 ^ 32 →
    let fill := (tail + 2 ^ 32 - queueHead s q) % 2 ^ 32
    (queueHostFed s q = false → exec (.contQueueTailWrite q tail) s = .next s)
    ∧ (queueHostFed s q = true → ∃ t, exec (.contQueueTailWrite q tail) s = .next t ∧ queueHead t q = queueHead s q
      ∧ (queueFill s q ≤ fill → fill ≤ queueCap s q → queueTail t q = tail)
      ∧ (fill < queueFill s q ∨ queueCap s q < fill → queueTail t q = queueTail s q ∧ t.field (queueBlock q) 7 7 = 1)))

/-- R19, R31, R32: a weave that ends, once nothing of it is outstanding, leaves its slot and counts one more ended instance in its record; a retiring record without a PARENT retires, and one whose PARENT is held on this module takes one from it and retires. -/
def Obligations.EndAndRetirement : Prop :=
  (∀ s c slot w pa, slot ≠ hingeSlot → (s.core c).frozen = false → s.weave? c slot = some w → w.ending = true → w.ops = [] → w.hoops = [] → w.sectors = [] →
    w.matrixFaults = [] → w.writeBackToken = none → (∀ x ∈ (s.core c).channels, ∀ o ∈ x.2, o.weave ≠ w.id) → (∀ r ∈ s.requests, r.weave ≠ w.id) →
    (s.core c).l1 = [] → (s.die (dieOf c)).l2 = [] → s.recordPa w.id.ctx w.id.record = some pa → recDone (s.readHomeNat pa 64) + 1 < 2 ^ 25 →
    s.field (debugBlock w.id.ctx) 1 1 = 0 →
    ∃ t, exec (.weaveEnd c slot) s = .next t ∧ t.weave? c slot = none
      ∧ t.readHomeNat pa 64 = withBits (s.readHomeNat pa 64) 457 433 (recDone (s.readHomeNat pa 64) + 1))
  ∧ (∀ s ctx record l pa, s.live.find? (fun l => l.ctx == ctx && l.record == record) = some l → s.recordAt ctx record = (s, some pa) → l.retiring = true →
    l.token = 0 → l.sent = false →
    let parent := recParent (s.readHomeNat pa 64)
    let retired := fun (t : State) => ∀ x ∈ t.live, x.ctx ≠ ctx ∨ x.record ≠ record
    (parent = 0 → ∃ t, exec (.parentDecrement ctx record) s = .next t ∧ retired t ∧ t.mem = s.mem)
    ∧ (∀ q, parent ≠ 0 → parent % 4 = 0 → s.agentRead 0 ctx parent needBoth = (s, .phys q) → 0 < s.readHomeNat q 4 →
      ∃ t, exec (.parentDecrement ctx record) s = .next t ∧ retired t ∧ t.readHomeNat q 4 = s.readHomeNat q 4 - 1))

/-! ### The Transom (R60, R188, R391 to R394) -/

/-- A page is planned to move to a tier, and nothing else has been planned. -/
def Sys2Proof.PlannedTo (s t : State) (ctx va tier : Nat) : Prop :=
  ∃ p, t.planned = s.planned ++ [p] ∧ p.ctx = ctx ∧ p.va = va ∧ p.toTier = tier

/-- R188, R393: at a heat epoch's end every heat counter of the die halves and the next epoch begins; a page of an aging class, that no PIN keeps, not accessed for T1 in HBM, or for T2 in the CXL tier, is planned to move one tier down; the timers of a
parked continuation are reached in order, each once. What counts as an access of a page is the model's choice (log 48). -/
def Sys2Proof.HeatAndAgingSays : Prop :=
  (∀ s die, die < Config.dies → s.field (transomBlock die) 1 1 = 0 →
    ∃ t, exec (.heatEpoch die) s = .next t ∧ t.tick = max s.tick ((s.die die).epochAt + 2 ^ min 20 (s.field (transomBlock die) 15 8) * 2100)
      ∧ (t.die die).epochAt = t.tick
      ∧ (t.die die).heat = ((s.die die).heat.map (fun x => (x.1, { x.2 with count := x.2.count / 2 }))).filter (fun x => x.2.count != 0))
  ∧ (∀ s ctx va e pa l, va % 65536 = 0 → s.movable ctx va = some (e, pa, l) → l.age ≠ 0 → l.pin = false → l.migr = false → s.aging (leafDie l) = true →
    s.moving ctx va = false → s.entryPins ctx va = false →
    let ages := fun (i : Instr) (n : Nat) => l.tier + 1 = n → s.classTimer (leafDie l) l.age n ≠ never →
      (s.reachTick ((Table.find? s.touched l.frame).getD 0 + s.classTimer (leafDie l) l.age n * 2100)).entryPins ctx va = false →
      ∃ t, exec i s = .next t ∧ PlannedTo s t ctx va n
        ∧ t.tick = max s.tick ((Table.find? s.touched l.frame).getD 0 + s.classTimer (leafDie l) l.age n * 2100)
    ages (.ageT1Expiry ctx va) 1 ∧ ages (.ageT2Expiry ctx va) 2)
  ∧ (∀ s key k, s.parks.find? (fun k => k.saved == key) = some k → (s.saved.any (fun x => x.1 == key)) = true → k.woken = none → k.entries = [] →
    (∀ y ∈ s.parks, y.due = []) → k.t1 ≠ never →
    let reaches := fun (i : Instr) (n ticks : Nat) => k.aged + 1 = n →
      ∃ t, exec i s = .next t ∧ t.tick = max s.tick (k.since + ticks * 2100) ∧ t.planned = s.planned
        ∧ t.parks.find? (fun k => k.saved == key) = some { k with aged := n }
    reaches (.parkT1Expiry key) 1 k.t1 ∧ (k.t2 ≠ never → reaches (.parkT2Expiry key) 2 (k.t1 + k.t2)))

/-- R391, R394: a planned move begins: the leaf's MIGR is set, the destination is its context's frame, and the move is under way; when it is over the page's bytes stand in the destination, the leaf names it with MIGR clear, and the old frame is FREE. A wake
reverses a move down at once: the page and its leaf stay where they were, with MIGR clear, and the destination is FREE again (R191). The event names the frame: the model's choice (log 49). -/
def Sys2Proof.PageMovesSays : Prop :=
  (∀ s ctx va frame p e leafPa l, va % 65536 = 0 → s.planned.find? (fun p => p.ctx == ctx && p.va == va) = some p → s.nextPlanned p.die = some p →
    s.field (transomBlock p.die) 2 2 = 0 → (∀ m ∈ s.moves, m.die ≠ p.die ∧ ¬ (m.ctx = ctx ∧ m.va = va)) → s.movable ctx va = some (e, leafPa, l) →
    l.migr = false → (l.tier ≠ p.toTier ∨ p.stack ≠ none) → ¬ (p.toTier = 2 ∧ l.tier = 0) → (l.pin = false ∨ p.toTier ≤ l.tier) →
    s.fitDestination p frame = true →
    (let f := s.frame (frameKey l.tier l.frame); f.free = true ∨ f.shared = true ∨ f.owner = ctx) → (l.tier = 2 ∨ s.frameInUse l.frame = false) → (leafPa + 8 ≤ l.frame * 65536 ∨ l.frame * 65536 + 65536 ≤ leafPa) →
    ∃ t m, exec (.transomPageMove ctx va frame) s = .next t ∧ t.moves = s.moves ++ [m] ∧ m.ctx = ctx ∧ m.va = va ∧ m.toTier = p.toTier ∧ m.toFrame = frame
      ∧ m.oldLeaf = BitVec.ofNat 64 e ∧ m.leafPa = leafPa ∧ t.planned = s.planned.erase p
      ∧ t.readHomeNat leafPa 8 = withBits e 62 62 1 % 2 ^ 64
      ∧ t.frame (frameKey p.toTier frame) = { shared := false, free := false, owner := ctx })
  ∧ (∀ s ctx va m, va % 65536 = 0 → s.moves.find? (fun m => m.ctx == ctx && m.va == va) = some m →
    let e := m.oldLeaf.toNat
    let l := Leaf.of e false
    (s.moves.filter (fun m => m.ctx == ctx && m.va == va && m.toTier != 0 && !m.through) = [m] →
      let t := s.reverseDown ctx va
      t.moves = s.moves.erase m ∧ t.readHomeNat m.leafPa 8 = withBits e 62 62 0 ∧ t.frame (frameKey m.toTier m.toFrame) = Frame.reset
      ∧ ∀ p, (p < m.leafPa ∨ m.leafPa + 8 ≤ p) → t.mem.read p = s.mem.read p)
    ∧ (l.tier < 2 → m.toTier < 2 → m.through = false → s.maps = [] → s.mem.wf →
      (m.leafPa + 8 ≤ m.toFrame * 65536 ∨ m.toFrame * 65536 + 65536 ≤ m.leafPa) → m.toFrame < 2 ^ 36 →
      ∃ t, exec (.pageMoveComplete ctx va) s = .next t ∧ t.moves = s.moves.erase m
        ∧ (∀ i, i < 65536 → t.mem.read (m.toFrame * 65536 + i) = s.mem.read (l.frame * 65536 + i))
        ∧ t.readHomeNat m.leafPa 8 = withBits (withBits (withBits e 55 20 m.toFrame) 8 7 m.toTier) 62 62 0
        ∧ t.frame (frameKey l.tier l.frame) = Frame.reset))

/-! ### Fault service (R395 to R397, R404 to R408, R458) -/

/-- R396: a fault record that waited for room in its context's ring is written at the ring's tail once there is room, with the phase of its round, and the tail moves past it. -/
def Sys2Proof.DeferredFaultRecordsSays : Prop :=
  ∀ s ctx r, s.lateFaults.find? (fun r => r.ctx == ctx) = some r → s.faultRoom ctx = true →
    let b := translationBlock ctx
    let tail := s.field b 143 128
    let size := ringSize (s.field b 107 104) 4 12
    ∃ t, exec (.faultRecordDeferredWrite ctx) s = .next t ∧ t.lateFaults = s.lateFaults.erase r ∧ t.field b 143 128 = (tail + 1) % 2 ^ 16
      ∧ t.readHomeNat (s.field b 103 64 * 4096 + 64 * (tail % size)) 64 = r.encode + (1 - tail / size % 2) * 2 ^ 511

/-- A reply stands at the head of a context's reply ring: its token, and the parked path of a resident weave that it names. -/
structure Sys2Proof.ReplyWaits (s : State) (ctx disp c slot i : Nat) (w : Weave) (q : Path) (k : Parked) : Prop where
  context : ctx < 64
  waits : s.repliesWaiting ctx ≠ 0
  disposition : replyDisp (s.replyAt ctx (s.replyHead ctx)) = disp
  generation : bits (s.replyAt ctx (s.replyHead ctx)) 39 24 = s.ctxGen ctx
  noRecord : ∀ l ∈ s.live, l.ctx = ctx → l.token ≠ bits (s.replyAt ctx (s.replyHead ctx)) 23 8
  weave : s.tokenWeave ctx (bits (s.replyAt ctx (s.replyHead ctx)) 23 8) = some (c, slot) ∧ s.weave? c slot = some w
  path : w.tokenPath (bits (s.replyAt ctx (s.replyHead ctx)) 23 8) = some i ∧ w.path? i = some q ∧ q.cond = .parked k
  ownToken : w.writeBackToken ≠ some (bits (s.replyAt ctx (s.replyHead ctx)) 23 8)

/-- R340, R395, R397: the host's write of the reply ring's tail has its new entries read in order; a reply that names a parked path is consumed and has the path replay its instruction (RETRY), go on after it (SKIP), or leave with its lanes (KILL), ends its
weave (END), or sends its stop to the hinge core (RAISE); a reserved disposition sets RQERR, and a reply of another generation is dropped. (Set reserved bits count as a reserved disposition: the model's, log 31.) -/
def Sys2Proof.RepliesSays : Prop :=
  let consumed := fun (s t : State) (ctx : Nat) => t.replyHead ctx = (s.replyHead ctx + 1) % 2 ^ 16
  (∀ s ctx tail, ∃ t, exec (.replyRingTailWrite ctx tail) s = .next t ∧ t.replyTail ctx = tail % 2 ^ 16 ∧ t.cores = s.cores
    ∧ t.agenda = (List.range ((tail % 2 ^ 16 + 2 ^ 16 - s.replyHead ctx) % 2 ^ 16)).map
        (fun i => Move.event (replyEvent ctx (s.replyAt ctx (s.replyHead ctx + i)))) ++ s.agenda)
  ∧ (∀ s ctx c slot i w q k, ReplyWaits s ctx 0 c slot i w q k →
    ∃ t w' q', exec (.replyRetry ctx) s = .next t ∧ consumed s t ctx ∧ t.weave? c slot = some w' ∧ RegsKept w w' []
      ∧ w'.path? i = some q' ∧ q'.cond = .ready ∧ q'.pc = q.pc ∧ q'.mask = q.mask)
  ∧ (∀ s ctx c slot i w q k, ReplyWaits s ctx 1 c slot i w q k →
    ∃ t w' q', exec (.replySkip ctx) s = .next t ∧ consumed s t ctx ∧ t.weave? c slot = some w' ∧ RegsKept w w' [] ∧ w'.matrixAbort = false
      ∧ w'.path? i = some q' ∧ q'.cond = .ready ∧ q'.pc = k.next ∧ q'.mask = q.mask)
  ∧ (∀ s ctx c slot i w q k, ReplyWaits s ctx 2 c slot i w q k → q.stack = [] → q.replayMask = none →
    ∃ t w', exec (.replyKill ctx) s = .next t ∧ consumed s t ctx ∧ t.weave? c slot = some w' ∧ w'.path? i = none
      ∧ ∀ j, j ≠ i → w'.path? j = w.path? j)
  ∧ (∀ s ctx c slot i w q k, ReplyWaits s ctx 3 c slot i w q k →
    ∃ t w', exec (.replyEnd ctx) s = .next t ∧ consumed s t ctx ∧ t.weave? c slot = some w' ∧ w'.ending = true ∧ ∀ j, w'.path? j = none)
  ∧ (∀ s ctx c slot i w q k, ReplyWaits s ctx 4 c slot i w q k → (s.core c).stops.length < 64 → (s.core c).lateStops = [] →
    ∃ t x, exec (.replyRaise ctx) s = .next t ∧ consumed s t ctx ∧ (t.core c).stops = (s.core c).stops ++ [x]
      ∧ x.slot = slot ∧ x.path = i ∧ x.weave = w.id ∧ x.cause = k.cause ∧ x.detail = k.detail ∧ x.pc = q.pc)
  ∧ (∀ s ctx, s.repliesWaiting ctx ≠ 0 → 5 ≤ replyDisp (s.replyAt ctx (s.replyHead ctx)) →
    ∃ t, exec (.replyReserved ctx) s = .next t ∧ consumed s t ctx ∧ t.cores = s.cores ∧ t.field (translationBlock ctx) 145 145 = 1)
  ∧ (∀ s ctx, s.repliesWaiting ctx ≠ 0 → replyDisp (s.replyAt ctx (s.replyHead ctx)) = 0 → bits (s.replyAt ctx (s.replyHead ctx)) 39 24 ≠ s.ctxGen ctx →
    ∃ t, exec (.replyRetry ctx) s = .next t ∧ consumed s t ctx ∧ t.cores = s.cores)

/-- R404, R406, R407: a stop that waited enters the stop queue once it has room. A hinge core that takes stops and serves none takes the oldest: TSTOP, TLANES, TPC, TPCH, TDET and TTOKEN describe it, TRET holds the hinge core's place, INSTOP is set, and it goes on at
TVEC, or for a sparse feature that is bound at its routine (R362). A stop of the hinge core's own has its slot, 64, in WSLOT modulo 64 (log 73). With no stop to take, a pending interrupt not yet taken (the model's, log 26) sends it to IVEC with TRET its place. -/
def Sys2Proof.TakingStopsSays : Prop :=
  (∀ s c x rest, (s.core c).frozen = false → (s.core c).lateStops = x :: rest → (s.core c).stops.length < 64 →
    ∃ t, exec (.stopEnqueueDeferred c) s = .next t ∧ (t.core c).stops = (s.core c).stops ++ [x] ∧ (t.core c).lateStops = rest)
  ∧ (∀ s c x rest w p, (s.core c).takesStop = true → (s.core c).stops = x :: rest → s.weave? c hingeSlot = some w → w.path? 0 = some p →
    let h := (s.core c).hinge
    ∃ t p', exec (.takeStop c) s = .next t ∧ (t.core c).stops = rest ∧ t.path? (hingeActor c) = some p' ∧ p'.cond = .ready
      ∧ (x.cause ≠ cause 7 2 → p'.pc = h.tvec.setWidth 72)
      ∧ (∀ b, x.cause = cause 7 2 → bits x.detail.toNat 8 0 ≠ 0 → Table.find? s.binding (bits x.detail.toNat 8 0) = some b →
        p'.pc = if b.getLsbD 72 then b.setWidth 72 else h.tvec.setWidth 72)
      ∧ (t.core c).hinge.inStop = true ∧ (t.core c).hinge.serving = some x ∧ (t.core c).hinge.tret = p.pc.setWidth 64
      ∧ bits (t.core c).hinge.tstop.toNat 8 0 = causeCode x.cause % 512 ∧ bits (t.core c).hinge.tstop.toNat 14 9 = x.slot % 64
      ∧ bits (t.core c).hinge.tstop.toNat 17 15 = x.path % 8 ∧ (t.core c).hinge.tlanes = x.lanes.setWidth 64
      ∧ (t.core c).hinge.tpc = x.pc.setWidth 64 ∧ (t.core c).hinge.tpch = (x.pc >>> 64).setWidth 64 ∧ (t.core c).hinge.tdet = x.detail
      ∧ (t.core c).hinge.ttoken = BitVec.ofNat 64 x.token)
  ∧ (∀ s c w p, (s.core c).takesInterrupt = true → s.weave? c hingeSlot = some w → w.path? 0 = some p →
    ∃ t p', exec (.takeInterrupt c) s = .next t ∧ t.path? (hingeActor c) = some p' ∧ p'.cond = .ready ∧ p'.pc = (s.core c).hinge.ivec.setWidth 72
      ∧ (t.core c).hinge.tret = p.pc.setWidth 64 ∧ (t.core c).hinge.hstatus = (s.core c).hinge.hstatus ∧ (t.core c).stops = (s.core c).stops)

/-- R396, R408, R458: a fresh token is 1 to 65535 and none that awaits a reply; HFWD gives the stop in service a fresh token on its path and a record in the fault ring of its context, and serves no stop any more; a hinge core that fails starts again at its reset values with its sticky bitmap kept,
the stop it served the oldest of its queue again, and stops of its own gone (log 27). -/
def Sys2Proof.ForwardingAndHingeFaultsSays : Prop :=
  (∀ s : State, s.outstandingTokens.length < 65535 →
    1 ≤ s.freshToken.1 ∧ s.freshToken.1 ≤ 65535 ∧ s.freshToken.1 ∉ s.outstandingTokens ∧ s.freshToken.2 = { s with tokens := s.freshToken.1 })
  ∧ (∀ s c x w q k, (s.core c).hinge.serving = some x → x.slot ≠ hingeSlot → s.weave? c x.slot = some w → w.id = x.weave → w.path? x.path = some q → q.cond = .parked k →
    ∃ t q' k', exec (.hfwd c) s = .next t ∧ (t.core c).hinge.serving = none ∧ (t.core c).hinge.inStop = false ∧ t.tokens = s.freshToken.1
      ∧ t.path? (actorOf c x.slot x.path) = some q' ∧ q'.cond = .parked k' ∧ k'.token = s.freshToken.1 ∧ k'.cause = k.cause
      ∧ ∃ r : FaultRecord, r.token = s.freshToken.1 ∧ r.cause = x.cause ∧ r.ctx = x.weave.ctx ∧ r.va = bits x.detail.toNat 71 0
        ∧ (s.faultRoom x.weave.ctx = false → t.lateFaults = s.lateFaults ++ [r])
        ∧ (s.faultRoom x.weave.ctx = true → (∀ y ∈ s.lateFaults, y.ctx ≠ x.weave.ctx) → x.weave.ctx < 64 →
          let b := translationBlock x.weave.ctx
          let tail := s.field b 143 128
          let size := ringSize (s.field b 107 104) 4 12
          t.field b 143 128 = (tail + 1) % 2 ^ 16
            ∧ t.readHomeNat (s.field b 103 64 * 4096 + 64 * (tail % size)) 64 = r.encode + (1 - tail / size % 2) * 2 ^ 511))
  ∧ (∀ s c, ∃ t, exec (.hingeFault c) s = .next t
      ∧ (t.core c).hinge = { Hinge.reset with cmap := (s.core c).hinge.cmap }
      ∧ t.weave? c hingeSlot = some (Weave.hinge.modifyPath 0 (fun q => { q with lastIssue := s.serial }))
      ∧ (t.core c).stops = ((s.core c).hinge.serving.toList ++ (s.core c).stops).filter (fun x => x.slot != hingeSlot))

/-! ### Eviction, return and the Latch (R303, R413 to R425) -/

/-- R413: an eviction request answers in EVICT: 5 for a frozen core, 2 for a slot without a weave, 3 for a weave whose stop is in service, 2 for one that is ending, 4 when its save does not fit the pool, and else 1 for a weave whose one path waits at BAR, which
is then being evicted. The order of these outcomes is the model's choice (log 33). -/
def Sys2Proof.EvictionRequestsSays : Prop :=
  ∀ s c slot, slot < hingeSlot →
    let answers := fun (n : Nat) (evicts : Bool) => ∃ t, exec (.evictRequest c slot) s = .next t ∧ (t.core c).hinge.evict = BitVec.ofNat 64 n
      ∧ t.weave? c slot = (s.weave? c slot).map (fun w => { w with evicting := w.evicting || evicts })
    ((s.core c).frozen = true → answers 5 false)
    ∧ ((s.core c).frozen = false → s.weave? c slot = none → answers 2 false)
    ∧ (∀ w, (s.core c).frozen = false → s.weave? c slot = some w →
      ((s.core c).inService slot w.id = true → answers 3 false)
      ∧ ((s.core c).inService slot w.id = false → w.ending = true → answers 2 false)
      ∧ (∀ i q n, (s.core c).inService slot w.id = false → w.ending = false → w.writeBackToken = none → w.parking = none →
        w.livePaths = [i] → w.path? i = some q → q.cond = .blocked (.bar n) →
        (s.poolPlace w.id.ctx (saveSize (s.core c) w) = none → answers 4 false)
        ∧ (s.poolPlace w.id.ctx (saveSize (s.core c) w) ≠ none → answers 1 true)))

/-- R414, R417: an eviction whose weave has nothing outstanding and no wait that is over saves the weave at the lowest free place of its pool (the place is the model's choice, log 19), frees its slot and clears EVICT, where the last request was this weave's (R413). -/
def Sys2Proof.EvictionCompletesSays : Prop :=
  ∀ s c slot w pool, s.weave? c slot = some w → w.evicting = true → (s.core c).frozen = false → w.writeBackToken = none → w.parking = none → w.ops = [] →
    w.sectors = [] → (∀ r ∈ s.requests, r.weave ≠ w.id) → (∀ x ∈ (s.core c).channels, ∀ o ∈ x.2, o.weave ≠ w.id) →
    (s.core c).shutter.owner.holder ≠ some w.id → (s.core c).running = none → s.pathsAllow w = true → s.anyMet w 0 [] = false → (s.core c).l1 = [] → (s.die (dieOf c)).l2 = [] →
    (s.core c).hinge.evictFor = some w.id → s.poolPlace w.id.ctx (saveSize (s.core c) w) = some pool →
    ∃ t key x, exec (.evictionComplete c slot) s = .next t ∧ t.weave? c slot = none ∧ Table.find? t.saved key = some x ∧ x.weave = w ∧ x.pool = pool
      ∧ x.size = saveSize (s.core c) w ∧ x.returned = false ∧ (t.core c).hinge.evict = 0

/-- A saved weave put back, once, at the tail of its queue. -/
def Sys2Proof.PutBack (s t : State) (key : Nat) (x : Saved) : Prop :=
  t.returned = s.returned ++ [{ queue := s.recordQueue x.weave.id.ctx x.weave.id.record
                                position := queueTail s (s.recordQueue x.weave.id.ctx x.weave.id.record), item := .saved key }]
    ∧ Table.find? t.saved key = some { x with returned := true }

/-- R303, R415, R416: a saved weave goes back to its queue when the reply that its parked path waits for is held, at its driver's EVICT_RETURN, and at a RETALL of its context while a path waits at ABWAIT or BAR; where pick() chooses it (R430) it is placed and
resident again as it was saved; a reply for a weave that is away is held for it. -/
def Sys2Proof.ReturnsOfWeavesSays : Prop :=
  (∀ s key x i q k disp, List.find? (fun (x : Nat × Saved) => x.1 == key) s.saved = some (key, x) → x.returned = false → x.weave.livePaths = [i] → x.weave.path? i = some q →
    q.cond = .parked k → k.token ≠ 0 → s.repliesDue x.weave.id = false →
    (HeldReply.fault k.token disp ∈ x.held → ∃ t, exec (.weaveWakeReturn key) s = .next t ∧ PutBack s t key x)
    ∧ (x.held = [] → exec (.weaveWakeReturn key) s = .next s))
  ∧ (∀ s c key x, s.savedAt (s.core c).hinge.tsave.toNat = some (key, x) → List.find? (fun (x : Nat × Saved) => x.1 == key) s.saved = some (key, x) → x.returned = false →
    ∃ t, exec (.evictReturn c) s = .next t ∧ (t.core c).hinge.evict = 0 ∧ PutBack s t key x)
  ∧ (∀ s ctx key x, s.saved = [(key, x)] → x.returned = false →
    ((∃ i q, x.weave.path? i = some q ∧ q.waitsInside = true) → x.weave.id.ctx = ctx → ∃ t, exec (.retall ctx) s = .next t ∧ PutBack s t key x)
    ∧ (x.weave.id.ctx ≠ ctx → exec (.retall ctx) s = .next s))
  ∧ (∀ s u level p key x c slot, s.choose = (u, some (level, p)) → p.head = .saved key x → p.place = some (c, slot) →
    x.held = [] → (∀ k ∈ u.parks, k.saved ≠ key) →
    (∃ t, exec (.weaveReturn key) s = .next t ∧ t.weave? c slot = some { x.weave with evicting := false, parking := none } ∧ Table.find? t.saved key = none)
    ∧ ∀ other, other ≠ key → exec (.weaveReturn other) s = .next s)
  ∧ (∀ s r reply n x, s.requests.find? (fun y => y.id == r.id) = some r → s.saved = [(n, x)] → x.weave.id = r.weave → (s.core r.core).frozen = false →
    s.weave? r.core r.slot = none →
    ∃ t, exec (.remoteReplyHeld r.id reply) s = .next t ∧ t.saved = [(n, { x with held := x.held ++ [.remote r reply] })]
      ∧ t.requests = s.requests.filter (fun y => y.id != r.id))

/-- R420 to R423: FREEZE takes everything of its core but the hinge core into the channel's scan, 9,264 cycles long; scan-out may fail; with replies outstanding the core is CATCHING, the replies that come are caught, and after GRACE microseconds CATCH_SLOW is
recorded; with none outstanding the image is sealed where FREEZE asked, and the core is in service, empty. The scan data in the image's bytes are free values (log 11); that STOPPING passes within the step, so that the state is SCANNING after FREEZE, is log 50. -/
def Sys2Proof.FreezeAndSealSays : Prop :=
  (∀ s d, latchAccepts s d = true → (s.core (latchCore s d)).frozen = false → (s.core (latchCore s d)).hinge.serving = none → (s.core (latchCore s d)).exclusive = [] →
    (∀ x ∈ (s.core (latchCore s d)).weaves, x.2.id.ctx < 64) →
    ∃ t l, exec (.latchFreeze d) s = .next t ∧ (t.core (latchCore s d)).frozen = true ∧ latchState t d = 2 ∧ (t.die d).latch = some l
      ∧ l.source = latchCore s d ∧ l.base = latchImage s d ∧ (∀ n, n ≠ hingeSlot → t.weave? (latchCore s d) n = none)
      ∧ ∀ n w, n ≠ hingeSlot → s.weave? (latchCore s d) n = some w → w.parking = none → Table.find? l.content.slots n = some w)
  ∧ (∀ s d l, d < Config.dies → (s.die d).latch = some l → latchState s d = 2 →
    ∃ t, exec (.scanOutEnd d) s = .next t ∧ t.tick = max s.tick (l.started + 9264)
      ∧ ((latchState t d = 3 ∧ (t.die d).latch = some { l with scanned := t.tick })
        ∨ (latchState t d = 8 ∧ t.field (latchBlock d) 299 296 = 3 ∧ (t.die d).latch = none)))
  ∧ (∀ s d l r reply, (s.die d).latch = some l → s.requests.find? (fun y => y.id == r.id) = some r → r.core = l.source → r.slot < hingeSlot → dieOf l.source = d →
    (s.core l.source).frozen = true → r.waiting = false → s.isSaved r.weave = false →
    ∃ t, exec (.latchReplyCatch d r.id reply) s = .next t ∧ (t.die d).latch = some { l with replies := l.replies ++ [{ request := r, reply }] }
      ∧ t.requests = s.requests.filter (fun y => y.id != r.id))
  ∧ (∀ s d l, (s.die d).latch = some l → latchState s d = 3 → l.slowReported = false → s.outstanding l.source ≠ 0 →
    ∃ t, exec (.catchSlow d) s = .next t ∧ t.tick = max s.tick (l.scanned + s.field (latchBlock d) 415 384 * 2100)
      ∧ (t.die d).latch = some { l with slowReported := true } ∧ t.latchMap.getLsbD (causeCode (cause 22 4)) = true)
  ∧ (∀ s d l, (s.die d).latch = some l → latchState s d = 3 → s.outstanding l.source = 0 →
    ∃ t i, exec (.imageSeal d) s = .next t ∧ t.images = s.images ++ [i] ∧ i.content = l.content ∧ i.source = l.source ∧ i.replies = l.replies
      ∧ t.mem.readBytes l.base imageBytes = i.bytes ∧ (t.core l.source).frozen = false ∧ latchState t d = 4 ∧ (t.die d).latch = none)

/-- R424: RESTORE of a core that is not empty fails with index 2 and leaves the core's weaves alone; where no check fails, the image's weaves stand in their slots again, the image counts as restored, and the channel is IDLE. -/
def Sys2Proof.RestoreSays : Prop :=
  (∀ s d, latchAccepts s d = true → (s.core (latchCore s d)).weaves ≠ [] →
    ∃ t, exec (.latchRestore d) s = .next t ∧ latchState t d = 8 ∧ t.field (latchBlock d) 299 296 = 2
      ∧ ∀ n, t.weave? (latchCore s d) n = s.weave? (latchCore s d) n)
  ∧ (∀ s d i, latchAccepts s d = true → s.restoreFails d (latchCore s d) (latchImage s d) = none → s.imageAt (latchImage s d) = some i →
    i.replies = [] → i.held = [] →
    ∃ t, exec (.latchRestore d) s = .next t ∧ latchState t d = 0 ∧ i.serial ∈ t.restored
      ∧ ∀ n w, n ≠ hingeSlot → Table.find? i.content.slots n = some w → t.weave? (latchCore s d) n = some w.decodeDirectly)

/-! ### Host and fabric (R426, R427, R435 to R446) -/

/-- R394, R427, R436: through BAR2 at the aperture's offset, or by CXL.mem where the link has it, the host reads and writes a range of physical memory that exists, and entries of the frame table (the way to them is the model's choice, log 70); a write that reaches the firmware region (whole: the model's, log 51), and any access before READY, changes nothing. -/
def Sys2Proof.HostMemoryAccessSays : Prop :=
  let access := fun (i : HostAccess → Instr) (s : State) (pa : Nat) =>
    (∀ n, 0 < n → wholeRange physExists pa n = true → ∃ t, exec (i (.read n)) s = .next t ∧ t.hostData = s.mem.readBytes pa n ∧ t.mem = s.mem)
    ∧ (∀ l, l ≠ [] → wholeRange hostWritable pa l.length = true →
      ∃ t, exec (i (.write l)) s = .next t ∧ t.mem.readBytes pa l.length = l ∧ ∀ p, (p < pa ∨ pa + l.length ≤ p) → t.mem.read p = s.mem.read p)
    ∧ (∀ l, isFirmware pa = true → exec (i (.write l)) s = .next s)
    ∧ (∀ k x, frameExists k = true → ∃ t, exec (i (.writeFrame k x)) s = .next t ∧ t.mem = s.mem
      ∧ t.frame k = { shared := x.getLsbD 15, free := x.getLsbD 14, owner := x.toNat % 64 } ∧ ∀ o, o ≠ k → t.frame o = s.frame o)
    ∧ (∀ k, frameExists k = true → ∃ t, exec (i (.readFrame k)) s = .next t ∧ t.hostData = toBytes 2 (s.frame k).code ∧ t.mem = s.mem)
  (∀ s off, s.isReady = true → off < 64 * 2 ^ 30 → access (.hostBar2Access off) s (s.aperture.toNat + off))
  ∧ (∀ s pa, s.isReady = true → s.hostCxl = true → pa < hbmTop → access (.cxlMemAccess pa) s pa)
  ∧ (∀ s x y, s.isReady = false → exec (.hostBar2Access x y) s = .next s ∧ exec (.cxlMemAccess x y) s = .next s)

/-- R426, R440, R441, R447: an aligned host write of 4 or 8 bytes to BAR0 sets a route's byte, the aperture's writable bits, or MODID until it is locked; a reserved offset, another size and an unaligned offset leave everything alone. -/
def Sys2Proof.HostRegisterWritesSays : Prop :=
  ∀ s, s.bootStage ≠ 15 →
    (∀ off size v, regionOf off = .reserved → exec (.registerWrite off size v) s = .next s)
    ∧ (∀ off size v, (size ≠ 4 ∧ size ≠ 8) ∨ off % size ≠ 0 → exec (.registerWrite off size v) s = .next s)
    ∧ (∀ m v, m % 4 = 0 → m < 4096 →
      ∃ t, exec (.registerWrite (0x52000 + m) 4 v) s = .next t ∧ t.routes.readBytes m 4 = toBytes 4 v ∧ ∀ x, (x < m ∨ m + 4 ≤ x) → t.routes.read x = s.routes.read x)
    ∧ (∀ v, ∃ t, exec (.registerWrite 0x70000 8 v) s = .next t ∧ t.aperture.toNat = v / 2 ^ 36 % 2 ^ 16 * 2 ^ 36 + s.aperture.toNat % 2 ^ 36 + s.aperture.toNat / 2 ^ 52 * 2 ^ 52)
    ∧ (∀ v, ∃ t, exec (.registerWrite 0x50400 4 v) s = .next t ∧ t.moduleNumber = (if s.modidLocked then s.moduleNumber else v % 4096)
      ∧ (t.modidLocked = (s.modidLocked || bitAt v 12)))

/-- What a flit does that is next in sequence, its queue of messages empty: the sequence number goes on, and the channel that
its header names has its credits back; its payload makes a message whole, a request, or has more to come; flits that it asks
for are sent again (R437, R438). -/
def Sys2Proof.FlitAccepted (s : State) (p : Nat) (flit : List Byte) (t : State) : Prop :=
  let x := s.port p
  let vc := (Config.flitCreditChannel flit).toNat
  let parts := x.parts ++ [(flit.drop 8).take 240]
  let next := { x with expectSeq := (x.expectSeq + 1) % 4096, replayRequested := false }
  ((∀ v n, Config.flitMessage parts ≠ some (.credit v n)) →
      t.credit p vc = min (initialCredits vc) (s.credit p vc + Config.flitCredits flit))
    ∧ (Config.flitMessage parts = none → t.port p = { next with parts } ∧ t.agenda = s.agenda)
    ∧ (∀ r, Config.flitMessage parts = some (.request r) →
      t.port p = { next with parts := [] } ∧ t.agenda = s.agenda ++ [.event (.fabricRequestReceive p r)])
    ∧ (Config.flitReplay flit = none → t.replayedFlits = s.replayedFlits)
    ∧ (∀ n, Config.flitReplay flit = some n →
      t.replayedFlits = s.replayedFlits ++ (x.sentFlits.dropWhile (fun y => y.1 != n.toNat)).map (fun y => (p, y.1)))

/-- R436 to R439, R442: the host link takes the generation and width it trained to, and MSI-X is as the host has set it; an
enabled port that is down comes up with its lanes, its partner and full credits; one that goes down ends the requests that it
has sent; a port counts what its codewords corrected and could not; a flit with a bad CRC is asked for again, one out of
sequence is dropped, and the next in sequence is accepted. (Where a flit's header fields stand, and how its payloads make up a
message, is the model's, log 59; MSI-X enable comes with the link's training, log 28.) -/
def Sys2Proof.LinksSays : Prop :=
  (∀ s rate width cxl msix, 1 ≤ rate → rate ≤ 7 → width ∈ [16, 8, 4, 1] →
    ∃ t, exec (.hostLinkTrained rate width { cxl, msix }) s = .next t ∧ t.hostRate = rate ∧ t.hostWidth = width ∧ t.hostCxl = cxl
      ∧ t.msixOn = msix ∧ t.mem = s.mem)
  ∧ (∀ s p lanes peer, p < 6 → 1 ≤ lanes → lanes ≤ 4 → peer < 4096 → s.field (portBlock p) 0 0 = 1 → s.portUp p = false →
    ∃ t, exec (.wasisLinkUp p lanes peer) s = .next t ∧ t.portUp p = true ∧ t.field (portBlock p) 35 32 = lanes ∧ t.field (portBlock p) 63 52 = peer
      ∧ t.credit p 0 = 64 ∧ t.credit p 1 = 128 ∧ t.credit p 2 = 64 ∧ t.credit p 3 = 32
      ∧ t.port p = { Port.reset with timeAt := s.tick })
  ∧ (∀ s p, p < 6 → s.portUp p = true → (∀ l ∈ s.live, l.ctx < 64) →
    (∀ r ∈ s.requests, r.weave.ctx < 64 ∧ (r.core < 512 ∨ r.slot = traceSlot)) →
    ∃ t, exec (.wasisLinkDown p) s = .next t ∧ t.portUp p = false ∧ ∀ r ∈ t.requests, r.port = p → r.waiting = true)
  ∧ (∀ s p corrected bad flit, p < 6 → s.portUp p = true → flit.length = 256 →
    let x := s.port p
    let good := (crc64 (flit.take 248)).toNat = ofBytes (flit.drop 248)
    ∃ t, exec (.flitReceive p { bytes := flit, corrected, bad }) s = .next t
      ∧ t.field (portBlock p) 191 160 = (s.field (portBlock p) 191 160 + corrected) % 2 ^ 32
      ∧ t.field (portBlock p) 159 128 = min (2 ^ 32 - 1) (s.field (portBlock p) 159 128 + bad)
      ∧ (¬ good → t.port p = { x with replayRequested := true } ∧ t.agenda = s.agenda)
      ∧ (good → (Config.flitSequence flit).toNat ≠ x.expectSeq → t.port p = x ∧ t.agenda = s.agenda)
      ∧ (good → (Config.flitSequence flit).toNat = x.expectSeq → x.queued = [] → FlitAccepted s p flit t))

/-- R441, R442: a store from another module, of an enabled context and the context's domain, is performed at its place and answered; one of another domain is answered as denied and changes no memory. (The message's shape is the model's, log 66.) -/
def Sys2Proof.FabricRequestsSays : Prop :=
  ∀ s port r p bytes, s.portUp port = true → s.incoming = [] → r.dest = s.moduleNumber → r.ctx < 64 → s.field (serviceBlock r.ctx) 111 111 = 1 → gangState s = 0 →
    r.op = .store bytes → s.routeTo r.source = some p → s.portUp p = true → s.credit p 1 ≠ 0 → (s.port p).queued = [] →
    s.field (portBlock p) 1 1 = 0 →
    let answered := fun (t : State) (reply : FabricReply) =>
      t.sentMessages = s.sentMessages ++ [(p, .response { id := r.id, dest := r.source, hops := 15, reply })]
    (∀ pa, s.ctxDomain r.ctx = r.domain → s.agentRead 0 r.ctx r.va needWrite = (s, .phys pa) →
      ∃ t, exec (.fabricRequestReceive port r) s = .next t ∧ t.mem.readBytes pa bytes.length = bytes ∧ answered t (.data []) ∧ t.incoming = []
        ∧ ∀ x, (x < pa ∨ pa + bytes.length ≤ x) → t.mem.read x = s.mem.read x)
    ∧ (s.ctxDomain r.ctx ≠ r.domain → ∃ t, exec (.fabricRequestReceive port r) s = .next t ∧ t.mem = s.mem ∧ answered t (.failed 4 0))

/-- R303, R431, R442, R443: a response ends its request, lowers the counts of its core, and gives a waiting path its bytes; a request that no response ends by its deadline stops its path, where it issued, with REMOTE_TIMEOUT (19, 1); fabric time follows a partner that is
ahead, and never goes back, and a port sends a time flit of its own once 10 µs have passed since its last. (The path stops at
the request's instruction though it may have gone on, log 24.) -/
def Sys2Proof.FabricResponsesAndTimeSays : Prop :=
  (∀ s port r w hops, s.portUp port = true → s.requests.find? (fun x => x.id == r.id && !x.waiting) = some r →
    (s.requests.map (fun x => x.id)).Nodup → s.isSaved r.weave = false → r.slot < hingeSlot → (s.core r.core).frozen = false →
    s.weave? r.core r.slot = some w → w.id = r.weave →
    (∀ bytes, r.dest = .none → r.isAsyncStore = true →
      ∃ t, exec (.fabricResponseReceive port { id := r.id, dest := s.moduleNumber, hops, reply := .data bytes }) s = .next t
        ∧ t.requests = s.requests.filter (fun x => x.id != r.id) ∧ t.oas r.core + 1 = s.oas r.core ∧ t.weave? r.core r.slot = some w)
    ∧ (∀ bytes q key, r.dest = .path key → w.path? r.path = some q →
      ∃ t, exec (.fabricResponseReceive port { id := r.id, dest := s.moduleNumber, hops, reply := .data bytes }) s = .next t
        ∧ t.requests = s.requests.filter (fun x => x.id != r.id)
        ∧ t.path? (actorOf r.core r.slot r.path) = some { q with fetched := q.fetched ++ [(key, bytes)] }))
  ∧ (∀ s r w q, s.requests.find? (fun x => x.id == r.id && !x.waiting) = some r → s.isSaved r.weave = false → r.slot < hingeSlot → (s.core r.core).frozen = false → s.weave? r.core r.slot = some w →
    w.id = r.weave → r.dest = .none → r.whole = true → w.path? r.path = some q → q.mask ≠ 0 → w.ops.find? (fun o => o.id == r.op) = none →
    ∃ t q' k, exec (.remoteTimeoutExpiry r.id) s = .next t ∧ t.tick = max s.tick (r.sent + s.remoteTimeout)
      ∧ t.requests = s.requests.filter (fun x => x.id != r.id) ∧ t.path? (actorOf r.core r.slot r.path) = some q' ∧ q'.cond = .parked k ∧ k.cause = cause 19 1
      ∧ q'.pc = r.pc)
  ∧ (∀ s p time, p < 6 → s.portUp p = true → ∃ t, exec (.fabricTimeFlit p time) s = .next t ∧ t.ftime = max s.ftime time
    ∧ ((∀ x ∈ s.ports, x.1 < 6) → (s.port p).queued = [] → s.credit p 3 ≠ 0 → s.field (portBlock p) 1 1 = 0 →
      (s.port p).timeAt + 10 * cyclesPerMicro ≤ s.tick → (p, .time (max s.ftime time)) ∈ t.sentMessages)
    ∧ (s.tick < (s.port p).timeAt + 10 * cyclesPerMicro → (∀ x ∈ s.ports, s.tick < x.2.timeAt + 10 * cyclesPerMicro) →
      t.sentMessages = s.sentMessages))

/-- The gang context's queues have EN at `en`, and the other queues as before. -/
def Sys2Proof.QueuesSet (s t : State) (en : Nat) : Prop :=
  ∀ q, q < 256 → t.field (queueBlock q) 5 5 = (if bitAt (s.field (queueBlock q) 511 448) (gangCtx s) then en else s.field (queueBlock q) 5 5)

/-- R444 to R446: ARM begins a slice and DISARM ends one; at the start time the gang context's queues are enabled; a member whose pre-emption of the previous tenant is done says so to its leader, or, where it leads alone, goes; the leader goes when the last READY has come, and a ready member goes at GO; at ABORT, at the
leader's GRACE and at a member's 2 times GRACE the slice is aborted and the queues stop. (Which queues are the gang context's,
and what that pre-emption is, is the model's, log 29.) -/
def Obligations.Gangs : Prop :=
  (∀ s, ∃ t, exec .gangArm s = .next t ∧ gangState t = 1 ∧ t.gangStarted = false ∧ t.gangReady = [])
  ∧ (∀ s, ∃ t, exec .gangDisarm s = .next t ∧ gangState t = 0 ∧ t.gangStarted = false ∧ t.gangReady = [])
  ∧ (∀ s, gangState s = 1 → s.gangStarted = false →
    ∃ t, exec .gangStart s = .next t ∧ t.gangStarted = true ∧ QueuesSet s t 1 ∧ gangStartTime s ≤ t.ftime)
  ∧ (∀ s, gangState s = 1 → s.gangStarted = true → s.preempting = false →
    (∀ p, s.isLeader = false → s.routeTo (gangLeader s) = some p → s.portUp p = true → (s.port p).queued = [] → s.credit p 3 ≠ 0 →
      s.field (portBlock p) 1 1 = 0 → ∃ t, exec .gangMemberReady s = .next t ∧ gangState t = 2
        ∧ t.sentMessages = s.sentMessages ++ [(p, .gangReady s.moduleNumber (gangLeader s) 15)])
    ∧ (s.isLeader = true → gangMembers s = [s.moduleNumber] → s.gangReady = [] → ∃ t, exec .gangMemberReady s = .next t ∧ gangState t = 3))
  ∧ (∀ s m, s.isLeader = true → (gangState s = 1 ∨ gangState s = 2) → m ∈ gangMembers s → (∀ x ∈ gangMembers s, x ≠ m → x ∈ s.gangReady) →
    ∃ t, exec (.gangReadyReceive m) s = .next t ∧ gangState t = 3)
  ∧ (∀ s, gangState s = 2 → ∃ t, exec .gangGoReceive s = .next t ∧ gangState t = 3 ∧ t.mem = s.mem)
  ∧ (∀ s, gangState s ≠ 0 → gangState s ≠ 4 → s.gangCores = [] → ∃ t, exec .gangAbortReceive s = .next t ∧ gangState t = 4 ∧ QueuesSet s t 0)
  ∧ (∀ s, (gangState s = 1 ∨ gangState s = 2) → s.gangCores = [] →
    (s.isLeader = true → ∃ t, exec .gangGraceExpiry s = .next t ∧ gangState t = 4 ∧ QueuesSet s t 0 ∧ gangStartTime s + gangGrace s ≤ t.ftime)
    ∧ (∃ t, exec .gangMemberTimeout s = .next t ∧ gangState t = 4 ∧ QueuesSet s t 0 ∧ gangStartTime s + 2 * gangGrace s ≤ t.ftime))

/-! ### Security, resets and fleet operation (R364, R448 to R458, R463 to R471) -/

/-- The mailbox command has ended: done, or failed with an index. -/
def Sys2Proof.CommandEnded (t : State) (fail : Option Nat) : Prop :=
  match fail with
  | none => t.field mailboxBlock 87 80 = 2 ∧ t.field mailboxBlock 79 72 = 0
  | some i => t.field mailboxBlock 87 80 = 3 ∧ t.field mailboxBlock 79 72 = i

/-- R452 to R454, R456: ATTEST writes a quote that begins with the nonce and the measurement registers; STAGE keeps the image of its buffer, verified or not; FLOOR raises a component's floor to its staged image's SVN and never lowers it; APPLY of feature tables puts
the staged image in force, and fails without one or where its signature does not check (index 0), and where it is signed but below the floor (index 4). The quote's layout without padding is log 34 (PRESUMED); that STAGE keeps an image that fails, and the code 255 of an argument that no rule gives one, is log 36 (DESIGN CHOICE). -/
def Sys2Proof.MailboxUpdatesSays : Prop :=
  ∀ s, s.field mailboxBlock 87 80 = 1 →
    (isHbm (mailboxBuffer s) = true → ∃ t, exec .attest s = .next t ∧ CommandEnded t none
      ∧ t.mem.readBytes (mailboxBuffer s + 4096) 64 = s.mem.readBytes (mailboxBuffer s) 64
      ∧ t.mem.readBytes (mailboxBuffer s + 4160) 512 = (List.range 8).flatMap s.measured)
    ∧ (isHbm (mailboxBuffer s) = true →
      let buffer := s.mem.readBytes (mailboxBuffer s) 65536
      let image := buffer.take (Config.imageLength buffer)
      ∃ t, exec .stage s = .next t ∧ t.svn = s.svn
        ∧ ((5 < Config.imageComponent image ∧ t.staged = s.staged ∧ CommandEnded t (some 255))
          ∨ (Config.imageComponent image ≤ 5 ∧ CommandEnded t (s.imageFails (Config.imageComponent image) image)
            ∧ ∃ x, Table.find? t.staged (Config.imageComponent image) = some x ∧ x.bytes = image
              ∧ x.verified = (s.imageFails (Config.imageComponent image) image).isNone
              ∧ x.signed = (s.imageFails (Config.imageComponent image) image != some 0))))
    ∧ (∀ x n, mailboxArg s ≤ 5 → Table.find? s.staged (mailboxArg s) = some x → x.verified = true → s.svnFloor[mailboxArg s]? = some n →
      ∃ t, exec .floor s = .next t ∧ CommandEnded t none ∧ t.svnFloor[mailboxArg s]? = some (max n x.svn))
    ∧ (mailboxArg s = 5 → s.applying = none →
      (Table.find? s.staged 5 = none → ∃ t, exec .applyUpdate s = .next t ∧ CommandEnded t (some 0) ∧ t.hashes = s.hashes)
      ∧ (∀ x, Table.find? s.staged 5 = some x →
        (x.signed = false → ∃ t, exec .applyUpdate s = .next t ∧ CommandEnded t (some 0) ∧ t.hashes = s.hashes)
        ∧ (x.signed = true → x.svn < s.floorOf 5 → ∃ t, exec .applyUpdate s = .next t ∧ CommandEnded t (some 4) ∧ t.hashes = s.hashes)
        ∧ (x.signed = true → x.verified = true → s.floorOf 5 ≤ x.svn → 5 < s.hashes.length → ∃ t, exec .applyUpdate s = .next t ∧ CommandEnded t none ∧ t.applying = none
          ∧ t.hashes[5]? = some (BitVec.ofNat 512 (ofBytes (sha512 x.bytes)))
          ∧ t.present = Config.tablePresent x.bytes ||| 1 ∧ t.errata = Config.tableErrata x.bytes)))

/-- R455, R471: a core drained takes no more instances; once it is empty DRAIN has ended; RETURN puts it back and RETIRE takes it out of service for good, unless an image of it awaits its restore; a core that must retire is drained and then retired. -/
def Sys2Proof.CoreServiceSays : Prop :=
  ∀ s c, c < Config.dies * Config.coresPerDie → s.drainImages = [] → (s.core c).weaves = [] → (s.core c).frozen = false → (s.core c).outOfService = false →
    (∀ i ∈ s.images, i.source = c → i.epoch = s.bootEpoch → i.serial ∈ s.restored) →
    (s.field mailboxBlock 87 80 = 1 → mailboxTarget s = c →
      (s.drains = [] → ∃ t, exec .drain s = .next t ∧ (t.core c).draining = true ∧ t.drains = [{ core := c, mailbox := true }])
      ∧ ((s.core c).draining = true → s.drains = [] →
        (∃ t, exec .returnCore s = .next t ∧ CommandEnded t none ∧ (t.core c).draining = false)
        ∧ (∃ t, exec .retire s = .next t ∧ CommandEnded t none ∧ (t.core c).outOfService = true ∧ c ∈ t.retired)))
    ∧ ((s.core c).draining = true → s.drains = [{ core := c, mailbox := true }] →
      ∃ t, exec (.drainComplete c) s = .next t ∧ CommandEnded t none ∧ t.drains = [])
    ∧ (∃ t, exec (.coreAutoRetire c) s = .next t ∧ (t.core c).outOfService = true ∧ c ∈ t.retired)

/-- R5, R394, R448, R450: a cold reset clears memory and keeps flash, the fused floors and the retired cores; a warm reset keeps memory too, and time goes on; after either no weave is resident, and the module is READY, or its boot has stopped. (Memory that nothing has written since a cold reset is log 2; what a warm reset keeps beyond what the rules name is log 30.) -/
def Sys2Proof.ResetsSays : Prop :=
  let fresh := fun (s t : State) => (∀ c n, n ≠ hingeSlot → t.weave? c n = none) ∧ t.flash = s.flash ∧ t.svnFloor = s.svnFloor ∧ t.retired = s.retired
    ∧ t.bootEpoch = s.bootEpoch + 1 ∧ t.saved = [] ∧ ((t.isReady = true ∧ t.bootStage = 7) ∨ (t.isReady = false ∧ t.bootStage = 15))
  (∀ s, ∃ t, exec .coldReset s = .next t ∧ fresh s t ∧ t.mem = [] ∧ t.tick = 0)
  ∧ (∀ s, s.fatal = none → ∃ t, exec .warmReset s = .next t ∧ fresh s t ∧ t.mem = s.mem ∧ t.tick = s.tick)

/-- R356, R364, R458, R463, R466, R469: firmware is hashed again a second after the last time; a translation is kept when it was built from the bytes that its section has and its build met no invalidation (R356), and not otherwise; the sampler takes the next resident path, and counts a sample that a suspended ring
drops; a telemetry record has the readings under the next even sequence number, 1 ms after the last; gating changes nothing but timing. (When a sample and a telemetry record come, and how gating shows, is the model's, log 60.) -/
def Sys2Proof.UpkeepSays : Prop :=
  (∀ s, ∃ t, exec .firmwareRehash s = .next t ∧ t.tick = max s.tick (s.rehashAt + 2100000000) ∧ t.rehashAt = t.tick ∧ t.cores = s.cores)
  ∧ (∀ s u x l, s.sectionBytes x.ctx x.base x.size = (u, some l) →
    (x.key = BitVec.ofNat 512 (ofBytes (sha512 l)) → u.buildStands x = true →
      ∃ t id spans, exec (.translationInstall x) s = .next t ∧ { entry := x, id, spans } ∈ t.translations ∧ t.mem = u.mem)
    ∧ ((x.key ≠ BitVec.ofNat 512 (ofBytes (sha512 l)) ∨ u.buildStands x = false) → exec (.translationInstall x) s = .next u))
  ∧ (∀ s c sched slot i w q, (s.core c).frozen = false → i < 8 → s.samplePaths c sched = [8 * slot + i] → s.weave? c slot = some w → w.path? i = some q →
    ∃ t, exec (.pathSample c sched) s = .next t ∧ Table.find? (t.core c).sampleNext sched = some (8 * slot + i) ∧ t.weave? c slot = some w
      ∧ (s.field (debugBlock w.id.ctx) 3 3 = 1 →
        t.mem = s.mem ∧ t.field (debugBlock w.id.ctx) 303 272 = min (s.field (debugBlock w.id.ctx) 303 272 + 1) (2 ^ 32 - 1)))
  ∧ (∀ s x, x.die < Config.dies →
    let at_ := firmwareBase + 64 * x.die
    ∃ t, exec (.telemetryUpdate x) s = .next t ∧ (t.die x.die).telemetryAt = t.tick
      ∧ t.tick = max s.tick ((s.die x.die).telemetryAt + 1000 * cyclesPerMicro) ∧ bits (t.readHomeNat at_ 64) 511 480 = nextSequence (s.readHomeNat at_ 64)
      ∧ bits (t.readHomeNat at_ 64) 383 368 = x.power % 2 ^ 16 ∧ bits (t.readHomeNat at_ 64) 351 336 = x.junction % 2 ^ 16)
  ∧ (∀ s d on, d < Config.dies → ∃ t, exec (.gatingChange d on) s = .next t ∧ (t.die d).gated = on ∧ t.cores = s.cores ∧ t.mem = s.mem)

/-- R400, R467, R470: a hardware error sets its cause in the Latch's and the security processor's bitmaps and stops no path; a fatal one stops the dispatcher and is being dumped until the reset that follows, and one that is not fatal changes nothing. -/
def Sys2Proof.HardwareErrorsSays : Prop :=
  (∀ s index unit core syn, index ≤ 7 →
    ∃ t, exec (.hardwareError index unit core syn) s = .next t ∧ t.cores = s.cores ∧ t.latchMap.getLsbD (causeCode (cause 21 index)) = true
      ∧ t.securityMap.getLsbD (causeCode (cause 21 index)) = true)
  ∧ (∀ s index unit core, s.fatal = none →
    (isFatal index unit = true → ∃ t, exec (.fatalError index unit core) s = .next t ∧ t.dispatchStopped = true ∧ t.fatal = some index ∧ t.cores = s.cores)
    ∧ (isFatal index unit = false → exec (.fatalError index unit core) s = .next s))

/-! ### Decoding, steps, issue, reset and invariants (R193 to R213) -/

/-- Whether an instruction has the Farno encoding. -/
def Sys2Proof.isFarno (i : Instr) : Bool := (i.fields.map (fun f => f.enc != .native)).getD false

/-- R193, R199, R348, R349: decoding the bytes that encode a well-formed instruction, native or Farno, gives the instruction with every field, and leaves the bytes after them. -/
def Obligations.DecodeEncode : Prop :=
  ∀ i rest, WellFormed i = true → decodeBytes (isFarno i) (encode i ++ rest) = .ok (i, rest)

/-- R193 to R199, R211: words written out in the spec decode to the instructions that they stand for, and the sill word to no instruction. -/
def Obligations.DecodeSamples : Prop :=
  let reads := fun (bytes : List Nat) (mk : Fields → Instr) (g x y z imm mod hint : Nat) =>
    decodeBytes false (bytes.map (BitVec.ofNat 8)) = .ok (mk {
      neg := false, g := BitVec.ofNat 4 g, x := BitVec.ofNat 10 x, y := BitVec.ofNat 10 y, z := BitVec.ofNat 10 z, imm := BitVec.ofNat 24 imm
      mod := BitVec.ofNat 11 mod, hint := BitVec.ofNat 16 hint, lit := none, enc := .native }, [])
  reads [0x08, 0x24, 0x00, 0x00, 0x00, 0x00, 0x60, 0xB8, 0x00, 0x02, 0x06, 0x00] .iadd 3 0x004 0x005 0x30C 0 0 0x2408
  ∧ reads [0x00, 0x00, 0x20, 0xF1, 0xFF, 0x1F, 0x14, 0x00, 0x42, 0x02, 0x1E, 0x60] .ld 15 0x004 0x210 0x002 0x83FFFE 0x120 0
  ∧ reads [0x00, 0x00, 0xE0, 0x00, 0x00, 0x0E, 0x12, 0x00, 0x42, 0x80, 0x9F, 0xC0] .gather 15 0x300 0x210 0x002 0x41C000 0x0E0 0
  ∧ reads [0x00, 0x00, 0x01, 0x00, 0x00, 0x0A, 0x10, 0x40, 0xA0, 0x00, 0x1F, 0xCC] .kvapp 15 0x201 0x102 0x002 0x014000 0x001 0
  ∧ reads [0x00, 0x00, 0x00, 0x00, 0x00, 0x00, 0x06, 0xD8, 0x46, 0x00, 0x9E, 0xC4] .mload 15 0x000 0x236 0x300 0xC00000 0 0
  ∧ decodeBytes false (List.replicate 12 0xFF) = .error .fellOff

/-- R194, R196: a READY path's next instruction is what the bytes at its PC decode to, with nothing but the fetch line, the caches and access times changed; one that has issued and waits keeps the instruction it issued (R363). A step whose move is that path runs it, with its cycles taken from the weave's slice unless it must wait, but nothing of a weave
that may not issue (R414); one whose move is an event runs the event; what settles after a move comes after both. -/
def Obligations.StepRunsDecodedInstruction : Prop :=
  (∀ (s : State) (a : Actor) (w : Weave) (q : Path) pa i rest, s.weave? a.core a.slot = some w → w.path? a.path = some q → q.cond = .ready → q.pastEnd = false → q.pc.toNat % 4 = 0 → q.pc.toNat % 4096 + 12 ≤ 4096 →
    (let size := if (if a.isHinge then hingeCtx else w.id.ctx) = hingeCtx then 65536 else s.pageSize w.id.ctx q.pc.toNat
     pa % size = q.pc.toNat % size) →
    (s.core a.core).fetch = [] → (a.isHinge = true ∨ s.inFarnoRange w.id.ctx q.pc.toNat = false) →
    s.translateFor a w.id.ctx q.pc.toNat needFetch = (s, .phys pa) → (∀ j, j < 12 → homeDie (pa + j) = dieOf a.core) →
    decodeBytes false (s.mem.readBytes pa 12) = .ok (i, rest) → nativeHasLiteral (word96 (s.mem.readBytes pa 12)) = false →
    ∃ u : State, s.nextInstr a = .instr u i ∧ { u with cores := s.cores, dies := s.dies, touched := s.touched } = s ∧ ∀ c n, u.weave? c n = s.weave? c n)
  ∧ (∀ (s : State) a q i, s.path? a = some q → q.cond ≠ .ready → q.held = some i → s.nextInstr a = .instr s i)
  ∧ (∀ (s : State) a u, s.nextMove = (some (.issue a), u) → u.issuesNothing a = true → step s = .next (u.settle s.tick))
  ∧ (∀ (s : State) a u v i, s.nextMove = (some (.issue a), u) → u.issuesNothing a = false →
    ({ u with cur := a } : State).nextInstr a = .instr v i →
    (∀ t, exec i (v.countSlice a (v.maskOf a)) = .next t → step s = .next ((t.keepSlice v a).settle s.tick))
    ∧ (∀ f, exec i (v.countSlice a (v.maskOf a)) = .fault f → step s = .fault f))
  ∧ (∀ (s : State) u i t, s.nextMove = (some (.event i), u) → exec i u = .next t → step s = .next (t.settle s.tick))

/-- What the issue of a path sees: the instruction's row and fields, the weave and the READY path. -/
structure Sys2Proof.AtIssue (i : Instr) (s : State) (g : Sig) (f : Fields) (w : Weave) (q : Path) : Prop where
  row : sigOf i = some (g, f)
  weave : s.weave? s.cur.core s.cur.slot = some w
  path : w.path? s.cur.path = some q
  ready : q.cond = .ready ∧ q.haltRequest = false
  notHinge : s.cur.isHinge = false

/-- R200, R203, R210, R338: a word that R210 refuses traps in group 7 with its index before any effect; one whose wait is not over leaves its path blocked on it; a privileged form outside a hinge core, its wait over, traps with PRIV_FORM (8, 0). (The order of the three is log 40.) -/
def Sys2Proof.IssueRefusalsSays : Prop :=
  ∀ i s g f w q, AtIssue i s g f w q →
    let next := BitVec.ofNat 72 (q.pc.toNat + f.size)
    let defect := issueDefect s s.cur w q i g f
    (∀ d, defect = some d → exec i s = .next (s.trapPath s.cur { group := 7, index := d.index } d.detail next))
    ∧ (defect = none → waitsOnCounter w q f = true →
      ∃ t, exec i s = .next t ∧ t.path? s.cur = some { q with cond := .blocked (.stall 0), held := none } ∧ t.mem = s.mem)
    ∧ (defect = none → waitsOnCounter w q f = false → g.privileged = true → q.stepping = 0 → exec i s = .next (s.trapPath s.cur (cause 8 0) (privDetail i 0) next))

/-- R201: an instruction that passes its checks with no lane to act in goes on to the next and changes no register, no tag and no memory. -/
def Obligations.NoActiveLane : Prop :=
  ∀ i s e, issueGate i s = .ok e → e.acting = 0 → e.p.haltRequest = false → e.p.stepping = 0 →
    ∃ t w', exec i s = .next t ∧ t.weave? e.a.core e.a.slot = some w' ∧ RegsKept e.w w' [] ∧ PathAt e w' e.next ∧ t.mem = s.mem ∧ w'.spad = e.w.spad

/-- R36, R133: a form of an engine that the weave's role does not command traps with ROLE_ENGINE (8, 1); the first operand of IADD, ISUB, FADD and FMUL tagged as another format traps in group 6, index 0. -/
def Sys2Proof.RoleAndTagTrapsSays : Prop :=
  let refused := fun (roles : List Nat) (mk : Fields → Instr) =>
    ∀ f s e, issueGate (mk f) s = .ok e → e.acting ≠ 0 → e.w.role ∈ roles → e.p.haltRequest = false → e.p.stepping = 0 →
      exec (mk f) s = .next (s.trapPath e.a (cause 8 1) (privDetail (mk f) e.w.role) e.next)
  let mixed := fun (mk : Fields → Instr) (want : Fields → Tag) =>
    ∀ f s e n, Issuing (mk f) .none s e → f.yOp = .vreg n → e.w.tag n ≠ .untyped → e.w.tag n ≠ want f →
      exec (mk f) s = .next (s.trapPath e.a (cause 6 0) (tagDetail (e.w.tag n) (want f) n) e.next)
  (refused [3] .cpy ∧ refused [3] .gather ∧ refused [3] .scatter ∧ refused [3] .tsrld)
  ∧ (refused [2, 3] .kvapp ∧ refused [2, 3] .kvld ∧ refused [2, 3] .vqlut ∧ refused [2, 3] .vqscore)
  ∧ (refused [1, 3] .mclaim ∧ refused [1, 3] .mrel ∧ refused [1, 3] .mload ∧ refused [1, 3] .mma ∧ refused [1, 3] .mmas ∧ refused [1, 3] .accld ∧ refused [1, 3] .accst
    ∧ refused [1, 3] .accz ∧ refused [1, 3] .mtask)
  ∧ (refused [1, 2, 3] .shwin ∧ refused [1, 2, 3] .shload ∧ refused [1, 2, 3] .shinj ∧ refused [1, 2, 3] .shinjV ∧ refused [1, 2, 3] .shlaunch ∧ refused [1, 2, 3] .shcap
    ∧ refused [1, 2, 3] .shreset)
  ∧ mixed .iadd (fun _ => .i32) ∧ mixed .isub (fun _ => .i32) ∧ mixed .fadd (fun f => ftTag f.ft) ∧ mixed .fmul (fun f => ftTag f.ft)

/-- R4, R5, R161, R394, R403, R405: after cold reset time is 0, no weave is resident, no stop waits, each hinge core's control registers and sticky bitmap are 0, every shutter array is FREE and every frame is FREE. -/
def Obligations.ResetState : Prop :=
  State.reset.tick = 0
    ∧ (∀ c n, n ≠ hingeSlot → State.reset.weave? c n = none)
    ∧ (∀ c, (State.reset.core c).stops = [] ∧ (State.reset.core c).shutter.state = .free)
    ∧ (∀ c, let h := (State.reset.core c).hinge
        h.hstatus = 0 ∧ h.tvec = 0 ∧ h.tret = 0 ∧ h.tstop = 0 ∧ h.tlanes = 0 ∧ h.tpc = 0 ∧ h.tpch = 0 ∧ h.ivec = 0 ∧ h.tdet = 0
          ∧ h.ttoken = 0 ∧ h.tsave = 0 ∧ h.icause = 0 ∧ h.cmap = 0 ∧ h.evict = 0 ∧ h.slice = 0 ∧ h.step = 0)
    ∧ (∀ n, (State.reset.frame n).free = true ∧ (State.reset.frame n).shared = false)
    ∧ State.reset.latchMap = 0 ∧ State.reset.securityMap = 0 ∧ State.reset.isReady = false

/-- Memory and flash list rising addresses, each with a byte that an unlisted address does not read as: equal contents are equal data. -/
def Sys2Proof.MemoriesCanonical (s : State) : Prop := s.mem.wf = true ∧ s.flash.wf = true

/-- The canonical form of memory and flash (MODEL's own, log 2) holds after cold reset. -/
def Obligations.CanonicalAtReset : Prop := MemoriesCanonical State.reset

/-- Every step, whatever it runs, keeps the canonical form of memory and flash (MODEL's own, log 2). -/
def Obligations.StepKeepsCanonical : Prop := ∀ s t, MemoriesCanonical s → step s = .next t → MemoriesCanonical t

/-! ### Statements of several parts -/

/-- R227: `BitFieldsSays` and `BitCountsSays`. -/
def Obligations.BitFieldsAndCounts : Prop := BitFieldsSays ∧ BitCountsSays

/-- R50, R51, R53, R228, R230, R231, R232, R233, R234, R235: `LoadEffectiveAddressSays`, `JambFormsSays`, `ArrayRegistersSays`. Log entries: 40. -/
def Obligations.AddressesAndArrays : Prop := LoadEffectiveAddressSays ∧ JambFormsSays ∧ ArrayRegistersSays

/-- R212, R236, R237, R238, R239, R241: `BranchesAndReturnSays` and `CompareAndBranchSays`. Log entries: 39. -/
def Obligations.Branches : Prop := BranchesAndReturnSays ∧ CompareAndBranchSays

/-- R21, R245, R246, R247, R304, R404: `NopsAndBreakpointSays` and `SoftwareTrapSays`. -/
def Obligations.NopsAndTraps : Prop := NopsAndBreakpointSays ∧ SoftwareTrapSays

/-- R19, R243, R244: `ExitSays` and `EndSays`. -/
def Obligations.PathAndWeaveEnds : Prop := ExitSays ∧ EndSays

/-- R253, R254, R255: `FloatSelectionSays` and `FloatCompareAndDotSays`. -/
def Obligations.FloatSelectionAndComparison : Prop := FloatSelectionSays ∧ FloatCompareAndDotSays

/-- R204, R256, R257: `SpecialFunctionsSays` and `SpecialFunctionCornersSays`. -/
def Obligations.SpecialFunctionsAndCorners : Prop := SpecialFunctionsSays ∧ SpecialFunctionCornersSays

/-- R262, R264, R265: `QuantAndDequantSays` and `PackAndUnpackSays`. -/
def Obligations.BlocksAndPacking : Prop := QuantAndDequantSays ∧ PackAndUnpackSays

/-- R196, R267, R268, R269, R270, R275: `TagsAndMovesSays` and `ReductionsSays`. -/
def Obligations.TagsMovesAndReductions : Prop := TagsAndMovesSays ∧ ReductionsSays

/-- R266, R271, R272, R273, R274: `ShufflesVotesAndBallotsSays` and `LanePermutationSays`. -/
def Obligations.LaneExchange : Prop := ShufflesVotesAndBallotsSays ∧ LanePermutationSays

/-- R71, R74, R80, R277, R283, R284, R288: `ScratchpadAccessSays` and `ScratchpadAtomicsSays`. Log entries: 18. -/
def Obligations.ScratchpadForms : Prop := ScratchpadAccessSays ∧ ScratchpadAtomicsSays

/-- R93, R103, R104, R286, R287, R288: `GlobalAtomicsSays` and `AtomicPointsSays`. Log entries: 7, 18. -/
def Obligations.GlobalAtomicForms : Prop := GlobalAtomicsSays ∧ AtomicPointsSays

/-- R60, R61, R62, R63, R290, R291: `SpillSays`, `FillSays`, `PrefetchSays`. Log entries: 7, 56, 75. -/
def Obligations.SpillFillAndPrefetch : Prop := SpillSays ∧ FillSays ∧ PrefetchSays

/-- R98, R101, R102, R105, R106, R295, R296: `ReleaseAndAcquireSays` and `PhasesAndFencesSays`. -/
def Obligations.MemoryOrdering : Prop := ReleaseAndAcquireSays ∧ PhasesAndFencesSays

/-- R297, R303, R305: `BarrierOfPathsSays` and `CounterWaitsAndSleepSays`. -/
def Obligations.PathBarrierAndWaits : Prop := BarrierOfPathsSays ∧ CounterWaitsAndSleepSays

/-- R298, R299, R300: `ArrivalBarriersSays` and `ArrivalWaitsSays`. -/
def Obligations.ArrivalBarrierForms : Prop := ArrivalBarriersSays ∧ ArrivalWaitsSays

/-- R76, R77, R81, R292, R293, R294: `StashWindowsSays` and `StashWriteBacksSays`. -/
def Obligations.StashForms : Prop := StashWindowsSays ∧ StashWriteBacksSays

/-- R22, R24, R25, R101, R302: `HoopMembershipSays` and `HoopBarrierSays`. -/
def Obligations.Hoops : Prop := HoopMembershipSays ∧ HoopBarrierSays

/-- R87, R89, R306, R307: `QueuePushSays` and `QueuePopSays`. Log entries: 76. -/
def Obligations.Queues : Prop := QueuePushSays ∧ QueuePopSays

/-- R54, R171, R172, R173, R174, R315, R319, R320: `CopyAcceptanceSays` and `GatherAndScatterAcceptanceSays`. -/
def Obligations.CopyEngineForms : Prop := CopyAcceptanceSays ∧ GatherAndScatterAcceptanceSays

/-- R143, R144, R145, R153, R317, R318, R323, R328: `ShapeLoadsSays` and `MatrixTransfersSays`. -/
def Obligations.MatrixTransferForms : Prop := ShapeLoadsSays ∧ MatrixTransfersSays

/-- R140, R141, R142, R147, R150, R155, R322, R324, R327: `MatrixClaimsSays` and `TileTasksSays`. -/
def Obligations.MatrixClaimsAndTasks : Prop := MatrixClaimsSays ∧ TileTasksSays

/-- R158, R160, R161, R163, R164, R165, R166, R167, R168: `ShutterSetupSays` and `ShutterRaceSays`. -/
def Obligations.ShutterForms : Prop := ShutterSetupSays ∧ ShutterRaceSays

/-- R126, R181, R182, R183, R184, R330, R331, R332, R333: `KvReadsSays` and `KvWritesSays`. -/
def Obligations.KvForms : Prop := KvReadsSays ∧ KvWritesSays

/-- R30, R186, R187, R189, R334, R335, R336, R337: `SpawnWakeAndRoleSays` and `ParkSays`. -/
def Obligations.Continuations : Prop := SpawnWakeAndRoleSays ∧ ParkSays

/-- R5, R339, R344, R405, R406, R409, R410, R411: `ControlRegistersSays` and `DebugWindowSays`. Log entries: 45. -/
def Obligations.ControlAndDebug : Prop := ControlRegistersSays ∧ DebugWindowSays

/-- R14, R17, R34, R203, R305, R382, R464: `CompletionAndMergeSays` and `StarvationDeadlinesAndHaltsSays`. -/
def Obligations.PathEvents : Prop := CompletionAndMergeSays ∧ StarvationDeadlinesAndHaltsSays

/-- R81, R98, R149, R150, R174, R175: `TileTaskEventsSays`, `CopyEventsSays`, `WriteBackEventsSays`. Log entries: 38, 57, 61. -/
def Obligations.EngineEvents : Prop := TileTaskEventsSays ∧ CopyEventsSays ∧ WriteBackEventsSays

/-- R12, R29, R33, R428, R429, R430: `DispatchOfInstancesSays` and `DispatchTimersAndTailsSays`. -/
def Obligations.Dispatch : Prop := DispatchOfInstancesSays ∧ DispatchTimersAndTailsSays

/-- R188, R391, R393, R394: `HeatAndAgingSays` and `PageMovesSays`. Log entries: 48, 49. -/
def Obligations.Transom : Prop := HeatAndAgingSays ∧ PageMovesSays

/-- R340, R395, R396, R397: `DeferredFaultRecordsSays` and `RepliesSays`. Log entries: 31. -/
def Obligations.FaultRings : Prop := DeferredFaultRecordsSays ∧ RepliesSays

/-- R404, R406, R407, R408, R458: `TakingStopsSays` and `ForwardingAndHingeFaultsSays`. Log entries: 26, 27, 73. -/
def Obligations.StopService : Prop := TakingStopsSays ∧ ForwardingAndHingeFaultsSays

/-- R303, R413, R414, R415, R416, R417: `EvictionRequestsSays`, `EvictionCompletesSays`, `ReturnsOfWeavesSays`. Log entries: 19, 33. -/
def Obligations.EvictionAndReturn : Prop := EvictionRequestsSays ∧ EvictionCompletesSays ∧ ReturnsOfWeavesSays

/-- R420 to R423, R424: `FreezeAndSealSays` and `RestoreSays`. Log entries: 11, 50. -/
def Obligations.Latch : Prop := FreezeAndSealSays ∧ RestoreSays

/-- R394, R426, R427, R436, R440, R441, R447: `HostMemoryAccessSays` and `HostRegisterWritesSays`. Log entries: 51, 70. -/
def Obligations.HostAccesses : Prop := HostMemoryAccessSays ∧ HostRegisterWritesSays

/-- R303, R431, R436 to R439, R441, R442, R443: `LinksSays`, `FabricRequestsSays`, `FabricResponsesAndTimeSays`. Log entries: 24, 28, 59, 66. -/
def Obligations.Fabric : Prop := LinksSays ∧ FabricRequestsSays ∧ FabricResponsesAndTimeSays

/-- R452 to R454, R455, R456, R471: `MailboxUpdatesSays` and `CoreServiceSays`. Log entries: 34, 36. -/
def Obligations.MailboxAndCores : Prop := MailboxUpdatesSays ∧ CoreServiceSays

/-- R5, R356, R364, R394, R400, R448, R450, R458, R463, R466, R467, R469, R470: `ResetsSays`, `UpkeepSays`, `HardwareErrorsSays`. Log entries: 2, 30, 60. -/
def Obligations.ResetsUpkeepAndErrors : Prop := ResetsSays ∧ UpkeepSays ∧ HardwareErrorsSays

/-- R36, R133, R200, R203, R210, R338: `IssueRefusalsSays` and `RoleAndTagTrapsSays`. Log entries: 40. -/
def Obligations.IssueStops : Prop := IssueRefusalsSays ∧ RoleAndTagTrapsSays
end

