-- ==== Sys2Proof/Laws/Farno.lean ====
section
/-! SUPPORT. What a safe point and the leaving of a translation can do: the path's mode changes, and nothing else. -/

namespace Sys2Proof.Laws

open Machine

theorem leaveCode_cases (s : State) (a : Actor) :
    s.leaveCode a = s ∨ s.leaveCode a = s.modifyPath a (fun q => { q with code := none }) := by
  unfold State.leaveCode
  split
  · split
    · exact .inr rfl
    · exact .inl rfl
  · exact .inl rfl

theorem enterCode_cases (s : State) (a : Actor) :
    s.enterCode a = s ∨ ∃ id, s.enterCode a = s.modifyPath a (fun q => { q with code := some id }) := by
  unfold State.enterCode
  split
  · split
    · exact .inl rfl
    · split
      · exact .inr ⟨_, rfl⟩
      · exact .inl rfl
  · exact .inl rfl

theorem branched_cases (s : State) (a : Actor) (pc : VAddr) :
    s.branched a pc = s.leaveCode a ∨ s.branched a pc = (s.leaveCode a).enterCode a := by
  simp only [State.branched]
  split
  · split
    · exact .inr rfl
    · exact .inl rfl
  · exact .inl rfl

end Sys2Proof.Laws
end

