-- ==== Sys2Proof/Laws/Lists.lean ====
section
/-! SUPPORT. Lists, sorted tables and lane masks: what reading gives after an update. -/

namespace Sys2Proof.Laws

open Machine

theorem getElem?_setAt {α : Type} (l : List α) (i j : Nat) (y : α) :
    (setAt l i y)[j]? = if i = j then (l[j]?).map (fun _ => y) else l[j]? := by
  induction l generalizing i j with
  | nil => cases i <;> simp [setAt]
  | cons x l ih => cases i <;> cases j <;> simp [setAt, ih]

theorem getElem?_modifyAt {α : Type} (l : List α) (i j : Nat) (f : α → α) :
    (modifyAt l i f)[j]? = if i = j then (l[j]?).map f else l[j]? := by
  induction l generalizing i j with
  | nil => cases i <;> simp [modifyAt]
  | cons x l ih => cases i <;> cases j <;> simp [modifyAt, ih]

@[simp] theorem length_setAt {α : Type} (l : List α) (i : Nat) (y : α) : (setAt l i y).length = l.length := by
  induction l generalizing i with
  | nil => cases i <;> rfl
  | cons x l ih => cases i <;> simp [setAt, ih]

@[simp] theorem length_modifyAt {α : Type} (l : List α) (i : Nat) (f : α → α) :
    (modifyAt l i f).length = l.length := by
  induction l generalizing i with
  | nil => cases i <;> rfl
  | cons x l ih => cases i <;> simp [modifyAt, ih]

@[simp] theorem table_find_set {α : Type} (t : Table α) (k : Nat) (x : α) :
    Table.find? (Table.set t k x) k = some x := by
  induction t with
  | nil => simp [Table.set, Table.find?]
  | cons p t ih =>
    obtain ⟨k', v⟩ := p
    simp only [Table.set]
    (repeat' split) <;> simp_all [Table.find?]

theorem table_find_set_ne {α : Type} (t : Table α) (k n : Nat) (x : α) (h : n ≠ k) :
    Table.find? (Table.set t k x) n = Table.find? t n := by
  induction t with
  | nil => simp [Table.set, Table.find?, h]
  | cons p t ih =>
    obtain ⟨k', v⟩ := p
    simp only [Table.set]
    split
    · subst_vars; simp [Table.find?, h]
    · split
      · simp [Table.find?, h]
      · simp only [Table.find?, ih]

theorem table_find_erase {α : Type} (t : Table α) (k n : Nat) :
    Table.find? (Table.erase t k) n = if n = k then none else Table.find? t n := by
  induction t with
  | nil => simp [Table.erase, Table.find?]
  | cons p t ih =>
    obtain ⟨k', v⟩ := p
    simp only [Table.erase] at ih ⊢
    simp only [List.filter_cons]
    by_cases h : k' = k
    · subst h
      simp only [bne_self_eq_false, Bool.false_eq_true, if_false, ih, Table.find?]
      split <;> rfl
    · simp only [bne_iff_ne, ne_eq, h, not_false_eq_true, if_true, Table.find?, ih]
      by_cases hn : n = k'
      · simp [hn, h]
      · simp [hn]

/-! ### Lane masks -/

theorem testBit_foldl_or (l : List Nat) (m k : Nat) :
    (l.foldl (fun m k => m ||| 2 ^ k) m).testBit k = (m.testBit k || l.contains k) := by
  induction l generalizing m with
  | nil => simp
  | cons x l ih =>
    simp only [List.foldl_cons, ih, Nat.testBit_or, Nat.testBit_two_pow, List.contains_cons]
    by_cases h : x = k
    · subst h; simp
    · have h' : (k == x) = false := by simp; omega
      simp [h, h']

/-- Lane `k` of the mask of a list of lanes. -/
@[simp] theorem has_ofLanes (l : List Nat) (k : Nat) :
    (LaneMask.ofLanes l).has k = (decide (k < 1024) && l.contains k) := by
  simp only [LaneMask.ofLanes, LaneMask.has, BitVec.getLsbD_ofNat, testBit_foldl_or]
  simp

@[simp] theorem has_and (a b : LaneMask) (k : Nat) : LaneMask.has (a &&& b) k = (a.has k && b.has k) := by
  simp [LaneMask.has]

@[simp] theorem has_or (a b : LaneMask) (k : Nat) : LaneMask.has (a ||| b) k = (a.has k || b.has k) := by
  simp [LaneMask.has]

@[simp] theorem has_not (a : LaneMask) (k : Nat) : LaneMask.has (~~~a) k = (decide (k < 1024) && !a.has k) := by
  simp [LaneMask.has]

theorem mem_lanes (m : LaneMask) (n k : Nat) : k ∈ m.lanes n ↔ k < n ∧ m.has k = true := by
  simp [LaneMask.lanes]

end Sys2Proof.Laws
end

