-- ==== Sys2Proof/Laws/State.lean ====
section
/-! SUPPORT. Each named update of the state and of a weave, field by field: what it leaves as it was. -/

namespace Sys2Proof.Laws

open Machine

@[simp] theorem setCore_tick (s : State) (c : Nat) (k : Core) : (s.setCore c k).tick = s.tick := rfl
@[simp] theorem setCore_agenda (s : State) (c : Nat) (k : Core) : (s.setCore c k).agenda = s.agenda := rfl
@[simp] theorem setCore_cur (s : State) (c : Nat) (k : Core) : (s.setCore c k).cur = s.cur := rfl
@[simp] theorem setCore_turn (s : State) (c : Nat) (k : Core) : (s.setCore c k).turn = s.turn := rfl
@[simp] theorem setCore_serial (s : State) (c : Nat) (k : Core) : (s.setCore c k).serial = s.serial := rfl
@[simp] theorem setCore_mem (s : State) (c : Nat) (k : Core) : (s.setCore c k).mem = s.mem := rfl
@[simp] theorem setCore_touched (s : State) (c : Nat) (k : Core) : (s.setCore c k).touched = s.touched := rfl
@[simp] theorem setCore_spoiled (s : State) (c : Nat) (k : Core) : (s.setCore c k).spoiled = s.spoiled := rfl
@[simp] theorem setCore_flash (s : State) (c : Nat) (k : Core) : (s.setCore c k).flash = s.flash := rfl
@[simp] theorem setCore_integrity (s : State) (c : Nat) (k : Core) : (s.setCore c k).integrity = s.integrity := rfl
@[simp] theorem setCore_frames (s : State) (c : Nat) (k : Core) : (s.setCore c k).frames = s.frames := rfl
@[simp] theorem setCore_blocks (s : State) (c : Nat) (k : Core) : (s.setCore c k).blocks = s.blocks := rfl
@[simp] theorem setCore_routes (s : State) (c : Nat) (k : Core) : (s.setCore c k).routes = s.routes := rfl
@[simp] theorem setCore_msix (s : State) (c : Nat) (k : Core) : (s.setCore c k).msix = s.msix := rfl
@[simp] theorem setCore_aperture (s : State) (c : Nat) (k : Core) : (s.setCore c k).aperture = s.aperture := rfl
@[simp] theorem setCore_hostData (s : State) (c : Nat) (k : Core) : (s.setCore c k).hostData = s.hostData := rfl
@[simp] theorem setCore_vectors (s : State) (c : Nat) (k : Core) : (s.setCore c k).vectors = s.vectors := rfl
@[simp] theorem setCore_present (s : State) (c : Nat) (k : Core) : (s.setCore c k).present = s.present := rfl
@[simp] theorem setCore_errata (s : State) (c : Nat) (k : Core) : (s.setCore c k).errata = s.errata := rfl
@[simp] theorem setCore_binding (s : State) (c : Nat) (k : Core) : (s.setCore c k).binding = s.binding := rfl
@[simp] theorem setCore_svn (s : State) (c : Nat) (k : Core) : (s.setCore c k).svn = s.svn := rfl
@[simp] theorem setCore_svnFloor (s : State) (c : Nat) (k : Core) : (s.setCore c k).svnFloor = s.svnFloor := rfl
@[simp] theorem setCore_hashes (s : State) (c : Nat) (k : Core) : (s.setCore c k).hashes = s.hashes := rfl
@[simp] theorem setCore_staged (s : State) (c : Nat) (k : Core) : (s.setCore c k).staged = s.staged := rfl
@[simp] theorem setCore_bootEpoch (s : State) (c : Nat) (k : Core) : (s.setCore c k).bootEpoch = s.bootEpoch := rfl
@[simp] theorem setCore_imageSerial (s : State) (c : Nat) (k : Core) :
    (s.setCore c k).imageSerial = s.imageSerial := rfl
@[simp] theorem setCore_restored (s : State) (c : Nat) (k : Core) : (s.setCore c k).restored = s.restored := rfl
@[simp] theorem setCore_quadTlbs (s : State) (c : Nat) (k : Core) : (s.setCore c k).quadTlbs = s.quadTlbs := rfl
@[simp] theorem setCore_walks (s : State) (c : Nat) (k : Core) : (s.setCore c k).walks = s.walks := rfl
@[simp] theorem setCore_dies (s : State) (c : Nat) (k : Core) : (s.setCore c k).dies = s.dies := rfl
@[simp] theorem setCore_queues (s : State) (c : Nat) (k : Core) : (s.setCore c k).queues = s.queues := rfl
@[simp] theorem setCore_unwritten (s : State) (c : Nat) (k : Core) : (s.setCore c k).unwritten = s.unwritten := rfl
@[simp] theorem setCore_moves (s : State) (c : Nat) (k : Core) : (s.setCore c k).moves = s.moves := rfl
@[simp] theorem setCore_planned (s : State) (c : Nat) (k : Core) : (s.setCore c k).planned = s.planned := rfl
@[simp] theorem setCore_parks (s : State) (c : Nat) (k : Core) : (s.setCore c k).parks = s.parks := rfl
@[simp] theorem setCore_watches (s : State) (c : Nat) (k : Core) : (s.setCore c k).watches = s.watches := rfl
@[simp] theorem setCore_notices (s : State) (c : Nat) (k : Core) : (s.setCore c k).notices = s.notices := rfl
@[simp] theorem setCore_maps (s : State) (c : Nat) (k : Core) : (s.setCore c k).maps = s.maps := rfl
@[simp] theorem setCore_pageStates (s : State) (c : Nat) (k : Core) : (s.setCore c k).pageStates = s.pageStates := rfl
@[simp] theorem setCore_saved (s : State) (c : Nat) (k : Core) : (s.setCore c k).saved = s.saved := rfl
@[simp] theorem setCore_images (s : State) (c : Nat) (k : Core) : (s.setCore c k).images = s.images := rfl
@[simp] theorem setCore_live (s : State) (c : Nat) (k : Core) : (s.setCore c k).live = s.live := rfl
@[simp] theorem setCore_waiting (s : State) (c : Nat) (k : Core) : (s.setCore c k).waiting = s.waiting := rfl
@[simp] theorem setCore_returned (s : State) (c : Nat) (k : Core) : (s.setCore c k).returned = s.returned := rfl
@[simp] theorem setCore_spills (s : State) (c : Nat) (k : Core) : (s.setCore c k).spills = s.spills := rfl
@[simp] theorem setCore_levelSince (s : State) (c : Nat) (k : Core) : (s.setCore c k).levelSince = s.levelSince := rfl
@[simp] theorem setCore_rotation (s : State) (c : Nat) (k : Core) : (s.setCore c k).rotation = s.rotation := rfl
@[simp] theorem setCore_starving (s : State) (c : Nat) (k : Core) : (s.setCore c k).starving = s.starving := rfl
@[simp] theorem setCore_dispatchStopped (s : State) (c : Nat) (k : Core) :
    (s.setCore c k).dispatchStopped = s.dispatchStopped := rfl
@[simp] theorem setCore_lateFaults (s : State) (c : Nat) (k : Core) : (s.setCore c k).lateFaults = s.lateFaults := rfl
@[simp] theorem setCore_tokens (s : State) (c : Nat) (k : Core) : (s.setCore c k).tokens = s.tokens := rfl
@[simp] theorem setCore_requests (s : State) (c : Nat) (k : Core) : (s.setCore c k).requests = s.requests := rfl
@[simp] theorem setCore_incoming (s : State) (c : Nat) (k : Core) : (s.setCore c k).incoming = s.incoming := rfl
@[simp] theorem setCore_glances (s : State) (c : Nat) (k : Core) : (s.setCore c k).glances = s.glances := rfl
@[simp] theorem setCore_ports (s : State) (c : Nat) (k : Core) : (s.setCore c k).ports = s.ports := rfl
@[simp] theorem setCore_sentMessages (s : State) (c : Nat) (k : Core) :
    (s.setCore c k).sentMessages = s.sentMessages := rfl
@[simp] theorem setCore_replayedFlits (s : State) (c : Nat) (k : Core) :
    (s.setCore c k).replayedFlits = s.replayedFlits := rfl
@[simp] theorem setCore_ftimeBase (s : State) (c : Nat) (k : Core) : (s.setCore c k).ftimeBase = s.ftimeBase := rfl
@[simp] theorem setCore_modidLocked (s : State) (c : Nat) (k : Core) :
    (s.setCore c k).modidLocked = s.modidLocked := rfl
@[simp] theorem setCore_gangStarted (s : State) (c : Nat) (k : Core) :
    (s.setCore c k).gangStarted = s.gangStarted := rfl
@[simp] theorem setCore_gangReady (s : State) (c : Nat) (k : Core) : (s.setCore c k).gangReady = s.gangReady := rfl
@[simp] theorem setCore_hostRate (s : State) (c : Nat) (k : Core) : (s.setCore c k).hostRate = s.hostRate := rfl
@[simp] theorem setCore_hostWidth (s : State) (c : Nat) (k : Core) : (s.setCore c k).hostWidth = s.hostWidth := rfl
@[simp] theorem setCore_hostCxl (s : State) (c : Nat) (k : Core) : (s.setCore c k).hostCxl = s.hostCxl := rfl
@[simp] theorem setCore_msixOn (s : State) (c : Nat) (k : Core) : (s.setCore c k).msixOn = s.msixOn := rfl
@[simp] theorem setCore_translations (s : State) (c : Nat) (k : Core) :
    (s.setCore c k).translations = s.translations := rfl
@[simp] theorem setCore_purges (s : State) (c : Nat) (k : Core) : (s.setCore c k).purges = s.purges := rfl
@[simp] theorem setCore_latchMap (s : State) (c : Nat) (k : Core) : (s.setCore c k).latchMap = s.latchMap := rfl
@[simp] theorem setCore_securityMap (s : State) (c : Nat) (k : Core) :
    (s.setCore c k).securityMap = s.securityMap := rfl
@[simp] theorem setCore_retired (s : State) (c : Nat) (k : Core) : (s.setCore c k).retired = s.retired := rfl
@[simp] theorem setCore_parity (s : State) (c : Nat) (k : Core) : (s.setCore c k).parity = s.parity := rfl
@[simp] theorem setCore_drains (s : State) (c : Nat) (k : Core) : (s.setCore c k).drains = s.drains := rfl
@[simp] theorem setCore_drainImages (s : State) (c : Nat) (k : Core) :
    (s.setCore c k).drainImages = s.drainImages := rfl
@[simp] theorem setCore_applying (s : State) (c : Nat) (k : Core) : (s.setCore c k).applying = s.applying := rfl
@[simp] theorem setCore_fatal (s : State) (c : Nat) (k : Core) : (s.setCore c k).fatal = s.fatal := rfl
@[simp] theorem setCore_rehashAt (s : State) (c : Nat) (k : Core) : (s.setCore c k).rehashAt = s.rehashAt := rfl
@[simp] theorem setCore_cxlUncorrected (s : State) (c : Nat) (k : Core) :
    (s.setCore c k).cxlUncorrected = s.cxlUncorrected := rfl
@[simp] theorem setCore_voltageSince (s : State) (c : Nat) (k : Core) :
    (s.setCore c k).voltageSince = s.voltageSince := rfl
@[simp] theorem setCore_powerSince (s : State) (c : Nat) (k : Core) : (s.setCore c k).powerSince = s.powerSince := rfl
@[simp] theorem setCore_powerReadings (s : State) (c : Nat) (k : Core) :
    (s.setCore c k).powerReadings = s.powerReadings := rfl
@[simp] theorem setCore_lateTraces (s : State) (c : Nat) (k : Core) : (s.setCore c k).lateTraces = s.lateTraces := rfl

@[simp] theorem modifyCore_tick (s : State) (c : Nat) (f : Core → Core) : (s.modifyCore c f).tick = s.tick := rfl
@[simp] theorem modifyCore_agenda (s : State) (c : Nat) (f : Core → Core) :
    (s.modifyCore c f).agenda = s.agenda := rfl
@[simp] theorem modifyCore_cur (s : State) (c : Nat) (f : Core → Core) : (s.modifyCore c f).cur = s.cur := rfl
@[simp] theorem modifyCore_turn (s : State) (c : Nat) (f : Core → Core) : (s.modifyCore c f).turn = s.turn := rfl
@[simp] theorem modifyCore_serial (s : State) (c : Nat) (f : Core → Core) :
    (s.modifyCore c f).serial = s.serial := rfl
@[simp] theorem modifyCore_mem (s : State) (c : Nat) (f : Core → Core) : (s.modifyCore c f).mem = s.mem := rfl
@[simp] theorem modifyCore_touched (s : State) (c : Nat) (f : Core → Core) :
    (s.modifyCore c f).touched = s.touched := rfl
@[simp] theorem modifyCore_spoiled (s : State) (c : Nat) (f : Core → Core) :
    (s.modifyCore c f).spoiled = s.spoiled := rfl
@[simp] theorem modifyCore_flash (s : State) (c : Nat) (f : Core → Core) : (s.modifyCore c f).flash = s.flash := rfl
@[simp] theorem modifyCore_integrity (s : State) (c : Nat) (f : Core → Core) :
    (s.modifyCore c f).integrity = s.integrity := rfl
@[simp] theorem modifyCore_frames (s : State) (c : Nat) (f : Core → Core) :
    (s.modifyCore c f).frames = s.frames := rfl
@[simp] theorem modifyCore_blocks (s : State) (c : Nat) (f : Core → Core) :
    (s.modifyCore c f).blocks = s.blocks := rfl
@[simp] theorem modifyCore_routes (s : State) (c : Nat) (f : Core → Core) :
    (s.modifyCore c f).routes = s.routes := rfl
@[simp] theorem modifyCore_msix (s : State) (c : Nat) (f : Core → Core) : (s.modifyCore c f).msix = s.msix := rfl
@[simp] theorem modifyCore_aperture (s : State) (c : Nat) (f : Core → Core) :
    (s.modifyCore c f).aperture = s.aperture := rfl
@[simp] theorem modifyCore_hostData (s : State) (c : Nat) (f : Core → Core) :
    (s.modifyCore c f).hostData = s.hostData := rfl
@[simp] theorem modifyCore_vectors (s : State) (c : Nat) (f : Core → Core) :
    (s.modifyCore c f).vectors = s.vectors := rfl
@[simp] theorem modifyCore_present (s : State) (c : Nat) (f : Core → Core) :
    (s.modifyCore c f).present = s.present := rfl
@[simp] theorem modifyCore_errata (s : State) (c : Nat) (f : Core → Core) :
    (s.modifyCore c f).errata = s.errata := rfl
@[simp] theorem modifyCore_binding (s : State) (c : Nat) (f : Core → Core) :
    (s.modifyCore c f).binding = s.binding := rfl
@[simp] theorem modifyCore_svn (s : State) (c : Nat) (f : Core → Core) : (s.modifyCore c f).svn = s.svn := rfl
@[simp] theorem modifyCore_svnFloor (s : State) (c : Nat) (f : Core → Core) :
    (s.modifyCore c f).svnFloor = s.svnFloor := rfl
@[simp] theorem modifyCore_hashes (s : State) (c : Nat) (f : Core → Core) :
    (s.modifyCore c f).hashes = s.hashes := rfl
@[simp] theorem modifyCore_staged (s : State) (c : Nat) (f : Core → Core) :
    (s.modifyCore c f).staged = s.staged := rfl
@[simp] theorem modifyCore_bootEpoch (s : State) (c : Nat) (f : Core → Core) :
    (s.modifyCore c f).bootEpoch = s.bootEpoch := rfl
@[simp] theorem modifyCore_imageSerial (s : State) (c : Nat) (f : Core → Core) :
    (s.modifyCore c f).imageSerial = s.imageSerial := rfl
@[simp] theorem modifyCore_restored (s : State) (c : Nat) (f : Core → Core) :
    (s.modifyCore c f).restored = s.restored := rfl
@[simp] theorem modifyCore_quadTlbs (s : State) (c : Nat) (f : Core → Core) :
    (s.modifyCore c f).quadTlbs = s.quadTlbs := rfl
@[simp] theorem modifyCore_walks (s : State) (c : Nat) (f : Core → Core) : (s.modifyCore c f).walks = s.walks := rfl
@[simp] theorem modifyCore_dies (s : State) (c : Nat) (f : Core → Core) : (s.modifyCore c f).dies = s.dies := rfl
@[simp] theorem modifyCore_queues (s : State) (c : Nat) (f : Core → Core) :
    (s.modifyCore c f).queues = s.queues := rfl
@[simp] theorem modifyCore_unwritten (s : State) (c : Nat) (f : Core → Core) :
    (s.modifyCore c f).unwritten = s.unwritten := rfl
@[simp] theorem modifyCore_moves (s : State) (c : Nat) (f : Core → Core) : (s.modifyCore c f).moves = s.moves := rfl
@[simp] theorem modifyCore_planned (s : State) (c : Nat) (f : Core → Core) :
    (s.modifyCore c f).planned = s.planned := rfl
@[simp] theorem modifyCore_parks (s : State) (c : Nat) (f : Core → Core) : (s.modifyCore c f).parks = s.parks := rfl
@[simp] theorem modifyCore_watches (s : State) (c : Nat) (f : Core → Core) :
    (s.modifyCore c f).watches = s.watches := rfl
@[simp] theorem modifyCore_notices (s : State) (c : Nat) (f : Core → Core) :
    (s.modifyCore c f).notices = s.notices := rfl
@[simp] theorem modifyCore_maps (s : State) (c : Nat) (f : Core → Core) : (s.modifyCore c f).maps = s.maps := rfl
@[simp] theorem modifyCore_pageStates (s : State) (c : Nat) (f : Core → Core) :
    (s.modifyCore c f).pageStates = s.pageStates := rfl
@[simp] theorem modifyCore_saved (s : State) (c : Nat) (f : Core → Core) : (s.modifyCore c f).saved = s.saved := rfl
@[simp] theorem modifyCore_images (s : State) (c : Nat) (f : Core → Core) :
    (s.modifyCore c f).images = s.images := rfl
@[simp] theorem modifyCore_live (s : State) (c : Nat) (f : Core → Core) : (s.modifyCore c f).live = s.live := rfl
@[simp] theorem modifyCore_waiting (s : State) (c : Nat) (f : Core → Core) :
    (s.modifyCore c f).waiting = s.waiting := rfl
@[simp] theorem modifyCore_returned (s : State) (c : Nat) (f : Core → Core) :
    (s.modifyCore c f).returned = s.returned := rfl
@[simp] theorem modifyCore_spills (s : State) (c : Nat) (f : Core → Core) :
    (s.modifyCore c f).spills = s.spills := rfl
@[simp] theorem modifyCore_levelSince (s : State) (c : Nat) (f : Core → Core) :
    (s.modifyCore c f).levelSince = s.levelSince := rfl
@[simp] theorem modifyCore_rotation (s : State) (c : Nat) (f : Core → Core) :
    (s.modifyCore c f).rotation = s.rotation := rfl
@[simp] theorem modifyCore_starving (s : State) (c : Nat) (f : Core → Core) :
    (s.modifyCore c f).starving = s.starving := rfl
@[simp] theorem modifyCore_dispatchStopped (s : State) (c : Nat) (f : Core → Core) :
    (s.modifyCore c f).dispatchStopped = s.dispatchStopped := rfl
@[simp] theorem modifyCore_lateFaults (s : State) (c : Nat) (f : Core → Core) :
    (s.modifyCore c f).lateFaults = s.lateFaults := rfl
@[simp] theorem modifyCore_tokens (s : State) (c : Nat) (f : Core → Core) :
    (s.modifyCore c f).tokens = s.tokens := rfl
@[simp] theorem modifyCore_requests (s : State) (c : Nat) (f : Core → Core) :
    (s.modifyCore c f).requests = s.requests := rfl
@[simp] theorem modifyCore_incoming (s : State) (c : Nat) (f : Core → Core) :
    (s.modifyCore c f).incoming = s.incoming := rfl
@[simp] theorem modifyCore_glances (s : State) (c : Nat) (f : Core → Core) :
    (s.modifyCore c f).glances = s.glances := rfl
@[simp] theorem modifyCore_ports (s : State) (c : Nat) (f : Core → Core) : (s.modifyCore c f).ports = s.ports := rfl
@[simp] theorem modifyCore_sentMessages (s : State) (c : Nat) (f : Core → Core) :
    (s.modifyCore c f).sentMessages = s.sentMessages := rfl
@[simp] theorem modifyCore_replayedFlits (s : State) (c : Nat) (f : Core → Core) :
    (s.modifyCore c f).replayedFlits = s.replayedFlits := rfl
@[simp] theorem modifyCore_ftimeBase (s : State) (c : Nat) (f : Core → Core) :
    (s.modifyCore c f).ftimeBase = s.ftimeBase := rfl
@[simp] theorem modifyCore_modidLocked (s : State) (c : Nat) (f : Core → Core) :
    (s.modifyCore c f).modidLocked = s.modidLocked := rfl
@[simp] theorem modifyCore_gangStarted (s : State) (c : Nat) (f : Core → Core) :
    (s.modifyCore c f).gangStarted = s.gangStarted := rfl
@[simp] theorem modifyCore_gangReady (s : State) (c : Nat) (f : Core → Core) :
    (s.modifyCore c f).gangReady = s.gangReady := rfl
@[simp] theorem modifyCore_hostRate (s : State) (c : Nat) (f : Core → Core) :
    (s.modifyCore c f).hostRate = s.hostRate := rfl
@[simp] theorem modifyCore_hostWidth (s : State) (c : Nat) (f : Core → Core) :
    (s.modifyCore c f).hostWidth = s.hostWidth := rfl
@[simp] theorem modifyCore_hostCxl (s : State) (c : Nat) (f : Core → Core) :
    (s.modifyCore c f).hostCxl = s.hostCxl := rfl
@[simp] theorem modifyCore_msixOn (s : State) (c : Nat) (f : Core → Core) :
    (s.modifyCore c f).msixOn = s.msixOn := rfl
@[simp] theorem modifyCore_translations (s : State) (c : Nat) (f : Core → Core) :
    (s.modifyCore c f).translations = s.translations := rfl
@[simp] theorem modifyCore_purges (s : State) (c : Nat) (f : Core → Core) :
    (s.modifyCore c f).purges = s.purges := rfl
@[simp] theorem modifyCore_latchMap (s : State) (c : Nat) (f : Core → Core) :
    (s.modifyCore c f).latchMap = s.latchMap := rfl
@[simp] theorem modifyCore_securityMap (s : State) (c : Nat) (f : Core → Core) :
    (s.modifyCore c f).securityMap = s.securityMap := rfl
@[simp] theorem modifyCore_retired (s : State) (c : Nat) (f : Core → Core) :
    (s.modifyCore c f).retired = s.retired := rfl
@[simp] theorem modifyCore_parity (s : State) (c : Nat) (f : Core → Core) :
    (s.modifyCore c f).parity = s.parity := rfl
@[simp] theorem modifyCore_drains (s : State) (c : Nat) (f : Core → Core) :
    (s.modifyCore c f).drains = s.drains := rfl
@[simp] theorem modifyCore_drainImages (s : State) (c : Nat) (f : Core → Core) :
    (s.modifyCore c f).drainImages = s.drainImages := rfl
@[simp] theorem modifyCore_applying (s : State) (c : Nat) (f : Core → Core) :
    (s.modifyCore c f).applying = s.applying := rfl
@[simp] theorem modifyCore_fatal (s : State) (c : Nat) (f : Core → Core) : (s.modifyCore c f).fatal = s.fatal := rfl
@[simp] theorem modifyCore_rehashAt (s : State) (c : Nat) (f : Core → Core) :
    (s.modifyCore c f).rehashAt = s.rehashAt := rfl
@[simp] theorem modifyCore_cxlUncorrected (s : State) (c : Nat) (f : Core → Core) :
    (s.modifyCore c f).cxlUncorrected = s.cxlUncorrected := rfl
@[simp] theorem modifyCore_voltageSince (s : State) (c : Nat) (f : Core → Core) :
    (s.modifyCore c f).voltageSince = s.voltageSince := rfl
@[simp] theorem modifyCore_powerSince (s : State) (c : Nat) (f : Core → Core) :
    (s.modifyCore c f).powerSince = s.powerSince := rfl
@[simp] theorem modifyCore_powerReadings (s : State) (c : Nat) (f : Core → Core) :
    (s.modifyCore c f).powerReadings = s.powerReadings := rfl
@[simp] theorem modifyCore_lateTraces (s : State) (c : Nat) (f : Core → Core) :
    (s.modifyCore c f).lateTraces = s.lateTraces := rfl

@[simp] theorem setWeave_tick (s : State) (c n : Nat) (x : Weave) : (s.setWeave c n x).tick = s.tick := rfl
@[simp] theorem setWeave_agenda (s : State) (c n : Nat) (x : Weave) : (s.setWeave c n x).agenda = s.agenda := rfl
@[simp] theorem setWeave_cur (s : State) (c n : Nat) (x : Weave) : (s.setWeave c n x).cur = s.cur := rfl
@[simp] theorem setWeave_turn (s : State) (c n : Nat) (x : Weave) : (s.setWeave c n x).turn = s.turn := rfl
@[simp] theorem setWeave_serial (s : State) (c n : Nat) (x : Weave) : (s.setWeave c n x).serial = s.serial := rfl
@[simp] theorem setWeave_mem (s : State) (c n : Nat) (x : Weave) : (s.setWeave c n x).mem = s.mem := rfl
@[simp] theorem setWeave_touched (s : State) (c n : Nat) (x : Weave) : (s.setWeave c n x).touched = s.touched := rfl
@[simp] theorem setWeave_spoiled (s : State) (c n : Nat) (x : Weave) : (s.setWeave c n x).spoiled = s.spoiled := rfl
@[simp] theorem setWeave_flash (s : State) (c n : Nat) (x : Weave) : (s.setWeave c n x).flash = s.flash := rfl
@[simp] theorem setWeave_integrity (s : State) (c n : Nat) (x : Weave) :
    (s.setWeave c n x).integrity = s.integrity := rfl
@[simp] theorem setWeave_frames (s : State) (c n : Nat) (x : Weave) : (s.setWeave c n x).frames = s.frames := rfl
@[simp] theorem setWeave_blocks (s : State) (c n : Nat) (x : Weave) : (s.setWeave c n x).blocks = s.blocks := rfl
@[simp] theorem setWeave_routes (s : State) (c n : Nat) (x : Weave) : (s.setWeave c n x).routes = s.routes := rfl
@[simp] theorem setWeave_msix (s : State) (c n : Nat) (x : Weave) : (s.setWeave c n x).msix = s.msix := rfl
@[simp] theorem setWeave_aperture (s : State) (c n : Nat) (x : Weave) :
    (s.setWeave c n x).aperture = s.aperture := rfl
@[simp] theorem setWeave_hostData (s : State) (c n : Nat) (x : Weave) :
    (s.setWeave c n x).hostData = s.hostData := rfl
@[simp] theorem setWeave_vectors (s : State) (c n : Nat) (x : Weave) : (s.setWeave c n x).vectors = s.vectors := rfl
@[simp] theorem setWeave_present (s : State) (c n : Nat) (x : Weave) : (s.setWeave c n x).present = s.present := rfl
@[simp] theorem setWeave_errata (s : State) (c n : Nat) (x : Weave) : (s.setWeave c n x).errata = s.errata := rfl
@[simp] theorem setWeave_binding (s : State) (c n : Nat) (x : Weave) : (s.setWeave c n x).binding = s.binding := rfl
@[simp] theorem setWeave_svn (s : State) (c n : Nat) (x : Weave) : (s.setWeave c n x).svn = s.svn := rfl
@[simp] theorem setWeave_svnFloor (s : State) (c n : Nat) (x : Weave) :
    (s.setWeave c n x).svnFloor = s.svnFloor := rfl
@[simp] theorem setWeave_hashes (s : State) (c n : Nat) (x : Weave) : (s.setWeave c n x).hashes = s.hashes := rfl
@[simp] theorem setWeave_staged (s : State) (c n : Nat) (x : Weave) : (s.setWeave c n x).staged = s.staged := rfl
@[simp] theorem setWeave_bootEpoch (s : State) (c n : Nat) (x : Weave) :
    (s.setWeave c n x).bootEpoch = s.bootEpoch := rfl
@[simp] theorem setWeave_imageSerial (s : State) (c n : Nat) (x : Weave) :
    (s.setWeave c n x).imageSerial = s.imageSerial := rfl
@[simp] theorem setWeave_restored (s : State) (c n : Nat) (x : Weave) :
    (s.setWeave c n x).restored = s.restored := rfl
@[simp] theorem setWeave_quadTlbs (s : State) (c n : Nat) (x : Weave) :
    (s.setWeave c n x).quadTlbs = s.quadTlbs := rfl
@[simp] theorem setWeave_walks (s : State) (c n : Nat) (x : Weave) : (s.setWeave c n x).walks = s.walks := rfl
@[simp] theorem setWeave_dies (s : State) (c n : Nat) (x : Weave) : (s.setWeave c n x).dies = s.dies := rfl
@[simp] theorem setWeave_queues (s : State) (c n : Nat) (x : Weave) : (s.setWeave c n x).queues = s.queues := rfl
@[simp] theorem setWeave_unwritten (s : State) (c n : Nat) (x : Weave) :
    (s.setWeave c n x).unwritten = s.unwritten := rfl
@[simp] theorem setWeave_moves (s : State) (c n : Nat) (x : Weave) : (s.setWeave c n x).moves = s.moves := rfl
@[simp] theorem setWeave_planned (s : State) (c n : Nat) (x : Weave) : (s.setWeave c n x).planned = s.planned := rfl
@[simp] theorem setWeave_parks (s : State) (c n : Nat) (x : Weave) : (s.setWeave c n x).parks = s.parks := rfl
@[simp] theorem setWeave_watches (s : State) (c n : Nat) (x : Weave) : (s.setWeave c n x).watches = s.watches := rfl
@[simp] theorem setWeave_notices (s : State) (c n : Nat) (x : Weave) : (s.setWeave c n x).notices = s.notices := rfl
@[simp] theorem setWeave_maps (s : State) (c n : Nat) (x : Weave) : (s.setWeave c n x).maps = s.maps := rfl
@[simp] theorem setWeave_pageStates (s : State) (c n : Nat) (x : Weave) :
    (s.setWeave c n x).pageStates = s.pageStates := rfl
@[simp] theorem setWeave_saved (s : State) (c n : Nat) (x : Weave) : (s.setWeave c n x).saved = s.saved := rfl
@[simp] theorem setWeave_images (s : State) (c n : Nat) (x : Weave) : (s.setWeave c n x).images = s.images := rfl
@[simp] theorem setWeave_live (s : State) (c n : Nat) (x : Weave) : (s.setWeave c n x).live = s.live := rfl
@[simp] theorem setWeave_waiting (s : State) (c n : Nat) (x : Weave) : (s.setWeave c n x).waiting = s.waiting := rfl
@[simp] theorem setWeave_returned (s : State) (c n : Nat) (x : Weave) :
    (s.setWeave c n x).returned = s.returned := rfl
@[simp] theorem setWeave_spills (s : State) (c n : Nat) (x : Weave) : (s.setWeave c n x).spills = s.spills := rfl
@[simp] theorem setWeave_levelSince (s : State) (c n : Nat) (x : Weave) :
    (s.setWeave c n x).levelSince = s.levelSince := rfl
@[simp] theorem setWeave_rotation (s : State) (c n : Nat) (x : Weave) :
    (s.setWeave c n x).rotation = s.rotation := rfl
@[simp] theorem setWeave_starving (s : State) (c n : Nat) (x : Weave) :
    (s.setWeave c n x).starving = s.starving := rfl
@[simp] theorem setWeave_dispatchStopped (s : State) (c n : Nat) (x : Weave) :
    (s.setWeave c n x).dispatchStopped = s.dispatchStopped := rfl
@[simp] theorem setWeave_lateFaults (s : State) (c n : Nat) (x : Weave) :
    (s.setWeave c n x).lateFaults = s.lateFaults := rfl
@[simp] theorem setWeave_tokens (s : State) (c n : Nat) (x : Weave) : (s.setWeave c n x).tokens = s.tokens := rfl
@[simp] theorem setWeave_requests (s : State) (c n : Nat) (x : Weave) :
    (s.setWeave c n x).requests = s.requests := rfl
@[simp] theorem setWeave_incoming (s : State) (c n : Nat) (x : Weave) :
    (s.setWeave c n x).incoming = s.incoming := rfl
@[simp] theorem setWeave_glances (s : State) (c n : Nat) (x : Weave) : (s.setWeave c n x).glances = s.glances := rfl
@[simp] theorem setWeave_ports (s : State) (c n : Nat) (x : Weave) : (s.setWeave c n x).ports = s.ports := rfl
@[simp] theorem setWeave_sentMessages (s : State) (c n : Nat) (x : Weave) :
    (s.setWeave c n x).sentMessages = s.sentMessages := rfl
@[simp] theorem setWeave_replayedFlits (s : State) (c n : Nat) (x : Weave) :
    (s.setWeave c n x).replayedFlits = s.replayedFlits := rfl
@[simp] theorem setWeave_ftimeBase (s : State) (c n : Nat) (x : Weave) :
    (s.setWeave c n x).ftimeBase = s.ftimeBase := rfl
@[simp] theorem setWeave_modidLocked (s : State) (c n : Nat) (x : Weave) :
    (s.setWeave c n x).modidLocked = s.modidLocked := rfl
@[simp] theorem setWeave_gangStarted (s : State) (c n : Nat) (x : Weave) :
    (s.setWeave c n x).gangStarted = s.gangStarted := rfl
@[simp] theorem setWeave_gangReady (s : State) (c n : Nat) (x : Weave) :
    (s.setWeave c n x).gangReady = s.gangReady := rfl
@[simp] theorem setWeave_hostRate (s : State) (c n : Nat) (x : Weave) :
    (s.setWeave c n x).hostRate = s.hostRate := rfl
@[simp] theorem setWeave_hostWidth (s : State) (c n : Nat) (x : Weave) :
    (s.setWeave c n x).hostWidth = s.hostWidth := rfl
@[simp] theorem setWeave_hostCxl (s : State) (c n : Nat) (x : Weave) : (s.setWeave c n x).hostCxl = s.hostCxl := rfl
@[simp] theorem setWeave_msixOn (s : State) (c n : Nat) (x : Weave) : (s.setWeave c n x).msixOn = s.msixOn := rfl
@[simp] theorem setWeave_translations (s : State) (c n : Nat) (x : Weave) :
    (s.setWeave c n x).translations = s.translations := rfl
@[simp] theorem setWeave_purges (s : State) (c n : Nat) (x : Weave) : (s.setWeave c n x).purges = s.purges := rfl
@[simp] theorem setWeave_latchMap (s : State) (c n : Nat) (x : Weave) :
    (s.setWeave c n x).latchMap = s.latchMap := rfl
@[simp] theorem setWeave_securityMap (s : State) (c n : Nat) (x : Weave) :
    (s.setWeave c n x).securityMap = s.securityMap := rfl
@[simp] theorem setWeave_retired (s : State) (c n : Nat) (x : Weave) : (s.setWeave c n x).retired = s.retired := rfl
@[simp] theorem setWeave_parity (s : State) (c n : Nat) (x : Weave) : (s.setWeave c n x).parity = s.parity := rfl
@[simp] theorem setWeave_drains (s : State) (c n : Nat) (x : Weave) : (s.setWeave c n x).drains = s.drains := rfl
@[simp] theorem setWeave_drainImages (s : State) (c n : Nat) (x : Weave) :
    (s.setWeave c n x).drainImages = s.drainImages := rfl
@[simp] theorem setWeave_applying (s : State) (c n : Nat) (x : Weave) :
    (s.setWeave c n x).applying = s.applying := rfl
@[simp] theorem setWeave_fatal (s : State) (c n : Nat) (x : Weave) : (s.setWeave c n x).fatal = s.fatal := rfl
@[simp] theorem setWeave_rehashAt (s : State) (c n : Nat) (x : Weave) :
    (s.setWeave c n x).rehashAt = s.rehashAt := rfl
@[simp] theorem setWeave_cxlUncorrected (s : State) (c n : Nat) (x : Weave) :
    (s.setWeave c n x).cxlUncorrected = s.cxlUncorrected := rfl
@[simp] theorem setWeave_voltageSince (s : State) (c n : Nat) (x : Weave) :
    (s.setWeave c n x).voltageSince = s.voltageSince := rfl
@[simp] theorem setWeave_powerSince (s : State) (c n : Nat) (x : Weave) :
    (s.setWeave c n x).powerSince = s.powerSince := rfl
@[simp] theorem setWeave_powerReadings (s : State) (c n : Nat) (x : Weave) :
    (s.setWeave c n x).powerReadings = s.powerReadings := rfl
@[simp] theorem setWeave_lateTraces (s : State) (c n : Nat) (x : Weave) :
    (s.setWeave c n x).lateTraces = s.lateTraces := rfl

@[simp] theorem setBlock_tick (s : State) (o v : Nat) : (s.setBlock o v).tick = s.tick := rfl
@[simp] theorem setBlock_agenda (s : State) (o v : Nat) : (s.setBlock o v).agenda = s.agenda := rfl
@[simp] theorem setBlock_cur (s : State) (o v : Nat) : (s.setBlock o v).cur = s.cur := rfl
@[simp] theorem setBlock_turn (s : State) (o v : Nat) : (s.setBlock o v).turn = s.turn := rfl
@[simp] theorem setBlock_serial (s : State) (o v : Nat) : (s.setBlock o v).serial = s.serial := rfl
@[simp] theorem setBlock_mem (s : State) (o v : Nat) : (s.setBlock o v).mem = s.mem := rfl
@[simp] theorem setBlock_touched (s : State) (o v : Nat) : (s.setBlock o v).touched = s.touched := rfl
@[simp] theorem setBlock_spoiled (s : State) (o v : Nat) : (s.setBlock o v).spoiled = s.spoiled := rfl
@[simp] theorem setBlock_flash (s : State) (o v : Nat) : (s.setBlock o v).flash = s.flash := rfl
@[simp] theorem setBlock_integrity (s : State) (o v : Nat) : (s.setBlock o v).integrity = s.integrity := rfl
@[simp] theorem setBlock_frames (s : State) (o v : Nat) : (s.setBlock o v).frames = s.frames := rfl
@[simp] theorem setBlock_routes (s : State) (o v : Nat) : (s.setBlock o v).routes = s.routes := rfl
@[simp] theorem setBlock_msix (s : State) (o v : Nat) : (s.setBlock o v).msix = s.msix := rfl
@[simp] theorem setBlock_aperture (s : State) (o v : Nat) : (s.setBlock o v).aperture = s.aperture := rfl
@[simp] theorem setBlock_hostData (s : State) (o v : Nat) : (s.setBlock o v).hostData = s.hostData := rfl
@[simp] theorem setBlock_vectors (s : State) (o v : Nat) : (s.setBlock o v).vectors = s.vectors := rfl
@[simp] theorem setBlock_present (s : State) (o v : Nat) : (s.setBlock o v).present = s.present := rfl
@[simp] theorem setBlock_errata (s : State) (o v : Nat) : (s.setBlock o v).errata = s.errata := rfl
@[simp] theorem setBlock_binding (s : State) (o v : Nat) : (s.setBlock o v).binding = s.binding := rfl
@[simp] theorem setBlock_svn (s : State) (o v : Nat) : (s.setBlock o v).svn = s.svn := rfl
@[simp] theorem setBlock_svnFloor (s : State) (o v : Nat) : (s.setBlock o v).svnFloor = s.svnFloor := rfl
@[simp] theorem setBlock_hashes (s : State) (o v : Nat) : (s.setBlock o v).hashes = s.hashes := rfl
@[simp] theorem setBlock_staged (s : State) (o v : Nat) : (s.setBlock o v).staged = s.staged := rfl
@[simp] theorem setBlock_bootEpoch (s : State) (o v : Nat) : (s.setBlock o v).bootEpoch = s.bootEpoch := rfl
@[simp] theorem setBlock_imageSerial (s : State) (o v : Nat) : (s.setBlock o v).imageSerial = s.imageSerial := rfl
@[simp] theorem setBlock_restored (s : State) (o v : Nat) : (s.setBlock o v).restored = s.restored := rfl
@[simp] theorem setBlock_cores (s : State) (o v : Nat) : (s.setBlock o v).cores = s.cores := rfl
@[simp] theorem setBlock_quadTlbs (s : State) (o v : Nat) : (s.setBlock o v).quadTlbs = s.quadTlbs := rfl
@[simp] theorem setBlock_walks (s : State) (o v : Nat) : (s.setBlock o v).walks = s.walks := rfl
@[simp] theorem setBlock_dies (s : State) (o v : Nat) : (s.setBlock o v).dies = s.dies := rfl
@[simp] theorem setBlock_queues (s : State) (o v : Nat) : (s.setBlock o v).queues = s.queues := rfl
@[simp] theorem setBlock_unwritten (s : State) (o v : Nat) : (s.setBlock o v).unwritten = s.unwritten := rfl
@[simp] theorem setBlock_moves (s : State) (o v : Nat) : (s.setBlock o v).moves = s.moves := rfl
@[simp] theorem setBlock_planned (s : State) (o v : Nat) : (s.setBlock o v).planned = s.planned := rfl
@[simp] theorem setBlock_parks (s : State) (o v : Nat) : (s.setBlock o v).parks = s.parks := rfl
@[simp] theorem setBlock_watches (s : State) (o v : Nat) : (s.setBlock o v).watches = s.watches := rfl
@[simp] theorem setBlock_notices (s : State) (o v : Nat) : (s.setBlock o v).notices = s.notices := rfl
@[simp] theorem setBlock_maps (s : State) (o v : Nat) : (s.setBlock o v).maps = s.maps := rfl
@[simp] theorem setBlock_pageStates (s : State) (o v : Nat) : (s.setBlock o v).pageStates = s.pageStates := rfl
@[simp] theorem setBlock_saved (s : State) (o v : Nat) : (s.setBlock o v).saved = s.saved := rfl
@[simp] theorem setBlock_images (s : State) (o v : Nat) : (s.setBlock o v).images = s.images := rfl
@[simp] theorem setBlock_live (s : State) (o v : Nat) : (s.setBlock o v).live = s.live := rfl
@[simp] theorem setBlock_waiting (s : State) (o v : Nat) : (s.setBlock o v).waiting = s.waiting := rfl
@[simp] theorem setBlock_returned (s : State) (o v : Nat) : (s.setBlock o v).returned = s.returned := rfl
@[simp] theorem setBlock_spills (s : State) (o v : Nat) : (s.setBlock o v).spills = s.spills := rfl
@[simp] theorem setBlock_levelSince (s : State) (o v : Nat) : (s.setBlock o v).levelSince = s.levelSince := rfl
@[simp] theorem setBlock_rotation (s : State) (o v : Nat) : (s.setBlock o v).rotation = s.rotation := rfl
@[simp] theorem setBlock_starving (s : State) (o v : Nat) : (s.setBlock o v).starving = s.starving := rfl
@[simp] theorem setBlock_dispatchStopped (s : State) (o v : Nat) :
    (s.setBlock o v).dispatchStopped = s.dispatchStopped := rfl
@[simp] theorem setBlock_lateFaults (s : State) (o v : Nat) : (s.setBlock o v).lateFaults = s.lateFaults := rfl
@[simp] theorem setBlock_tokens (s : State) (o v : Nat) : (s.setBlock o v).tokens = s.tokens := rfl
@[simp] theorem setBlock_requests (s : State) (o v : Nat) : (s.setBlock o v).requests = s.requests := rfl
@[simp] theorem setBlock_incoming (s : State) (o v : Nat) : (s.setBlock o v).incoming = s.incoming := rfl
@[simp] theorem setBlock_glances (s : State) (o v : Nat) : (s.setBlock o v).glances = s.glances := rfl
@[simp] theorem setBlock_ports (s : State) (o v : Nat) : (s.setBlock o v).ports = s.ports := rfl
@[simp] theorem setBlock_sentMessages (s : State) (o v : Nat) : (s.setBlock o v).sentMessages = s.sentMessages := rfl
@[simp] theorem setBlock_replayedFlits (s : State) (o v : Nat) :
    (s.setBlock o v).replayedFlits = s.replayedFlits := rfl
@[simp] theorem setBlock_ftimeBase (s : State) (o v : Nat) : (s.setBlock o v).ftimeBase = s.ftimeBase := rfl
@[simp] theorem setBlock_modidLocked (s : State) (o v : Nat) : (s.setBlock o v).modidLocked = s.modidLocked := rfl
@[simp] theorem setBlock_gangStarted (s : State) (o v : Nat) : (s.setBlock o v).gangStarted = s.gangStarted := rfl
@[simp] theorem setBlock_gangReady (s : State) (o v : Nat) : (s.setBlock o v).gangReady = s.gangReady := rfl
@[simp] theorem setBlock_hostRate (s : State) (o v : Nat) : (s.setBlock o v).hostRate = s.hostRate := rfl
@[simp] theorem setBlock_hostWidth (s : State) (o v : Nat) : (s.setBlock o v).hostWidth = s.hostWidth := rfl
@[simp] theorem setBlock_hostCxl (s : State) (o v : Nat) : (s.setBlock o v).hostCxl = s.hostCxl := rfl
@[simp] theorem setBlock_msixOn (s : State) (o v : Nat) : (s.setBlock o v).msixOn = s.msixOn := rfl
@[simp] theorem setBlock_translations (s : State) (o v : Nat) : (s.setBlock o v).translations = s.translations := rfl
@[simp] theorem setBlock_purges (s : State) (o v : Nat) : (s.setBlock o v).purges = s.purges := rfl
@[simp] theorem setBlock_latchMap (s : State) (o v : Nat) : (s.setBlock o v).latchMap = s.latchMap := rfl
@[simp] theorem setBlock_securityMap (s : State) (o v : Nat) : (s.setBlock o v).securityMap = s.securityMap := rfl
@[simp] theorem setBlock_retired (s : State) (o v : Nat) : (s.setBlock o v).retired = s.retired := rfl
@[simp] theorem setBlock_parity (s : State) (o v : Nat) : (s.setBlock o v).parity = s.parity := rfl
@[simp] theorem setBlock_drains (s : State) (o v : Nat) : (s.setBlock o v).drains = s.drains := rfl
@[simp] theorem setBlock_drainImages (s : State) (o v : Nat) : (s.setBlock o v).drainImages = s.drainImages := rfl
@[simp] theorem setBlock_applying (s : State) (o v : Nat) : (s.setBlock o v).applying = s.applying := rfl
@[simp] theorem setBlock_fatal (s : State) (o v : Nat) : (s.setBlock o v).fatal = s.fatal := rfl
@[simp] theorem setBlock_rehashAt (s : State) (o v : Nat) : (s.setBlock o v).rehashAt = s.rehashAt := rfl
@[simp] theorem setBlock_cxlUncorrected (s : State) (o v : Nat) :
    (s.setBlock o v).cxlUncorrected = s.cxlUncorrected := rfl
@[simp] theorem setBlock_voltageSince (s : State) (o v : Nat) : (s.setBlock o v).voltageSince = s.voltageSince := rfl
@[simp] theorem setBlock_powerSince (s : State) (o v : Nat) : (s.setBlock o v).powerSince = s.powerSince := rfl
@[simp] theorem setBlock_powerReadings (s : State) (o v : Nat) :
    (s.setBlock o v).powerReadings = s.powerReadings := rfl
@[simp] theorem setBlock_lateTraces (s : State) (o v : Nat) : (s.setBlock o v).lateTraces = s.lateTraces := rfl

@[simp] theorem setField_tick (s : State) (o h l v : Nat) : (s.setField o h l v).tick = s.tick := rfl
@[simp] theorem setField_agenda (s : State) (o h l v : Nat) : (s.setField o h l v).agenda = s.agenda := rfl
@[simp] theorem setField_cur (s : State) (o h l v : Nat) : (s.setField o h l v).cur = s.cur := rfl
@[simp] theorem setField_turn (s : State) (o h l v : Nat) : (s.setField o h l v).turn = s.turn := rfl
@[simp] theorem setField_serial (s : State) (o h l v : Nat) : (s.setField o h l v).serial = s.serial := rfl
@[simp] theorem setField_mem (s : State) (o h l v : Nat) : (s.setField o h l v).mem = s.mem := rfl
@[simp] theorem setField_touched (s : State) (o h l v : Nat) : (s.setField o h l v).touched = s.touched := rfl
@[simp] theorem setField_spoiled (s : State) (o h l v : Nat) : (s.setField o h l v).spoiled = s.spoiled := rfl
@[simp] theorem setField_flash (s : State) (o h l v : Nat) : (s.setField o h l v).flash = s.flash := rfl
@[simp] theorem setField_integrity (s : State) (o h l v : Nat) : (s.setField o h l v).integrity = s.integrity := rfl
@[simp] theorem setField_frames (s : State) (o h l v : Nat) : (s.setField o h l v).frames = s.frames := rfl
@[simp] theorem setField_routes (s : State) (o h l v : Nat) : (s.setField o h l v).routes = s.routes := rfl
@[simp] theorem setField_msix (s : State) (o h l v : Nat) : (s.setField o h l v).msix = s.msix := rfl
@[simp] theorem setField_aperture (s : State) (o h l v : Nat) : (s.setField o h l v).aperture = s.aperture := rfl
@[simp] theorem setField_hostData (s : State) (o h l v : Nat) : (s.setField o h l v).hostData = s.hostData := rfl
@[simp] theorem setField_vectors (s : State) (o h l v : Nat) : (s.setField o h l v).vectors = s.vectors := rfl
@[simp] theorem setField_present (s : State) (o h l v : Nat) : (s.setField o h l v).present = s.present := rfl
@[simp] theorem setField_errata (s : State) (o h l v : Nat) : (s.setField o h l v).errata = s.errata := rfl
@[simp] theorem setField_binding (s : State) (o h l v : Nat) : (s.setField o h l v).binding = s.binding := rfl
@[simp] theorem setField_svn (s : State) (o h l v : Nat) : (s.setField o h l v).svn = s.svn := rfl
@[simp] theorem setField_svnFloor (s : State) (o h l v : Nat) : (s.setField o h l v).svnFloor = s.svnFloor := rfl
@[simp] theorem setField_hashes (s : State) (o h l v : Nat) : (s.setField o h l v).hashes = s.hashes := rfl
@[simp] theorem setField_staged (s : State) (o h l v : Nat) : (s.setField o h l v).staged = s.staged := rfl
@[simp] theorem setField_bootEpoch (s : State) (o h l v : Nat) : (s.setField o h l v).bootEpoch = s.bootEpoch := rfl
@[simp] theorem setField_imageSerial (s : State) (o h l v : Nat) :
    (s.setField o h l v).imageSerial = s.imageSerial := rfl
@[simp] theorem setField_restored (s : State) (o h l v : Nat) : (s.setField o h l v).restored = s.restored := rfl
@[simp] theorem setField_cores (s : State) (o h l v : Nat) : (s.setField o h l v).cores = s.cores := rfl
@[simp] theorem setField_quadTlbs (s : State) (o h l v : Nat) : (s.setField o h l v).quadTlbs = s.quadTlbs := rfl
@[simp] theorem setField_walks (s : State) (o h l v : Nat) : (s.setField o h l v).walks = s.walks := rfl
@[simp] theorem setField_dies (s : State) (o h l v : Nat) : (s.setField o h l v).dies = s.dies := rfl
@[simp] theorem setField_queues (s : State) (o h l v : Nat) : (s.setField o h l v).queues = s.queues := rfl
@[simp] theorem setField_unwritten (s : State) (o h l v : Nat) : (s.setField o h l v).unwritten = s.unwritten := rfl
@[simp] theorem setField_moves (s : State) (o h l v : Nat) : (s.setField o h l v).moves = s.moves := rfl
@[simp] theorem setField_planned (s : State) (o h l v : Nat) : (s.setField o h l v).planned = s.planned := rfl
@[simp] theorem setField_parks (s : State) (o h l v : Nat) : (s.setField o h l v).parks = s.parks := rfl
@[simp] theorem setField_watches (s : State) (o h l v : Nat) : (s.setField o h l v).watches = s.watches := rfl
@[simp] theorem setField_notices (s : State) (o h l v : Nat) : (s.setField o h l v).notices = s.notices := rfl
@[simp] theorem setField_maps (s : State) (o h l v : Nat) : (s.setField o h l v).maps = s.maps := rfl
@[simp] theorem setField_pageStates (s : State) (o h l v : Nat) :
    (s.setField o h l v).pageStates = s.pageStates := rfl
@[simp] theorem setField_saved (s : State) (o h l v : Nat) : (s.setField o h l v).saved = s.saved := rfl
@[simp] theorem setField_images (s : State) (o h l v : Nat) : (s.setField o h l v).images = s.images := rfl
@[simp] theorem setField_live (s : State) (o h l v : Nat) : (s.setField o h l v).live = s.live := rfl
@[simp] theorem setField_waiting (s : State) (o h l v : Nat) : (s.setField o h l v).waiting = s.waiting := rfl
@[simp] theorem setField_returned (s : State) (o h l v : Nat) : (s.setField o h l v).returned = s.returned := rfl
@[simp] theorem setField_spills (s : State) (o h l v : Nat) : (s.setField o h l v).spills = s.spills := rfl
@[simp] theorem setField_levelSince (s : State) (o h l v : Nat) :
    (s.setField o h l v).levelSince = s.levelSince := rfl
@[simp] theorem setField_rotation (s : State) (o h l v : Nat) : (s.setField o h l v).rotation = s.rotation := rfl
@[simp] theorem setField_starving (s : State) (o h l v : Nat) : (s.setField o h l v).starving = s.starving := rfl
@[simp] theorem setField_dispatchStopped (s : State) (o h l v : Nat) :
    (s.setField o h l v).dispatchStopped = s.dispatchStopped := rfl
@[simp] theorem setField_lateFaults (s : State) (o h l v : Nat) :
    (s.setField o h l v).lateFaults = s.lateFaults := rfl
@[simp] theorem setField_tokens (s : State) (o h l v : Nat) : (s.setField o h l v).tokens = s.tokens := rfl
@[simp] theorem setField_requests (s : State) (o h l v : Nat) : (s.setField o h l v).requests = s.requests := rfl
@[simp] theorem setField_incoming (s : State) (o h l v : Nat) : (s.setField o h l v).incoming = s.incoming := rfl
@[simp] theorem setField_glances (s : State) (o h l v : Nat) : (s.setField o h l v).glances = s.glances := rfl
@[simp] theorem setField_ports (s : State) (o h l v : Nat) : (s.setField o h l v).ports = s.ports := rfl
@[simp] theorem setField_sentMessages (s : State) (o h l v : Nat) :
    (s.setField o h l v).sentMessages = s.sentMessages := rfl
@[simp] theorem setField_replayedFlits (s : State) (o h l v : Nat) :
    (s.setField o h l v).replayedFlits = s.replayedFlits := rfl
@[simp] theorem setField_ftimeBase (s : State) (o h l v : Nat) : (s.setField o h l v).ftimeBase = s.ftimeBase := rfl
@[simp] theorem setField_modidLocked (s : State) (o h l v : Nat) :
    (s.setField o h l v).modidLocked = s.modidLocked := rfl
@[simp] theorem setField_gangStarted (s : State) (o h l v : Nat) :
    (s.setField o h l v).gangStarted = s.gangStarted := rfl
@[simp] theorem setField_gangReady (s : State) (o h l v : Nat) : (s.setField o h l v).gangReady = s.gangReady := rfl
@[simp] theorem setField_hostRate (s : State) (o h l v : Nat) : (s.setField o h l v).hostRate = s.hostRate := rfl
@[simp] theorem setField_hostWidth (s : State) (o h l v : Nat) : (s.setField o h l v).hostWidth = s.hostWidth := rfl
@[simp] theorem setField_hostCxl (s : State) (o h l v : Nat) : (s.setField o h l v).hostCxl = s.hostCxl := rfl
@[simp] theorem setField_msixOn (s : State) (o h l v : Nat) : (s.setField o h l v).msixOn = s.msixOn := rfl
@[simp] theorem setField_translations (s : State) (o h l v : Nat) :
    (s.setField o h l v).translations = s.translations := rfl
@[simp] theorem setField_purges (s : State) (o h l v : Nat) : (s.setField o h l v).purges = s.purges := rfl
@[simp] theorem setField_latchMap (s : State) (o h l v : Nat) : (s.setField o h l v).latchMap = s.latchMap := rfl
@[simp] theorem setField_securityMap (s : State) (o h l v : Nat) :
    (s.setField o h l v).securityMap = s.securityMap := rfl
@[simp] theorem setField_retired (s : State) (o h l v : Nat) : (s.setField o h l v).retired = s.retired := rfl
@[simp] theorem setField_parity (s : State) (o h l v : Nat) : (s.setField o h l v).parity = s.parity := rfl
@[simp] theorem setField_drains (s : State) (o h l v : Nat) : (s.setField o h l v).drains = s.drains := rfl
@[simp] theorem setField_drainImages (s : State) (o h l v : Nat) :
    (s.setField o h l v).drainImages = s.drainImages := rfl
@[simp] theorem setField_applying (s : State) (o h l v : Nat) : (s.setField o h l v).applying = s.applying := rfl
@[simp] theorem setField_fatal (s : State) (o h l v : Nat) : (s.setField o h l v).fatal = s.fatal := rfl
@[simp] theorem setField_rehashAt (s : State) (o h l v : Nat) : (s.setField o h l v).rehashAt = s.rehashAt := rfl
@[simp] theorem setField_cxlUncorrected (s : State) (o h l v : Nat) :
    (s.setField o h l v).cxlUncorrected = s.cxlUncorrected := rfl
@[simp] theorem setField_voltageSince (s : State) (o h l v : Nat) :
    (s.setField o h l v).voltageSince = s.voltageSince := rfl
@[simp] theorem setField_powerSince (s : State) (o h l v : Nat) :
    (s.setField o h l v).powerSince = s.powerSince := rfl
@[simp] theorem setField_powerReadings (s : State) (o h l v : Nat) :
    (s.setField o h l v).powerReadings = s.powerReadings := rfl
@[simp] theorem setField_lateTraces (s : State) (o h l v : Nat) :
    (s.setField o h l v).lateTraces = s.lateTraces := rfl

@[simp] theorem modifyDie_tick (s : State) (d : Nat) (f : Die → Die) : (s.modifyDie d f).tick = s.tick := rfl
@[simp] theorem modifyDie_agenda (s : State) (d : Nat) (f : Die → Die) : (s.modifyDie d f).agenda = s.agenda := rfl
@[simp] theorem modifyDie_cur (s : State) (d : Nat) (f : Die → Die) : (s.modifyDie d f).cur = s.cur := rfl
@[simp] theorem modifyDie_turn (s : State) (d : Nat) (f : Die → Die) : (s.modifyDie d f).turn = s.turn := rfl
@[simp] theorem modifyDie_serial (s : State) (d : Nat) (f : Die → Die) : (s.modifyDie d f).serial = s.serial := rfl
@[simp] theorem modifyDie_mem (s : State) (d : Nat) (f : Die → Die) : (s.modifyDie d f).mem = s.mem := rfl
@[simp] theorem modifyDie_touched (s : State) (d : Nat) (f : Die → Die) : (s.modifyDie d f).touched = s.touched := rfl
@[simp] theorem modifyDie_spoiled (s : State) (d : Nat) (f : Die → Die) : (s.modifyDie d f).spoiled = s.spoiled := rfl
@[simp] theorem modifyDie_flash (s : State) (d : Nat) (f : Die → Die) : (s.modifyDie d f).flash = s.flash := rfl
@[simp] theorem modifyDie_integrity (s : State) (d : Nat) (f : Die → Die) :
    (s.modifyDie d f).integrity = s.integrity := rfl
@[simp] theorem modifyDie_frames (s : State) (d : Nat) (f : Die → Die) : (s.modifyDie d f).frames = s.frames := rfl
@[simp] theorem modifyDie_blocks (s : State) (d : Nat) (f : Die → Die) : (s.modifyDie d f).blocks = s.blocks := rfl
@[simp] theorem modifyDie_routes (s : State) (d : Nat) (f : Die → Die) : (s.modifyDie d f).routes = s.routes := rfl
@[simp] theorem modifyDie_msix (s : State) (d : Nat) (f : Die → Die) : (s.modifyDie d f).msix = s.msix := rfl
@[simp] theorem modifyDie_aperture (s : State) (d : Nat) (f : Die → Die) :
    (s.modifyDie d f).aperture = s.aperture := rfl
@[simp] theorem modifyDie_hostData (s : State) (d : Nat) (f : Die → Die) :
    (s.modifyDie d f).hostData = s.hostData := rfl
@[simp] theorem modifyDie_vectors (s : State) (d : Nat) (f : Die → Die) : (s.modifyDie d f).vectors = s.vectors := rfl
@[simp] theorem modifyDie_present (s : State) (d : Nat) (f : Die → Die) : (s.modifyDie d f).present = s.present := rfl
@[simp] theorem modifyDie_errata (s : State) (d : Nat) (f : Die → Die) : (s.modifyDie d f).errata = s.errata := rfl
@[simp] theorem modifyDie_binding (s : State) (d : Nat) (f : Die → Die) : (s.modifyDie d f).binding = s.binding := rfl
@[simp] theorem modifyDie_svn (s : State) (d : Nat) (f : Die → Die) : (s.modifyDie d f).svn = s.svn := rfl
@[simp] theorem modifyDie_svnFloor (s : State) (d : Nat) (f : Die → Die) :
    (s.modifyDie d f).svnFloor = s.svnFloor := rfl
@[simp] theorem modifyDie_hashes (s : State) (d : Nat) (f : Die → Die) : (s.modifyDie d f).hashes = s.hashes := rfl
@[simp] theorem modifyDie_staged (s : State) (d : Nat) (f : Die → Die) : (s.modifyDie d f).staged = s.staged := rfl
@[simp] theorem modifyDie_bootEpoch (s : State) (d : Nat) (f : Die → Die) :
    (s.modifyDie d f).bootEpoch = s.bootEpoch := rfl
@[simp] theorem modifyDie_imageSerial (s : State) (d : Nat) (f : Die → Die) :
    (s.modifyDie d f).imageSerial = s.imageSerial := rfl
@[simp] theorem modifyDie_restored (s : State) (d : Nat) (f : Die → Die) :
    (s.modifyDie d f).restored = s.restored := rfl
@[simp] theorem modifyDie_cores (s : State) (d : Nat) (f : Die → Die) : (s.modifyDie d f).cores = s.cores := rfl
@[simp] theorem modifyDie_quadTlbs (s : State) (d : Nat) (f : Die → Die) :
    (s.modifyDie d f).quadTlbs = s.quadTlbs := rfl
@[simp] theorem modifyDie_walks (s : State) (d : Nat) (f : Die → Die) : (s.modifyDie d f).walks = s.walks := rfl
@[simp] theorem modifyDie_queues (s : State) (d : Nat) (f : Die → Die) : (s.modifyDie d f).queues = s.queues := rfl
@[simp] theorem modifyDie_unwritten (s : State) (d : Nat) (f : Die → Die) :
    (s.modifyDie d f).unwritten = s.unwritten := rfl
@[simp] theorem modifyDie_moves (s : State) (d : Nat) (f : Die → Die) : (s.modifyDie d f).moves = s.moves := rfl
@[simp] theorem modifyDie_planned (s : State) (d : Nat) (f : Die → Die) : (s.modifyDie d f).planned = s.planned := rfl
@[simp] theorem modifyDie_parks (s : State) (d : Nat) (f : Die → Die) : (s.modifyDie d f).parks = s.parks := rfl
@[simp] theorem modifyDie_watches (s : State) (d : Nat) (f : Die → Die) : (s.modifyDie d f).watches = s.watches := rfl
@[simp] theorem modifyDie_notices (s : State) (d : Nat) (f : Die → Die) : (s.modifyDie d f).notices = s.notices := rfl
@[simp] theorem modifyDie_maps (s : State) (d : Nat) (f : Die → Die) : (s.modifyDie d f).maps = s.maps := rfl
@[simp] theorem modifyDie_pageStates (s : State) (d : Nat) (f : Die → Die) :
    (s.modifyDie d f).pageStates = s.pageStates := rfl
@[simp] theorem modifyDie_saved (s : State) (d : Nat) (f : Die → Die) : (s.modifyDie d f).saved = s.saved := rfl
@[simp] theorem modifyDie_images (s : State) (d : Nat) (f : Die → Die) : (s.modifyDie d f).images = s.images := rfl
@[simp] theorem modifyDie_live (s : State) (d : Nat) (f : Die → Die) : (s.modifyDie d f).live = s.live := rfl
@[simp] theorem modifyDie_waiting (s : State) (d : Nat) (f : Die → Die) : (s.modifyDie d f).waiting = s.waiting := rfl
@[simp] theorem modifyDie_returned (s : State) (d : Nat) (f : Die → Die) :
    (s.modifyDie d f).returned = s.returned := rfl
@[simp] theorem modifyDie_spills (s : State) (d : Nat) (f : Die → Die) : (s.modifyDie d f).spills = s.spills := rfl
@[simp] theorem modifyDie_levelSince (s : State) (d : Nat) (f : Die → Die) :
    (s.modifyDie d f).levelSince = s.levelSince := rfl
@[simp] theorem modifyDie_rotation (s : State) (d : Nat) (f : Die → Die) :
    (s.modifyDie d f).rotation = s.rotation := rfl
@[simp] theorem modifyDie_starving (s : State) (d : Nat) (f : Die → Die) :
    (s.modifyDie d f).starving = s.starving := rfl
@[simp] theorem modifyDie_dispatchStopped (s : State) (d : Nat) (f : Die → Die) :
    (s.modifyDie d f).dispatchStopped = s.dispatchStopped := rfl
@[simp] theorem modifyDie_lateFaults (s : State) (d : Nat) (f : Die → Die) :
    (s.modifyDie d f).lateFaults = s.lateFaults := rfl
@[simp] theorem modifyDie_tokens (s : State) (d : Nat) (f : Die → Die) : (s.modifyDie d f).tokens = s.tokens := rfl
@[simp] theorem modifyDie_requests (s : State) (d : Nat) (f : Die → Die) :
    (s.modifyDie d f).requests = s.requests := rfl
@[simp] theorem modifyDie_incoming (s : State) (d : Nat) (f : Die → Die) :
    (s.modifyDie d f).incoming = s.incoming := rfl
@[simp] theorem modifyDie_glances (s : State) (d : Nat) (f : Die → Die) : (s.modifyDie d f).glances = s.glances := rfl
@[simp] theorem modifyDie_ports (s : State) (d : Nat) (f : Die → Die) : (s.modifyDie d f).ports = s.ports := rfl
@[simp] theorem modifyDie_sentMessages (s : State) (d : Nat) (f : Die → Die) :
    (s.modifyDie d f).sentMessages = s.sentMessages := rfl
@[simp] theorem modifyDie_replayedFlits (s : State) (d : Nat) (f : Die → Die) :
    (s.modifyDie d f).replayedFlits = s.replayedFlits := rfl
@[simp] theorem modifyDie_ftimeBase (s : State) (d : Nat) (f : Die → Die) :
    (s.modifyDie d f).ftimeBase = s.ftimeBase := rfl
@[simp] theorem modifyDie_modidLocked (s : State) (d : Nat) (f : Die → Die) :
    (s.modifyDie d f).modidLocked = s.modidLocked := rfl
@[simp] theorem modifyDie_gangStarted (s : State) (d : Nat) (f : Die → Die) :
    (s.modifyDie d f).gangStarted = s.gangStarted := rfl
@[simp] theorem modifyDie_gangReady (s : State) (d : Nat) (f : Die → Die) :
    (s.modifyDie d f).gangReady = s.gangReady := rfl
@[simp] theorem modifyDie_hostRate (s : State) (d : Nat) (f : Die → Die) :
    (s.modifyDie d f).hostRate = s.hostRate := rfl
@[simp] theorem modifyDie_hostWidth (s : State) (d : Nat) (f : Die → Die) :
    (s.modifyDie d f).hostWidth = s.hostWidth := rfl
@[simp] theorem modifyDie_hostCxl (s : State) (d : Nat) (f : Die → Die) : (s.modifyDie d f).hostCxl = s.hostCxl := rfl
@[simp] theorem modifyDie_msixOn (s : State) (d : Nat) (f : Die → Die) : (s.modifyDie d f).msixOn = s.msixOn := rfl
@[simp] theorem modifyDie_translations (s : State) (d : Nat) (f : Die → Die) :
    (s.modifyDie d f).translations = s.translations := rfl
@[simp] theorem modifyDie_purges (s : State) (d : Nat) (f : Die → Die) : (s.modifyDie d f).purges = s.purges := rfl
@[simp] theorem modifyDie_latchMap (s : State) (d : Nat) (f : Die → Die) :
    (s.modifyDie d f).latchMap = s.latchMap := rfl
@[simp] theorem modifyDie_securityMap (s : State) (d : Nat) (f : Die → Die) :
    (s.modifyDie d f).securityMap = s.securityMap := rfl
@[simp] theorem modifyDie_retired (s : State) (d : Nat) (f : Die → Die) : (s.modifyDie d f).retired = s.retired := rfl
@[simp] theorem modifyDie_parity (s : State) (d : Nat) (f : Die → Die) : (s.modifyDie d f).parity = s.parity := rfl
@[simp] theorem modifyDie_drains (s : State) (d : Nat) (f : Die → Die) : (s.modifyDie d f).drains = s.drains := rfl
@[simp] theorem modifyDie_drainImages (s : State) (d : Nat) (f : Die → Die) :
    (s.modifyDie d f).drainImages = s.drainImages := rfl
@[simp] theorem modifyDie_applying (s : State) (d : Nat) (f : Die → Die) :
    (s.modifyDie d f).applying = s.applying := rfl
@[simp] theorem modifyDie_fatal (s : State) (d : Nat) (f : Die → Die) : (s.modifyDie d f).fatal = s.fatal := rfl
@[simp] theorem modifyDie_rehashAt (s : State) (d : Nat) (f : Die → Die) :
    (s.modifyDie d f).rehashAt = s.rehashAt := rfl
@[simp] theorem modifyDie_cxlUncorrected (s : State) (d : Nat) (f : Die → Die) :
    (s.modifyDie d f).cxlUncorrected = s.cxlUncorrected := rfl
@[simp] theorem modifyDie_voltageSince (s : State) (d : Nat) (f : Die → Die) :
    (s.modifyDie d f).voltageSince = s.voltageSince := rfl
@[simp] theorem modifyDie_powerSince (s : State) (d : Nat) (f : Die → Die) :
    (s.modifyDie d f).powerSince = s.powerSince := rfl
@[simp] theorem modifyDie_powerReadings (s : State) (d : Nat) (f : Die → Die) :
    (s.modifyDie d f).powerReadings = s.powerReadings := rfl
@[simp] theorem modifyDie_lateTraces (s : State) (d : Nat) (f : Die → Die) :
    (s.modifyDie d f).lateTraces = s.lateTraces := rfl

@[simp] theorem touch_tick (s : State) (a : Nat) : (s.touch a).tick = s.tick := rfl
@[simp] theorem touch_agenda (s : State) (a : Nat) : (s.touch a).agenda = s.agenda := rfl
@[simp] theorem touch_cur (s : State) (a : Nat) : (s.touch a).cur = s.cur := rfl
@[simp] theorem touch_turn (s : State) (a : Nat) : (s.touch a).turn = s.turn := rfl
@[simp] theorem touch_serial (s : State) (a : Nat) : (s.touch a).serial = s.serial := rfl
@[simp] theorem touch_mem (s : State) (a : Nat) : (s.touch a).mem = s.mem := rfl
@[simp] theorem touch_spoiled (s : State) (a : Nat) : (s.touch a).spoiled = s.spoiled := rfl
@[simp] theorem touch_flash (s : State) (a : Nat) : (s.touch a).flash = s.flash := rfl
@[simp] theorem touch_integrity (s : State) (a : Nat) : (s.touch a).integrity = s.integrity := rfl
@[simp] theorem touch_frames (s : State) (a : Nat) : (s.touch a).frames = s.frames := rfl
@[simp] theorem touch_blocks (s : State) (a : Nat) : (s.touch a).blocks = s.blocks := rfl
@[simp] theorem touch_routes (s : State) (a : Nat) : (s.touch a).routes = s.routes := rfl
@[simp] theorem touch_msix (s : State) (a : Nat) : (s.touch a).msix = s.msix := rfl
@[simp] theorem touch_aperture (s : State) (a : Nat) : (s.touch a).aperture = s.aperture := rfl
@[simp] theorem touch_hostData (s : State) (a : Nat) : (s.touch a).hostData = s.hostData := rfl
@[simp] theorem touch_vectors (s : State) (a : Nat) : (s.touch a).vectors = s.vectors := rfl
@[simp] theorem touch_present (s : State) (a : Nat) : (s.touch a).present = s.present := rfl
@[simp] theorem touch_errata (s : State) (a : Nat) : (s.touch a).errata = s.errata := rfl
@[simp] theorem touch_binding (s : State) (a : Nat) : (s.touch a).binding = s.binding := rfl
@[simp] theorem touch_svn (s : State) (a : Nat) : (s.touch a).svn = s.svn := rfl
@[simp] theorem touch_svnFloor (s : State) (a : Nat) : (s.touch a).svnFloor = s.svnFloor := rfl
@[simp] theorem touch_hashes (s : State) (a : Nat) : (s.touch a).hashes = s.hashes := rfl
@[simp] theorem touch_staged (s : State) (a : Nat) : (s.touch a).staged = s.staged := rfl
@[simp] theorem touch_bootEpoch (s : State) (a : Nat) : (s.touch a).bootEpoch = s.bootEpoch := rfl
@[simp] theorem touch_imageSerial (s : State) (a : Nat) : (s.touch a).imageSerial = s.imageSerial := rfl
@[simp] theorem touch_restored (s : State) (a : Nat) : (s.touch a).restored = s.restored := rfl
@[simp] theorem touch_cores (s : State) (a : Nat) : (s.touch a).cores = s.cores := rfl
@[simp] theorem touch_quadTlbs (s : State) (a : Nat) : (s.touch a).quadTlbs = s.quadTlbs := rfl
@[simp] theorem touch_walks (s : State) (a : Nat) : (s.touch a).walks = s.walks := rfl
@[simp] theorem touch_dies (s : State) (a : Nat) : (s.touch a).dies = s.dies := rfl
@[simp] theorem touch_queues (s : State) (a : Nat) : (s.touch a).queues = s.queues := rfl
@[simp] theorem touch_unwritten (s : State) (a : Nat) : (s.touch a).unwritten = s.unwritten := rfl
@[simp] theorem touch_moves (s : State) (a : Nat) : (s.touch a).moves = s.moves := rfl
@[simp] theorem touch_planned (s : State) (a : Nat) : (s.touch a).planned = s.planned := rfl
@[simp] theorem touch_parks (s : State) (a : Nat) : (s.touch a).parks = s.parks := rfl
@[simp] theorem touch_watches (s : State) (a : Nat) : (s.touch a).watches = s.watches := rfl
@[simp] theorem touch_notices (s : State) (a : Nat) : (s.touch a).notices = s.notices := rfl
@[simp] theorem touch_maps (s : State) (a : Nat) : (s.touch a).maps = s.maps := rfl
@[simp] theorem touch_pageStates (s : State) (a : Nat) : (s.touch a).pageStates = s.pageStates := rfl
@[simp] theorem touch_saved (s : State) (a : Nat) : (s.touch a).saved = s.saved := rfl
@[simp] theorem touch_images (s : State) (a : Nat) : (s.touch a).images = s.images := rfl
@[simp] theorem touch_live (s : State) (a : Nat) : (s.touch a).live = s.live := rfl
@[simp] theorem touch_waiting (s : State) (a : Nat) : (s.touch a).waiting = s.waiting := rfl
@[simp] theorem touch_returned (s : State) (a : Nat) : (s.touch a).returned = s.returned := rfl
@[simp] theorem touch_spills (s : State) (a : Nat) : (s.touch a).spills = s.spills := rfl
@[simp] theorem touch_levelSince (s : State) (a : Nat) : (s.touch a).levelSince = s.levelSince := rfl
@[simp] theorem touch_rotation (s : State) (a : Nat) : (s.touch a).rotation = s.rotation := rfl
@[simp] theorem touch_starving (s : State) (a : Nat) : (s.touch a).starving = s.starving := rfl
@[simp] theorem touch_dispatchStopped (s : State) (a : Nat) : (s.touch a).dispatchStopped = s.dispatchStopped := rfl
@[simp] theorem touch_lateFaults (s : State) (a : Nat) : (s.touch a).lateFaults = s.lateFaults := rfl
@[simp] theorem touch_tokens (s : State) (a : Nat) : (s.touch a).tokens = s.tokens := rfl
@[simp] theorem touch_requests (s : State) (a : Nat) : (s.touch a).requests = s.requests := rfl
@[simp] theorem touch_incoming (s : State) (a : Nat) : (s.touch a).incoming = s.incoming := rfl
@[simp] theorem touch_glances (s : State) (a : Nat) : (s.touch a).glances = s.glances := rfl
@[simp] theorem touch_ports (s : State) (a : Nat) : (s.touch a).ports = s.ports := rfl
@[simp] theorem touch_sentMessages (s : State) (a : Nat) : (s.touch a).sentMessages = s.sentMessages := rfl
@[simp] theorem touch_replayedFlits (s : State) (a : Nat) : (s.touch a).replayedFlits = s.replayedFlits := rfl
@[simp] theorem touch_ftimeBase (s : State) (a : Nat) : (s.touch a).ftimeBase = s.ftimeBase := rfl
@[simp] theorem touch_modidLocked (s : State) (a : Nat) : (s.touch a).modidLocked = s.modidLocked := rfl
@[simp] theorem touch_gangStarted (s : State) (a : Nat) : (s.touch a).gangStarted = s.gangStarted := rfl
@[simp] theorem touch_gangReady (s : State) (a : Nat) : (s.touch a).gangReady = s.gangReady := rfl
@[simp] theorem touch_hostRate (s : State) (a : Nat) : (s.touch a).hostRate = s.hostRate := rfl
@[simp] theorem touch_hostWidth (s : State) (a : Nat) : (s.touch a).hostWidth = s.hostWidth := rfl
@[simp] theorem touch_hostCxl (s : State) (a : Nat) : (s.touch a).hostCxl = s.hostCxl := rfl
@[simp] theorem touch_msixOn (s : State) (a : Nat) : (s.touch a).msixOn = s.msixOn := rfl
@[simp] theorem touch_translations (s : State) (a : Nat) : (s.touch a).translations = s.translations := rfl
@[simp] theorem touch_purges (s : State) (a : Nat) : (s.touch a).purges = s.purges := rfl
@[simp] theorem touch_latchMap (s : State) (a : Nat) : (s.touch a).latchMap = s.latchMap := rfl
@[simp] theorem touch_securityMap (s : State) (a : Nat) : (s.touch a).securityMap = s.securityMap := rfl
@[simp] theorem touch_retired (s : State) (a : Nat) : (s.touch a).retired = s.retired := rfl
@[simp] theorem touch_parity (s : State) (a : Nat) : (s.touch a).parity = s.parity := rfl
@[simp] theorem touch_drains (s : State) (a : Nat) : (s.touch a).drains = s.drains := rfl
@[simp] theorem touch_drainImages (s : State) (a : Nat) : (s.touch a).drainImages = s.drainImages := rfl
@[simp] theorem touch_applying (s : State) (a : Nat) : (s.touch a).applying = s.applying := rfl
@[simp] theorem touch_fatal (s : State) (a : Nat) : (s.touch a).fatal = s.fatal := rfl
@[simp] theorem touch_rehashAt (s : State) (a : Nat) : (s.touch a).rehashAt = s.rehashAt := rfl
@[simp] theorem touch_cxlUncorrected (s : State) (a : Nat) : (s.touch a).cxlUncorrected = s.cxlUncorrected := rfl
@[simp] theorem touch_voltageSince (s : State) (a : Nat) : (s.touch a).voltageSince = s.voltageSince := rfl
@[simp] theorem touch_powerSince (s : State) (a : Nat) : (s.touch a).powerSince = s.powerSince := rfl
@[simp] theorem touch_powerReadings (s : State) (a : Nat) : (s.touch a).powerReadings = s.powerReadings := rfl
@[simp] theorem touch_lateTraces (s : State) (a : Nat) : (s.touch a).lateTraces = s.lateTraces := rfl

@[simp] theorem writeHome_tick (s : State) (a : Nat) (b : List Byte) : (s.writeHome a b).tick = s.tick := rfl
@[simp] theorem writeHome_agenda (s : State) (a : Nat) (b : List Byte) : (s.writeHome a b).agenda = s.agenda := rfl
@[simp] theorem writeHome_cur (s : State) (a : Nat) (b : List Byte) : (s.writeHome a b).cur = s.cur := rfl
@[simp] theorem writeHome_turn (s : State) (a : Nat) (b : List Byte) : (s.writeHome a b).turn = s.turn := rfl
@[simp] theorem writeHome_serial (s : State) (a : Nat) (b : List Byte) : (s.writeHome a b).serial = s.serial := rfl
@[simp] theorem writeHome_flash (s : State) (a : Nat) (b : List Byte) : (s.writeHome a b).flash = s.flash := rfl
@[simp] theorem writeHome_integrity (s : State) (a : Nat) (b : List Byte) :
    (s.writeHome a b).integrity = s.integrity := rfl
@[simp] theorem writeHome_frames (s : State) (a : Nat) (b : List Byte) : (s.writeHome a b).frames = s.frames := rfl
@[simp] theorem writeHome_blocks (s : State) (a : Nat) (b : List Byte) : (s.writeHome a b).blocks = s.blocks := rfl
@[simp] theorem writeHome_routes (s : State) (a : Nat) (b : List Byte) : (s.writeHome a b).routes = s.routes := rfl
@[simp] theorem writeHome_msix (s : State) (a : Nat) (b : List Byte) : (s.writeHome a b).msix = s.msix := rfl
@[simp] theorem writeHome_aperture (s : State) (a : Nat) (b : List Byte) :
    (s.writeHome a b).aperture = s.aperture := rfl
@[simp] theorem writeHome_hostData (s : State) (a : Nat) (b : List Byte) :
    (s.writeHome a b).hostData = s.hostData := rfl
@[simp] theorem writeHome_vectors (s : State) (a : Nat) (b : List Byte) : (s.writeHome a b).vectors = s.vectors := rfl
@[simp] theorem writeHome_present (s : State) (a : Nat) (b : List Byte) : (s.writeHome a b).present = s.present := rfl
@[simp] theorem writeHome_errata (s : State) (a : Nat) (b : List Byte) : (s.writeHome a b).errata = s.errata := rfl
@[simp] theorem writeHome_binding (s : State) (a : Nat) (b : List Byte) : (s.writeHome a b).binding = s.binding := rfl
@[simp] theorem writeHome_svn (s : State) (a : Nat) (b : List Byte) : (s.writeHome a b).svn = s.svn := rfl
@[simp] theorem writeHome_svnFloor (s : State) (a : Nat) (b : List Byte) :
    (s.writeHome a b).svnFloor = s.svnFloor := rfl
@[simp] theorem writeHome_hashes (s : State) (a : Nat) (b : List Byte) : (s.writeHome a b).hashes = s.hashes := rfl
@[simp] theorem writeHome_staged (s : State) (a : Nat) (b : List Byte) : (s.writeHome a b).staged = s.staged := rfl
@[simp] theorem writeHome_bootEpoch (s : State) (a : Nat) (b : List Byte) :
    (s.writeHome a b).bootEpoch = s.bootEpoch := rfl
@[simp] theorem writeHome_imageSerial (s : State) (a : Nat) (b : List Byte) :
    (s.writeHome a b).imageSerial = s.imageSerial := rfl
@[simp] theorem writeHome_restored (s : State) (a : Nat) (b : List Byte) :
    (s.writeHome a b).restored = s.restored := rfl
@[simp] theorem writeHome_cores (s : State) (a : Nat) (b : List Byte) : (s.writeHome a b).cores = s.cores := rfl
@[simp] theorem writeHome_quadTlbs (s : State) (a : Nat) (b : List Byte) :
    (s.writeHome a b).quadTlbs = s.quadTlbs := rfl
@[simp] theorem writeHome_walks (s : State) (a : Nat) (b : List Byte) : (s.writeHome a b).walks = s.walks := rfl
@[simp] theorem writeHome_dies (s : State) (a : Nat) (b : List Byte) : (s.writeHome a b).dies = s.dies := rfl
@[simp] theorem writeHome_queues (s : State) (a : Nat) (b : List Byte) : (s.writeHome a b).queues = s.queues := rfl
@[simp] theorem writeHome_unwritten (s : State) (a : Nat) (b : List Byte) :
    (s.writeHome a b).unwritten = s.unwritten := rfl
@[simp] theorem writeHome_moves (s : State) (a : Nat) (b : List Byte) : (s.writeHome a b).moves = s.moves := rfl
@[simp] theorem writeHome_planned (s : State) (a : Nat) (b : List Byte) : (s.writeHome a b).planned = s.planned := rfl
@[simp] theorem writeHome_notices (s : State) (a : Nat) (b : List Byte) : (s.writeHome a b).notices = s.notices := rfl
@[simp] theorem writeHome_maps (s : State) (a : Nat) (b : List Byte) : (s.writeHome a b).maps = s.maps := rfl
@[simp] theorem writeHome_pageStates (s : State) (a : Nat) (b : List Byte) :
    (s.writeHome a b).pageStates = s.pageStates := rfl
@[simp] theorem writeHome_saved (s : State) (a : Nat) (b : List Byte) : (s.writeHome a b).saved = s.saved := rfl
@[simp] theorem writeHome_images (s : State) (a : Nat) (b : List Byte) : (s.writeHome a b).images = s.images := rfl
@[simp] theorem writeHome_live (s : State) (a : Nat) (b : List Byte) : (s.writeHome a b).live = s.live := rfl
@[simp] theorem writeHome_waiting (s : State) (a : Nat) (b : List Byte) : (s.writeHome a b).waiting = s.waiting := rfl
@[simp] theorem writeHome_returned (s : State) (a : Nat) (b : List Byte) :
    (s.writeHome a b).returned = s.returned := rfl
@[simp] theorem writeHome_spills (s : State) (a : Nat) (b : List Byte) : (s.writeHome a b).spills = s.spills := rfl
@[simp] theorem writeHome_levelSince (s : State) (a : Nat) (b : List Byte) :
    (s.writeHome a b).levelSince = s.levelSince := rfl
@[simp] theorem writeHome_rotation (s : State) (a : Nat) (b : List Byte) :
    (s.writeHome a b).rotation = s.rotation := rfl
@[simp] theorem writeHome_starving (s : State) (a : Nat) (b : List Byte) :
    (s.writeHome a b).starving = s.starving := rfl
@[simp] theorem writeHome_dispatchStopped (s : State) (a : Nat) (b : List Byte) :
    (s.writeHome a b).dispatchStopped = s.dispatchStopped := rfl
@[simp] theorem writeHome_lateFaults (s : State) (a : Nat) (b : List Byte) :
    (s.writeHome a b).lateFaults = s.lateFaults := rfl
@[simp] theorem writeHome_tokens (s : State) (a : Nat) (b : List Byte) : (s.writeHome a b).tokens = s.tokens := rfl
@[simp] theorem writeHome_requests (s : State) (a : Nat) (b : List Byte) :
    (s.writeHome a b).requests = s.requests := rfl
@[simp] theorem writeHome_incoming (s : State) (a : Nat) (b : List Byte) :
    (s.writeHome a b).incoming = s.incoming := rfl
@[simp] theorem writeHome_glances (s : State) (a : Nat) (b : List Byte) : (s.writeHome a b).glances = s.glances := rfl
@[simp] theorem writeHome_ports (s : State) (a : Nat) (b : List Byte) : (s.writeHome a b).ports = s.ports := rfl
@[simp] theorem writeHome_sentMessages (s : State) (a : Nat) (b : List Byte) :
    (s.writeHome a b).sentMessages = s.sentMessages := rfl
@[simp] theorem writeHome_replayedFlits (s : State) (a : Nat) (b : List Byte) :
    (s.writeHome a b).replayedFlits = s.replayedFlits := rfl
@[simp] theorem writeHome_ftimeBase (s : State) (a : Nat) (b : List Byte) :
    (s.writeHome a b).ftimeBase = s.ftimeBase := rfl
@[simp] theorem writeHome_modidLocked (s : State) (a : Nat) (b : List Byte) :
    (s.writeHome a b).modidLocked = s.modidLocked := rfl
@[simp] theorem writeHome_gangStarted (s : State) (a : Nat) (b : List Byte) :
    (s.writeHome a b).gangStarted = s.gangStarted := rfl
@[simp] theorem writeHome_gangReady (s : State) (a : Nat) (b : List Byte) :
    (s.writeHome a b).gangReady = s.gangReady := rfl
@[simp] theorem writeHome_hostRate (s : State) (a : Nat) (b : List Byte) :
    (s.writeHome a b).hostRate = s.hostRate := rfl
@[simp] theorem writeHome_hostWidth (s : State) (a : Nat) (b : List Byte) :
    (s.writeHome a b).hostWidth = s.hostWidth := rfl
@[simp] theorem writeHome_hostCxl (s : State) (a : Nat) (b : List Byte) : (s.writeHome a b).hostCxl = s.hostCxl := rfl
@[simp] theorem writeHome_msixOn (s : State) (a : Nat) (b : List Byte) : (s.writeHome a b).msixOn = s.msixOn := rfl
@[simp] theorem writeHome_translations (s : State) (a : Nat) (b : List Byte) :
    (s.writeHome a b).translations = s.translations := rfl
@[simp] theorem writeHome_purges (s : State) (a : Nat) (b : List Byte) : (s.writeHome a b).purges = s.purges := rfl
@[simp] theorem writeHome_latchMap (s : State) (a : Nat) (b : List Byte) :
    (s.writeHome a b).latchMap = s.latchMap := rfl
@[simp] theorem writeHome_securityMap (s : State) (a : Nat) (b : List Byte) :
    (s.writeHome a b).securityMap = s.securityMap := rfl
@[simp] theorem writeHome_retired (s : State) (a : Nat) (b : List Byte) : (s.writeHome a b).retired = s.retired := rfl
@[simp] theorem writeHome_parity (s : State) (a : Nat) (b : List Byte) : (s.writeHome a b).parity = s.parity := rfl
@[simp] theorem writeHome_drains (s : State) (a : Nat) (b : List Byte) : (s.writeHome a b).drains = s.drains := rfl
@[simp] theorem writeHome_drainImages (s : State) (a : Nat) (b : List Byte) :
    (s.writeHome a b).drainImages = s.drainImages := rfl
@[simp] theorem writeHome_applying (s : State) (a : Nat) (b : List Byte) :
    (s.writeHome a b).applying = s.applying := rfl
@[simp] theorem writeHome_fatal (s : State) (a : Nat) (b : List Byte) : (s.writeHome a b).fatal = s.fatal := rfl
@[simp] theorem writeHome_rehashAt (s : State) (a : Nat) (b : List Byte) :
    (s.writeHome a b).rehashAt = s.rehashAt := rfl
@[simp] theorem writeHome_cxlUncorrected (s : State) (a : Nat) (b : List Byte) :
    (s.writeHome a b).cxlUncorrected = s.cxlUncorrected := rfl
@[simp] theorem writeHome_voltageSince (s : State) (a : Nat) (b : List Byte) :
    (s.writeHome a b).voltageSince = s.voltageSince := rfl
@[simp] theorem writeHome_powerSince (s : State) (a : Nat) (b : List Byte) :
    (s.writeHome a b).powerSince = s.powerSince := rfl
@[simp] theorem writeHome_powerReadings (s : State) (a : Nat) (b : List Byte) :
    (s.writeHome a b).powerReadings = s.powerReadings := rfl
@[simp] theorem writeHome_lateTraces (s : State) (a : Nat) (b : List Byte) :
    (s.writeHome a b).lateTraces = s.lateTraces := rfl

@[simp] theorem setFrame_tick (s : State) (k : Nat) (f : Frame) : (s.setFrame k f).tick = s.tick := rfl
@[simp] theorem setFrame_agenda (s : State) (k : Nat) (f : Frame) : (s.setFrame k f).agenda = s.agenda := rfl
@[simp] theorem setFrame_cur (s : State) (k : Nat) (f : Frame) : (s.setFrame k f).cur = s.cur := rfl
@[simp] theorem setFrame_turn (s : State) (k : Nat) (f : Frame) : (s.setFrame k f).turn = s.turn := rfl
@[simp] theorem setFrame_serial (s : State) (k : Nat) (f : Frame) : (s.setFrame k f).serial = s.serial := rfl
@[simp] theorem setFrame_mem (s : State) (k : Nat) (f : Frame) : (s.setFrame k f).mem = s.mem := rfl
@[simp] theorem setFrame_touched (s : State) (k : Nat) (f : Frame) : (s.setFrame k f).touched = s.touched := rfl
@[simp] theorem setFrame_spoiled (s : State) (k : Nat) (f : Frame) : (s.setFrame k f).spoiled = s.spoiled := rfl
@[simp] theorem setFrame_flash (s : State) (k : Nat) (f : Frame) : (s.setFrame k f).flash = s.flash := rfl
@[simp] theorem setFrame_integrity (s : State) (k : Nat) (f : Frame) : (s.setFrame k f).integrity = s.integrity := rfl
@[simp] theorem setFrame_blocks (s : State) (k : Nat) (f : Frame) : (s.setFrame k f).blocks = s.blocks := rfl
@[simp] theorem setFrame_routes (s : State) (k : Nat) (f : Frame) : (s.setFrame k f).routes = s.routes := rfl
@[simp] theorem setFrame_msix (s : State) (k : Nat) (f : Frame) : (s.setFrame k f).msix = s.msix := rfl
@[simp] theorem setFrame_aperture (s : State) (k : Nat) (f : Frame) : (s.setFrame k f).aperture = s.aperture := rfl
@[simp] theorem setFrame_hostData (s : State) (k : Nat) (f : Frame) : (s.setFrame k f).hostData = s.hostData := rfl
@[simp] theorem setFrame_vectors (s : State) (k : Nat) (f : Frame) : (s.setFrame k f).vectors = s.vectors := rfl
@[simp] theorem setFrame_present (s : State) (k : Nat) (f : Frame) : (s.setFrame k f).present = s.present := rfl
@[simp] theorem setFrame_errata (s : State) (k : Nat) (f : Frame) : (s.setFrame k f).errata = s.errata := rfl
@[simp] theorem setFrame_binding (s : State) (k : Nat) (f : Frame) : (s.setFrame k f).binding = s.binding := rfl
@[simp] theorem setFrame_svn (s : State) (k : Nat) (f : Frame) : (s.setFrame k f).svn = s.svn := rfl
@[simp] theorem setFrame_svnFloor (s : State) (k : Nat) (f : Frame) : (s.setFrame k f).svnFloor = s.svnFloor := rfl
@[simp] theorem setFrame_hashes (s : State) (k : Nat) (f : Frame) : (s.setFrame k f).hashes = s.hashes := rfl
@[simp] theorem setFrame_staged (s : State) (k : Nat) (f : Frame) : (s.setFrame k f).staged = s.staged := rfl
@[simp] theorem setFrame_bootEpoch (s : State) (k : Nat) (f : Frame) : (s.setFrame k f).bootEpoch = s.bootEpoch := rfl
@[simp] theorem setFrame_imageSerial (s : State) (k : Nat) (f : Frame) :
    (s.setFrame k f).imageSerial = s.imageSerial := rfl
@[simp] theorem setFrame_restored (s : State) (k : Nat) (f : Frame) : (s.setFrame k f).restored = s.restored := rfl
@[simp] theorem setFrame_cores (s : State) (k : Nat) (f : Frame) : (s.setFrame k f).cores = s.cores := rfl
@[simp] theorem setFrame_quadTlbs (s : State) (k : Nat) (f : Frame) : (s.setFrame k f).quadTlbs = s.quadTlbs := rfl
@[simp] theorem setFrame_walks (s : State) (k : Nat) (f : Frame) : (s.setFrame k f).walks = s.walks := rfl
@[simp] theorem setFrame_dies (s : State) (k : Nat) (f : Frame) : (s.setFrame k f).dies = s.dies := rfl
@[simp] theorem setFrame_queues (s : State) (k : Nat) (f : Frame) : (s.setFrame k f).queues = s.queues := rfl
@[simp] theorem setFrame_unwritten (s : State) (k : Nat) (f : Frame) : (s.setFrame k f).unwritten = s.unwritten := rfl
@[simp] theorem setFrame_moves (s : State) (k : Nat) (f : Frame) : (s.setFrame k f).moves = s.moves := rfl
@[simp] theorem setFrame_planned (s : State) (k : Nat) (f : Frame) : (s.setFrame k f).planned = s.planned := rfl
@[simp] theorem setFrame_parks (s : State) (k : Nat) (f : Frame) : (s.setFrame k f).parks = s.parks := rfl
@[simp] theorem setFrame_watches (s : State) (k : Nat) (f : Frame) : (s.setFrame k f).watches = s.watches := rfl
@[simp] theorem setFrame_notices (s : State) (k : Nat) (f : Frame) : (s.setFrame k f).notices = s.notices := rfl
@[simp] theorem setFrame_maps (s : State) (k : Nat) (f : Frame) : (s.setFrame k f).maps = s.maps := rfl
@[simp] theorem setFrame_pageStates (s : State) (k : Nat) (f : Frame) :
    (s.setFrame k f).pageStates = s.pageStates := rfl
@[simp] theorem setFrame_saved (s : State) (k : Nat) (f : Frame) : (s.setFrame k f).saved = s.saved := rfl
@[simp] theorem setFrame_images (s : State) (k : Nat) (f : Frame) : (s.setFrame k f).images = s.images := rfl
@[simp] theorem setFrame_live (s : State) (k : Nat) (f : Frame) : (s.setFrame k f).live = s.live := rfl
@[simp] theorem setFrame_waiting (s : State) (k : Nat) (f : Frame) : (s.setFrame k f).waiting = s.waiting := rfl
@[simp] theorem setFrame_returned (s : State) (k : Nat) (f : Frame) : (s.setFrame k f).returned = s.returned := rfl
@[simp] theorem setFrame_spills (s : State) (k : Nat) (f : Frame) : (s.setFrame k f).spills = s.spills := rfl
@[simp] theorem setFrame_levelSince (s : State) (k : Nat) (f : Frame) :
    (s.setFrame k f).levelSince = s.levelSince := rfl
@[simp] theorem setFrame_rotation (s : State) (k : Nat) (f : Frame) : (s.setFrame k f).rotation = s.rotation := rfl
@[simp] theorem setFrame_starving (s : State) (k : Nat) (f : Frame) : (s.setFrame k f).starving = s.starving := rfl
@[simp] theorem setFrame_dispatchStopped (s : State) (k : Nat) (f : Frame) :
    (s.setFrame k f).dispatchStopped = s.dispatchStopped := rfl
@[simp] theorem setFrame_lateFaults (s : State) (k : Nat) (f : Frame) :
    (s.setFrame k f).lateFaults = s.lateFaults := rfl
@[simp] theorem setFrame_tokens (s : State) (k : Nat) (f : Frame) : (s.setFrame k f).tokens = s.tokens := rfl
@[simp] theorem setFrame_requests (s : State) (k : Nat) (f : Frame) : (s.setFrame k f).requests = s.requests := rfl
@[simp] theorem setFrame_incoming (s : State) (k : Nat) (f : Frame) : (s.setFrame k f).incoming = s.incoming := rfl
@[simp] theorem setFrame_glances (s : State) (k : Nat) (f : Frame) : (s.setFrame k f).glances = s.glances := rfl
@[simp] theorem setFrame_ports (s : State) (k : Nat) (f : Frame) : (s.setFrame k f).ports = s.ports := rfl
@[simp] theorem setFrame_sentMessages (s : State) (k : Nat) (f : Frame) :
    (s.setFrame k f).sentMessages = s.sentMessages := rfl
@[simp] theorem setFrame_replayedFlits (s : State) (k : Nat) (f : Frame) :
    (s.setFrame k f).replayedFlits = s.replayedFlits := rfl
@[simp] theorem setFrame_ftimeBase (s : State) (k : Nat) (f : Frame) : (s.setFrame k f).ftimeBase = s.ftimeBase := rfl
@[simp] theorem setFrame_modidLocked (s : State) (k : Nat) (f : Frame) :
    (s.setFrame k f).modidLocked = s.modidLocked := rfl
@[simp] theorem setFrame_gangStarted (s : State) (k : Nat) (f : Frame) :
    (s.setFrame k f).gangStarted = s.gangStarted := rfl
@[simp] theorem setFrame_gangReady (s : State) (k : Nat) (f : Frame) : (s.setFrame k f).gangReady = s.gangReady := rfl
@[simp] theorem setFrame_hostRate (s : State) (k : Nat) (f : Frame) : (s.setFrame k f).hostRate = s.hostRate := rfl
@[simp] theorem setFrame_hostWidth (s : State) (k : Nat) (f : Frame) : (s.setFrame k f).hostWidth = s.hostWidth := rfl
@[simp] theorem setFrame_hostCxl (s : State) (k : Nat) (f : Frame) : (s.setFrame k f).hostCxl = s.hostCxl := rfl
@[simp] theorem setFrame_msixOn (s : State) (k : Nat) (f : Frame) : (s.setFrame k f).msixOn = s.msixOn := rfl
@[simp] theorem setFrame_translations (s : State) (k : Nat) (f : Frame) :
    (s.setFrame k f).translations = s.translations := rfl
@[simp] theorem setFrame_purges (s : State) (k : Nat) (f : Frame) : (s.setFrame k f).purges = s.purges := rfl
@[simp] theorem setFrame_latchMap (s : State) (k : Nat) (f : Frame) : (s.setFrame k f).latchMap = s.latchMap := rfl
@[simp] theorem setFrame_securityMap (s : State) (k : Nat) (f : Frame) :
    (s.setFrame k f).securityMap = s.securityMap := rfl
@[simp] theorem setFrame_retired (s : State) (k : Nat) (f : Frame) : (s.setFrame k f).retired = s.retired := rfl
@[simp] theorem setFrame_parity (s : State) (k : Nat) (f : Frame) : (s.setFrame k f).parity = s.parity := rfl
@[simp] theorem setFrame_drains (s : State) (k : Nat) (f : Frame) : (s.setFrame k f).drains = s.drains := rfl
@[simp] theorem setFrame_drainImages (s : State) (k : Nat) (f : Frame) :
    (s.setFrame k f).drainImages = s.drainImages := rfl
@[simp] theorem setFrame_applying (s : State) (k : Nat) (f : Frame) : (s.setFrame k f).applying = s.applying := rfl
@[simp] theorem setFrame_fatal (s : State) (k : Nat) (f : Frame) : (s.setFrame k f).fatal = s.fatal := rfl
@[simp] theorem setFrame_rehashAt (s : State) (k : Nat) (f : Frame) : (s.setFrame k f).rehashAt = s.rehashAt := rfl
@[simp] theorem setFrame_cxlUncorrected (s : State) (k : Nat) (f : Frame) :
    (s.setFrame k f).cxlUncorrected = s.cxlUncorrected := rfl
@[simp] theorem setFrame_voltageSince (s : State) (k : Nat) (f : Frame) :
    (s.setFrame k f).voltageSince = s.voltageSince := rfl
@[simp] theorem setFrame_powerSince (s : State) (k : Nat) (f : Frame) :
    (s.setFrame k f).powerSince = s.powerSince := rfl
@[simp] theorem setFrame_powerReadings (s : State) (k : Nat) (f : Frame) :
    (s.setFrame k f).powerReadings = s.powerReadings := rfl
@[simp] theorem setFrame_lateTraces (s : State) (k : Nat) (f : Frame) :
    (s.setFrame k f).lateTraces = s.lateTraces := rfl

@[simp] theorem writeScalar_id (w : Weave) (n : Nat) (v : Word64) : (w.writeScalar n v).id = w.id := rfl
@[simp] theorem writeScalar_instm1 (w : Weave) (n : Nat) (v : Word64) : (w.writeScalar n v).instm1 = w.instm1 := rfl
@[simp] theorem writeScalar_groups (w : Weave) (n : Nat) (v : Word64) : (w.writeScalar n v).groups = w.groups := rfl
@[simp] theorem writeScalar_vcount (w : Weave) (n : Nat) (v : Word64) : (w.writeScalar n v).vcount = w.vcount := rfl
@[simp] theorem writeScalar_scount (w : Weave) (n : Nat) (v : Word64) : (w.writeScalar n v).scount = w.scount := rfl
@[simp] theorem writeScalar_acount (w : Weave) (n : Nat) (v : Word64) : (w.writeScalar n v).acount = w.acount := rfl
@[simp] theorem writeScalar_spadBytes (w : Weave) (n : Nat) (v : Word64) :
    (w.writeScalar n v).spadBytes = w.spadBytes := rfl
@[simp] theorem writeScalar_stashCount (w : Weave) (n : Nat) (v : Word64) :
    (w.writeScalar n v).stashCount = w.stashCount := rfl
@[simp] theorem writeScalar_prio (w : Weave) (n : Nat) (v : Word64) : (w.writeScalar n v).prio = w.prio := rfl
@[simp] theorem writeScalar_role (w : Weave) (n : Nat) (v : Word64) : (w.writeScalar n v).role = w.role := rfl
@[simp] theorem writeScalar_mode (w : Weave) (n : Nat) (v : Word64) : (w.writeScalar n v).mode = w.mode := rfl
@[simp] theorem writeScalar_rng (w : Weave) (n : Nat) (v : Word64) : (w.writeScalar n v).rng = w.rng := rfl
@[simp] theorem writeScalar_vregs (w : Weave) (n : Nat) (v : Word64) : (w.writeScalar n v).vregs = w.vregs := rfl
@[simp] theorem writeScalar_tags (w : Weave) (n : Nat) (v : Word64) : (w.writeScalar n v).tags = w.tags := rfl
@[simp] theorem writeScalar_vjambs (w : Weave) (n : Nat) (v : Word64) : (w.writeScalar n v).vjambs = w.vjambs := rfl
@[simp] theorem writeScalar_sjambs (w : Weave) (n : Nat) (v : Word64) : (w.writeScalar n v).sjambs = w.sjambs := rfl
@[simp] theorem writeScalar_preds (w : Weave) (n : Nat) (v : Word64) : (w.writeScalar n v).preds = w.preds := rfl
@[simp] theorem writeScalar_aregs (w : Weave) (n : Nat) (v : Word64) : (w.writeScalar n v).aregs = w.aregs := rfl
@[simp] theorem writeScalar_shapes (w : Weave) (n : Nat) (v : Word64) : (w.writeScalar n v).shapes = w.shapes := rfl
@[simp] theorem writeScalar_paths (w : Weave) (n : Nat) (v : Word64) : (w.writeScalar n v).paths = w.paths := rfl
@[simp] theorem writeScalar_ops (w : Weave) (n : Nat) (v : Word64) : (w.writeScalar n v).ops = w.ops := rfl
@[simp] theorem writeScalar_spad (w : Weave) (n : Nat) (v : Word64) : (w.writeScalar n v).spad = w.spad := rfl
@[simp] theorem writeScalar_windows (w : Weave) (n : Nat) (v : Word64) :
    (w.writeScalar n v).windows = w.windows := rfl
@[simp] theorem writeScalar_sectors (w : Weave) (n : Nat) (v : Word64) :
    (w.writeScalar n v).sectors = w.sectors := rfl
@[simp] theorem writeScalar_spadStores (w : Weave) (n : Nat) (v : Word64) :
    (w.writeScalar n v).spadStores = w.spadStores := rfl
@[simp] theorem writeScalar_engineWrites (w : Weave) (n : Nat) (v : Word64) :
    (w.writeScalar n v).engineWrites = w.engineWrites := rfl
@[simp] theorem writeScalar_credited (w : Weave) (n : Nat) (v : Word64) :
    (w.writeScalar n v).credited = w.credited := rfl
@[simp] theorem writeScalar_hoops (w : Weave) (n : Nat) (v : Word64) : (w.writeScalar n v).hoops = w.hoops := rfl
@[simp] theorem writeScalar_matrixAbort (w : Weave) (n : Nat) (v : Word64) :
    (w.writeScalar n v).matrixAbort = w.matrixAbort := rfl
@[simp] theorem writeScalar_matrixFaults (w : Weave) (n : Nat) (v : Word64) :
    (w.writeScalar n v).matrixFaults = w.matrixFaults := rfl
@[simp] theorem writeScalar_ending (w : Weave) (n : Nat) (v : Word64) : (w.writeScalar n v).ending = w.ending := rfl
@[simp] theorem writeScalar_evicting (w : Weave) (n : Nat) (v : Word64) :
    (w.writeScalar n v).evicting = w.evicting := rfl
@[simp] theorem writeScalar_sliceLeft (w : Weave) (n : Nat) (v : Word64) :
    (w.writeScalar n v).sliceLeft = w.sliceLeft := rfl
@[simp] theorem writeScalar_slicePending (w : Weave) (n : Nat) (v : Word64) :
    (w.writeScalar n v).slicePending = w.slicePending := rfl
@[simp] theorem writeScalar_parking (w : Weave) (n : Nat) (v : Word64) :
    (w.writeScalar n v).parking = w.parking := rfl
@[simp] theorem writeScalar_writeBackToken (w : Weave) (n : Nat) (v : Word64) :
    (w.writeScalar n v).writeBackToken = w.writeBackToken := rfl
@[simp] theorem writeScalar_ended (w : Weave) (n : Nat) (v : Word64) : (w.writeScalar n v).ended = w.ended := rfl

@[simp] theorem writePred_id (w : Weave) (n : Nat) (m b : LaneMask) : (w.writePred n m b).id = w.id := rfl
@[simp] theorem writePred_instm1 (w : Weave) (n : Nat) (m b : LaneMask) : (w.writePred n m b).instm1 = w.instm1 := rfl
@[simp] theorem writePred_groups (w : Weave) (n : Nat) (m b : LaneMask) : (w.writePred n m b).groups = w.groups := rfl
@[simp] theorem writePred_vcount (w : Weave) (n : Nat) (m b : LaneMask) : (w.writePred n m b).vcount = w.vcount := rfl
@[simp] theorem writePred_scount (w : Weave) (n : Nat) (m b : LaneMask) : (w.writePred n m b).scount = w.scount := rfl
@[simp] theorem writePred_acount (w : Weave) (n : Nat) (m b : LaneMask) : (w.writePred n m b).acount = w.acount := rfl
@[simp] theorem writePred_spadBytes (w : Weave) (n : Nat) (m b : LaneMask) :
    (w.writePred n m b).spadBytes = w.spadBytes := rfl
@[simp] theorem writePred_stashCount (w : Weave) (n : Nat) (m b : LaneMask) :
    (w.writePred n m b).stashCount = w.stashCount := rfl
@[simp] theorem writePred_prio (w : Weave) (n : Nat) (m b : LaneMask) : (w.writePred n m b).prio = w.prio := rfl
@[simp] theorem writePred_role (w : Weave) (n : Nat) (m b : LaneMask) : (w.writePred n m b).role = w.role := rfl
@[simp] theorem writePred_mode (w : Weave) (n : Nat) (m b : LaneMask) : (w.writePred n m b).mode = w.mode := rfl
@[simp] theorem writePred_rng (w : Weave) (n : Nat) (m b : LaneMask) : (w.writePred n m b).rng = w.rng := rfl
@[simp] theorem writePred_vregs (w : Weave) (n : Nat) (m b : LaneMask) : (w.writePred n m b).vregs = w.vregs := rfl
@[simp] theorem writePred_tags (w : Weave) (n : Nat) (m b : LaneMask) : (w.writePred n m b).tags = w.tags := rfl
@[simp] theorem writePred_vjambs (w : Weave) (n : Nat) (m b : LaneMask) : (w.writePred n m b).vjambs = w.vjambs := rfl
@[simp] theorem writePred_sregs (w : Weave) (n : Nat) (m b : LaneMask) : (w.writePred n m b).sregs = w.sregs := rfl
@[simp] theorem writePred_sjambs (w : Weave) (n : Nat) (m b : LaneMask) : (w.writePred n m b).sjambs = w.sjambs := rfl
@[simp] theorem writePred_aregs (w : Weave) (n : Nat) (m b : LaneMask) : (w.writePred n m b).aregs = w.aregs := rfl
@[simp] theorem writePred_shapes (w : Weave) (n : Nat) (m b : LaneMask) : (w.writePred n m b).shapes = w.shapes := rfl
@[simp] theorem writePred_paths (w : Weave) (n : Nat) (m b : LaneMask) : (w.writePred n m b).paths = w.paths := rfl
@[simp] theorem writePred_ops (w : Weave) (n : Nat) (m b : LaneMask) : (w.writePred n m b).ops = w.ops := rfl
@[simp] theorem writePred_spad (w : Weave) (n : Nat) (m b : LaneMask) : (w.writePred n m b).spad = w.spad := rfl
@[simp] theorem writePred_windows (w : Weave) (n : Nat) (m b : LaneMask) :
    (w.writePred n m b).windows = w.windows := rfl
@[simp] theorem writePred_sectors (w : Weave) (n : Nat) (m b : LaneMask) :
    (w.writePred n m b).sectors = w.sectors := rfl
@[simp] theorem writePred_spadStores (w : Weave) (n : Nat) (m b : LaneMask) :
    (w.writePred n m b).spadStores = w.spadStores := rfl
@[simp] theorem writePred_engineWrites (w : Weave) (n : Nat) (m b : LaneMask) :
    (w.writePred n m b).engineWrites = w.engineWrites := rfl
@[simp] theorem writePred_credited (w : Weave) (n : Nat) (m b : LaneMask) :
    (w.writePred n m b).credited = w.credited := rfl
@[simp] theorem writePred_hoops (w : Weave) (n : Nat) (m b : LaneMask) : (w.writePred n m b).hoops = w.hoops := rfl
@[simp] theorem writePred_matrixAbort (w : Weave) (n : Nat) (m b : LaneMask) :
    (w.writePred n m b).matrixAbort = w.matrixAbort := rfl
@[simp] theorem writePred_matrixFaults (w : Weave) (n : Nat) (m b : LaneMask) :
    (w.writePred n m b).matrixFaults = w.matrixFaults := rfl
@[simp] theorem writePred_ending (w : Weave) (n : Nat) (m b : LaneMask) : (w.writePred n m b).ending = w.ending := rfl
@[simp] theorem writePred_evicting (w : Weave) (n : Nat) (m b : LaneMask) :
    (w.writePred n m b).evicting = w.evicting := rfl
@[simp] theorem writePred_sliceLeft (w : Weave) (n : Nat) (m b : LaneMask) :
    (w.writePred n m b).sliceLeft = w.sliceLeft := rfl
@[simp] theorem writePred_slicePending (w : Weave) (n : Nat) (m b : LaneMask) :
    (w.writePred n m b).slicePending = w.slicePending := rfl
@[simp] theorem writePred_parking (w : Weave) (n : Nat) (m b : LaneMask) :
    (w.writePred n m b).parking = w.parking := rfl
@[simp] theorem writePred_writeBackToken (w : Weave) (n : Nat) (m b : LaneMask) :
    (w.writePred n m b).writeBackToken = w.writeBackToken := rfl
@[simp] theorem writePred_ended (w : Weave) (n : Nat) (m b : LaneMask) : (w.writePred n m b).ended = w.ended := rfl

@[simp] theorem writeTag_id (w : Weave) (n : Nat) (t : Tag) : (w.writeTag n t).id = w.id := rfl
@[simp] theorem writeTag_instm1 (w : Weave) (n : Nat) (t : Tag) : (w.writeTag n t).instm1 = w.instm1 := rfl
@[simp] theorem writeTag_groups (w : Weave) (n : Nat) (t : Tag) : (w.writeTag n t).groups = w.groups := rfl
@[simp] theorem writeTag_vcount (w : Weave) (n : Nat) (t : Tag) : (w.writeTag n t).vcount = w.vcount := rfl
@[simp] theorem writeTag_scount (w : Weave) (n : Nat) (t : Tag) : (w.writeTag n t).scount = w.scount := rfl
@[simp] theorem writeTag_acount (w : Weave) (n : Nat) (t : Tag) : (w.writeTag n t).acount = w.acount := rfl
@[simp] theorem writeTag_spadBytes (w : Weave) (n : Nat) (t : Tag) : (w.writeTag n t).spadBytes = w.spadBytes := rfl
@[simp] theorem writeTag_stashCount (w : Weave) (n : Nat) (t : Tag) :
    (w.writeTag n t).stashCount = w.stashCount := rfl
@[simp] theorem writeTag_prio (w : Weave) (n : Nat) (t : Tag) : (w.writeTag n t).prio = w.prio := rfl
@[simp] theorem writeTag_role (w : Weave) (n : Nat) (t : Tag) : (w.writeTag n t).role = w.role := rfl
@[simp] theorem writeTag_mode (w : Weave) (n : Nat) (t : Tag) : (w.writeTag n t).mode = w.mode := rfl
@[simp] theorem writeTag_rng (w : Weave) (n : Nat) (t : Tag) : (w.writeTag n t).rng = w.rng := rfl
@[simp] theorem writeTag_vregs (w : Weave) (n : Nat) (t : Tag) : (w.writeTag n t).vregs = w.vregs := rfl
@[simp] theorem writeTag_vjambs (w : Weave) (n : Nat) (t : Tag) : (w.writeTag n t).vjambs = w.vjambs := rfl
@[simp] theorem writeTag_sregs (w : Weave) (n : Nat) (t : Tag) : (w.writeTag n t).sregs = w.sregs := rfl
@[simp] theorem writeTag_sjambs (w : Weave) (n : Nat) (t : Tag) : (w.writeTag n t).sjambs = w.sjambs := rfl
@[simp] theorem writeTag_preds (w : Weave) (n : Nat) (t : Tag) : (w.writeTag n t).preds = w.preds := rfl
@[simp] theorem writeTag_aregs (w : Weave) (n : Nat) (t : Tag) : (w.writeTag n t).aregs = w.aregs := rfl
@[simp] theorem writeTag_shapes (w : Weave) (n : Nat) (t : Tag) : (w.writeTag n t).shapes = w.shapes := rfl
@[simp] theorem writeTag_paths (w : Weave) (n : Nat) (t : Tag) : (w.writeTag n t).paths = w.paths := rfl
@[simp] theorem writeTag_ops (w : Weave) (n : Nat) (t : Tag) : (w.writeTag n t).ops = w.ops := rfl
@[simp] theorem writeTag_spad (w : Weave) (n : Nat) (t : Tag) : (w.writeTag n t).spad = w.spad := rfl
@[simp] theorem writeTag_windows (w : Weave) (n : Nat) (t : Tag) : (w.writeTag n t).windows = w.windows := rfl
@[simp] theorem writeTag_sectors (w : Weave) (n : Nat) (t : Tag) : (w.writeTag n t).sectors = w.sectors := rfl
@[simp] theorem writeTag_spadStores (w : Weave) (n : Nat) (t : Tag) :
    (w.writeTag n t).spadStores = w.spadStores := rfl
@[simp] theorem writeTag_engineWrites (w : Weave) (n : Nat) (t : Tag) :
    (w.writeTag n t).engineWrites = w.engineWrites := rfl
@[simp] theorem writeTag_credited (w : Weave) (n : Nat) (t : Tag) : (w.writeTag n t).credited = w.credited := rfl
@[simp] theorem writeTag_hoops (w : Weave) (n : Nat) (t : Tag) : (w.writeTag n t).hoops = w.hoops := rfl
@[simp] theorem writeTag_matrixAbort (w : Weave) (n : Nat) (t : Tag) :
    (w.writeTag n t).matrixAbort = w.matrixAbort := rfl
@[simp] theorem writeTag_matrixFaults (w : Weave) (n : Nat) (t : Tag) :
    (w.writeTag n t).matrixFaults = w.matrixFaults := rfl
@[simp] theorem writeTag_ending (w : Weave) (n : Nat) (t : Tag) : (w.writeTag n t).ending = w.ending := rfl
@[simp] theorem writeTag_evicting (w : Weave) (n : Nat) (t : Tag) : (w.writeTag n t).evicting = w.evicting := rfl
@[simp] theorem writeTag_sliceLeft (w : Weave) (n : Nat) (t : Tag) : (w.writeTag n t).sliceLeft = w.sliceLeft := rfl
@[simp] theorem writeTag_slicePending (w : Weave) (n : Nat) (t : Tag) :
    (w.writeTag n t).slicePending = w.slicePending := rfl
@[simp] theorem writeTag_parking (w : Weave) (n : Nat) (t : Tag) : (w.writeTag n t).parking = w.parking := rfl
@[simp] theorem writeTag_writeBackToken (w : Weave) (n : Nat) (t : Tag) :
    (w.writeTag n t).writeBackToken = w.writeBackToken := rfl
@[simp] theorem writeTag_ended (w : Weave) (n : Nat) (t : Tag) : (w.writeTag n t).ended = w.ended := rfl

@[simp] theorem writeAreg_id (w : Weave) (n : Nat) (v : BitVec 128) : (w.writeAreg n v).id = w.id := rfl
@[simp] theorem writeAreg_instm1 (w : Weave) (n : Nat) (v : BitVec 128) : (w.writeAreg n v).instm1 = w.instm1 := rfl
@[simp] theorem writeAreg_groups (w : Weave) (n : Nat) (v : BitVec 128) : (w.writeAreg n v).groups = w.groups := rfl
@[simp] theorem writeAreg_vcount (w : Weave) (n : Nat) (v : BitVec 128) : (w.writeAreg n v).vcount = w.vcount := rfl
@[simp] theorem writeAreg_scount (w : Weave) (n : Nat) (v : BitVec 128) : (w.writeAreg n v).scount = w.scount := rfl
@[simp] theorem writeAreg_acount (w : Weave) (n : Nat) (v : BitVec 128) : (w.writeAreg n v).acount = w.acount := rfl
@[simp] theorem writeAreg_spadBytes (w : Weave) (n : Nat) (v : BitVec 128) :
    (w.writeAreg n v).spadBytes = w.spadBytes := rfl
@[simp] theorem writeAreg_stashCount (w : Weave) (n : Nat) (v : BitVec 128) :
    (w.writeAreg n v).stashCount = w.stashCount := rfl
@[simp] theorem writeAreg_prio (w : Weave) (n : Nat) (v : BitVec 128) : (w.writeAreg n v).prio = w.prio := rfl
@[simp] theorem writeAreg_role (w : Weave) (n : Nat) (v : BitVec 128) : (w.writeAreg n v).role = w.role := rfl
@[simp] theorem writeAreg_mode (w : Weave) (n : Nat) (v : BitVec 128) : (w.writeAreg n v).mode = w.mode := rfl
@[simp] theorem writeAreg_rng (w : Weave) (n : Nat) (v : BitVec 128) : (w.writeAreg n v).rng = w.rng := rfl
@[simp] theorem writeAreg_vregs (w : Weave) (n : Nat) (v : BitVec 128) : (w.writeAreg n v).vregs = w.vregs := rfl
@[simp] theorem writeAreg_tags (w : Weave) (n : Nat) (v : BitVec 128) : (w.writeAreg n v).tags = w.tags := rfl
@[simp] theorem writeAreg_vjambs (w : Weave) (n : Nat) (v : BitVec 128) : (w.writeAreg n v).vjambs = w.vjambs := rfl
@[simp] theorem writeAreg_sregs (w : Weave) (n : Nat) (v : BitVec 128) : (w.writeAreg n v).sregs = w.sregs := rfl
@[simp] theorem writeAreg_sjambs (w : Weave) (n : Nat) (v : BitVec 128) : (w.writeAreg n v).sjambs = w.sjambs := rfl
@[simp] theorem writeAreg_preds (w : Weave) (n : Nat) (v : BitVec 128) : (w.writeAreg n v).preds = w.preds := rfl
@[simp] theorem writeAreg_shapes (w : Weave) (n : Nat) (v : BitVec 128) : (w.writeAreg n v).shapes = w.shapes := rfl
@[simp] theorem writeAreg_paths (w : Weave) (n : Nat) (v : BitVec 128) : (w.writeAreg n v).paths = w.paths := rfl
@[simp] theorem writeAreg_ops (w : Weave) (n : Nat) (v : BitVec 128) : (w.writeAreg n v).ops = w.ops := rfl
@[simp] theorem writeAreg_spad (w : Weave) (n : Nat) (v : BitVec 128) : (w.writeAreg n v).spad = w.spad := rfl
@[simp] theorem writeAreg_windows (w : Weave) (n : Nat) (v : BitVec 128) :
    (w.writeAreg n v).windows = w.windows := rfl
@[simp] theorem writeAreg_sectors (w : Weave) (n : Nat) (v : BitVec 128) :
    (w.writeAreg n v).sectors = w.sectors := rfl
@[simp] theorem writeAreg_spadStores (w : Weave) (n : Nat) (v : BitVec 128) :
    (w.writeAreg n v).spadStores = w.spadStores := rfl
@[simp] theorem writeAreg_engineWrites (w : Weave) (n : Nat) (v : BitVec 128) :
    (w.writeAreg n v).engineWrites = w.engineWrites := rfl
@[simp] theorem writeAreg_credited (w : Weave) (n : Nat) (v : BitVec 128) :
    (w.writeAreg n v).credited = w.credited := rfl
@[simp] theorem writeAreg_hoops (w : Weave) (n : Nat) (v : BitVec 128) : (w.writeAreg n v).hoops = w.hoops := rfl
@[simp] theorem writeAreg_matrixAbort (w : Weave) (n : Nat) (v : BitVec 128) :
    (w.writeAreg n v).matrixAbort = w.matrixAbort := rfl
@[simp] theorem writeAreg_matrixFaults (w : Weave) (n : Nat) (v : BitVec 128) :
    (w.writeAreg n v).matrixFaults = w.matrixFaults := rfl
@[simp] theorem writeAreg_ending (w : Weave) (n : Nat) (v : BitVec 128) : (w.writeAreg n v).ending = w.ending := rfl
@[simp] theorem writeAreg_evicting (w : Weave) (n : Nat) (v : BitVec 128) :
    (w.writeAreg n v).evicting = w.evicting := rfl
@[simp] theorem writeAreg_sliceLeft (w : Weave) (n : Nat) (v : BitVec 128) :
    (w.writeAreg n v).sliceLeft = w.sliceLeft := rfl
@[simp] theorem writeAreg_slicePending (w : Weave) (n : Nat) (v : BitVec 128) :
    (w.writeAreg n v).slicePending = w.slicePending := rfl
@[simp] theorem writeAreg_parking (w : Weave) (n : Nat) (v : BitVec 128) :
    (w.writeAreg n v).parking = w.parking := rfl
@[simp] theorem writeAreg_writeBackToken (w : Weave) (n : Nat) (v : BitVec 128) :
    (w.writeAreg n v).writeBackToken = w.writeBackToken := rfl
@[simp] theorem writeAreg_ended (w : Weave) (n : Nat) (v : BitVec 128) : (w.writeAreg n v).ended = w.ended := rfl

@[simp] theorem writeShape_id (w : Weave) (n : Nat) (v : BitVec 512) : (w.writeShape n v).id = w.id := rfl
@[simp] theorem writeShape_instm1 (w : Weave) (n : Nat) (v : BitVec 512) : (w.writeShape n v).instm1 = w.instm1 := rfl
@[simp] theorem writeShape_groups (w : Weave) (n : Nat) (v : BitVec 512) : (w.writeShape n v).groups = w.groups := rfl
@[simp] theorem writeShape_vcount (w : Weave) (n : Nat) (v : BitVec 512) : (w.writeShape n v).vcount = w.vcount := rfl
@[simp] theorem writeShape_scount (w : Weave) (n : Nat) (v : BitVec 512) : (w.writeShape n v).scount = w.scount := rfl
@[simp] theorem writeShape_acount (w : Weave) (n : Nat) (v : BitVec 512) : (w.writeShape n v).acount = w.acount := rfl
@[simp] theorem writeShape_spadBytes (w : Weave) (n : Nat) (v : BitVec 512) :
    (w.writeShape n v).spadBytes = w.spadBytes := rfl
@[simp] theorem writeShape_stashCount (w : Weave) (n : Nat) (v : BitVec 512) :
    (w.writeShape n v).stashCount = w.stashCount := rfl
@[simp] theorem writeShape_prio (w : Weave) (n : Nat) (v : BitVec 512) : (w.writeShape n v).prio = w.prio := rfl
@[simp] theorem writeShape_role (w : Weave) (n : Nat) (v : BitVec 512) : (w.writeShape n v).role = w.role := rfl
@[simp] theorem writeShape_mode (w : Weave) (n : Nat) (v : BitVec 512) : (w.writeShape n v).mode = w.mode := rfl
@[simp] theorem writeShape_rng (w : Weave) (n : Nat) (v : BitVec 512) : (w.writeShape n v).rng = w.rng := rfl
@[simp] theorem writeShape_vregs (w : Weave) (n : Nat) (v : BitVec 512) : (w.writeShape n v).vregs = w.vregs := rfl
@[simp] theorem writeShape_tags (w : Weave) (n : Nat) (v : BitVec 512) : (w.writeShape n v).tags = w.tags := rfl
@[simp] theorem writeShape_vjambs (w : Weave) (n : Nat) (v : BitVec 512) : (w.writeShape n v).vjambs = w.vjambs := rfl
@[simp] theorem writeShape_sregs (w : Weave) (n : Nat) (v : BitVec 512) : (w.writeShape n v).sregs = w.sregs := rfl
@[simp] theorem writeShape_sjambs (w : Weave) (n : Nat) (v : BitVec 512) : (w.writeShape n v).sjambs = w.sjambs := rfl
@[simp] theorem writeShape_preds (w : Weave) (n : Nat) (v : BitVec 512) : (w.writeShape n v).preds = w.preds := rfl
@[simp] theorem writeShape_aregs (w : Weave) (n : Nat) (v : BitVec 512) : (w.writeShape n v).aregs = w.aregs := rfl
@[simp] theorem writeShape_paths (w : Weave) (n : Nat) (v : BitVec 512) : (w.writeShape n v).paths = w.paths := rfl
@[simp] theorem writeShape_ops (w : Weave) (n : Nat) (v : BitVec 512) : (w.writeShape n v).ops = w.ops := rfl
@[simp] theorem writeShape_spad (w : Weave) (n : Nat) (v : BitVec 512) : (w.writeShape n v).spad = w.spad := rfl
@[simp] theorem writeShape_windows (w : Weave) (n : Nat) (v : BitVec 512) :
    (w.writeShape n v).windows = w.windows := rfl
@[simp] theorem writeShape_sectors (w : Weave) (n : Nat) (v : BitVec 512) :
    (w.writeShape n v).sectors = w.sectors := rfl
@[simp] theorem writeShape_spadStores (w : Weave) (n : Nat) (v : BitVec 512) :
    (w.writeShape n v).spadStores = w.spadStores := rfl
@[simp] theorem writeShape_engineWrites (w : Weave) (n : Nat) (v : BitVec 512) :
    (w.writeShape n v).engineWrites = w.engineWrites := rfl
@[simp] theorem writeShape_credited (w : Weave) (n : Nat) (v : BitVec 512) :
    (w.writeShape n v).credited = w.credited := rfl
@[simp] theorem writeShape_hoops (w : Weave) (n : Nat) (v : BitVec 512) : (w.writeShape n v).hoops = w.hoops := rfl
@[simp] theorem writeShape_matrixAbort (w : Weave) (n : Nat) (v : BitVec 512) :
    (w.writeShape n v).matrixAbort = w.matrixAbort := rfl
@[simp] theorem writeShape_matrixFaults (w : Weave) (n : Nat) (v : BitVec 512) :
    (w.writeShape n v).matrixFaults = w.matrixFaults := rfl
@[simp] theorem writeShape_ending (w : Weave) (n : Nat) (v : BitVec 512) : (w.writeShape n v).ending = w.ending := rfl
@[simp] theorem writeShape_evicting (w : Weave) (n : Nat) (v : BitVec 512) :
    (w.writeShape n v).evicting = w.evicting := rfl
@[simp] theorem writeShape_sliceLeft (w : Weave) (n : Nat) (v : BitVec 512) :
    (w.writeShape n v).sliceLeft = w.sliceLeft := rfl
@[simp] theorem writeShape_slicePending (w : Weave) (n : Nat) (v : BitVec 512) :
    (w.writeShape n v).slicePending = w.slicePending := rfl
@[simp] theorem writeShape_parking (w : Weave) (n : Nat) (v : BitVec 512) :
    (w.writeShape n v).parking = w.parking := rfl
@[simp] theorem writeShape_writeBackToken (w : Weave) (n : Nat) (v : BitVec 512) :
    (w.writeShape n v).writeBackToken = w.writeBackToken := rfl
@[simp] theorem writeShape_ended (w : Weave) (n : Nat) (v : BitVec 512) : (w.writeShape n v).ended = w.ended := rfl

@[simp] theorem writeLanes_id (w : Weave) (n : Nat) (m : LaneMask) (v : Nat → Word32) :
    (w.writeLanes n m v).id = w.id := by
  unfold Weave.writeLanes; split <;> rfl
@[simp] theorem writeLanes_instm1 (w : Weave) (n : Nat) (m : LaneMask) (v : Nat → Word32) :
    (w.writeLanes n m v).instm1 = w.instm1 := by
  unfold Weave.writeLanes; split <;> rfl
@[simp] theorem writeLanes_groups (w : Weave) (n : Nat) (m : LaneMask) (v : Nat → Word32) :
    (w.writeLanes n m v).groups = w.groups := by
  unfold Weave.writeLanes; split <;> rfl
@[simp] theorem writeLanes_vcount (w : Weave) (n : Nat) (m : LaneMask) (v : Nat → Word32) :
    (w.writeLanes n m v).vcount = w.vcount := by
  unfold Weave.writeLanes; split <;> rfl
@[simp] theorem writeLanes_scount (w : Weave) (n : Nat) (m : LaneMask) (v : Nat → Word32) :
    (w.writeLanes n m v).scount = w.scount := by
  unfold Weave.writeLanes; split <;> rfl
@[simp] theorem writeLanes_acount (w : Weave) (n : Nat) (m : LaneMask) (v : Nat → Word32) :
    (w.writeLanes n m v).acount = w.acount := by
  unfold Weave.writeLanes; split <;> rfl
@[simp] theorem writeLanes_spadBytes (w : Weave) (n : Nat) (m : LaneMask) (v : Nat → Word32) :
    (w.writeLanes n m v).spadBytes = w.spadBytes := by
  unfold Weave.writeLanes; split <;> rfl
@[simp] theorem writeLanes_stashCount (w : Weave) (n : Nat) (m : LaneMask) (v : Nat → Word32) :
    (w.writeLanes n m v).stashCount = w.stashCount := by
  unfold Weave.writeLanes; split <;> rfl
@[simp] theorem writeLanes_prio (w : Weave) (n : Nat) (m : LaneMask) (v : Nat → Word32) :
    (w.writeLanes n m v).prio = w.prio := by
  unfold Weave.writeLanes; split <;> rfl
@[simp] theorem writeLanes_role (w : Weave) (n : Nat) (m : LaneMask) (v : Nat → Word32) :
    (w.writeLanes n m v).role = w.role := by
  unfold Weave.writeLanes; split <;> rfl
@[simp] theorem writeLanes_mode (w : Weave) (n : Nat) (m : LaneMask) (v : Nat → Word32) :
    (w.writeLanes n m v).mode = w.mode := by
  unfold Weave.writeLanes; split <;> rfl
@[simp] theorem writeLanes_rng (w : Weave) (n : Nat) (m : LaneMask) (v : Nat → Word32) :
    (w.writeLanes n m v).rng = w.rng := by
  unfold Weave.writeLanes; split <;> rfl
@[simp] theorem writeLanes_tags (w : Weave) (n : Nat) (m : LaneMask) (v : Nat → Word32) :
    (w.writeLanes n m v).tags = w.tags := by
  unfold Weave.writeLanes; split <;> rfl
@[simp] theorem writeLanes_vjambs (w : Weave) (n : Nat) (m : LaneMask) (v : Nat → Word32) :
    (w.writeLanes n m v).vjambs = w.vjambs := by
  unfold Weave.writeLanes; split <;> rfl
@[simp] theorem writeLanes_sregs (w : Weave) (n : Nat) (m : LaneMask) (v : Nat → Word32) :
    (w.writeLanes n m v).sregs = w.sregs := by
  unfold Weave.writeLanes; split <;> rfl
@[simp] theorem writeLanes_sjambs (w : Weave) (n : Nat) (m : LaneMask) (v : Nat → Word32) :
    (w.writeLanes n m v).sjambs = w.sjambs := by
  unfold Weave.writeLanes; split <;> rfl
@[simp] theorem writeLanes_preds (w : Weave) (n : Nat) (m : LaneMask) (v : Nat → Word32) :
    (w.writeLanes n m v).preds = w.preds := by
  unfold Weave.writeLanes; split <;> rfl
@[simp] theorem writeLanes_aregs (w : Weave) (n : Nat) (m : LaneMask) (v : Nat → Word32) :
    (w.writeLanes n m v).aregs = w.aregs := by
  unfold Weave.writeLanes; split <;> rfl
@[simp] theorem writeLanes_shapes (w : Weave) (n : Nat) (m : LaneMask) (v : Nat → Word32) :
    (w.writeLanes n m v).shapes = w.shapes := by
  unfold Weave.writeLanes; split <;> rfl
@[simp] theorem writeLanes_paths (w : Weave) (n : Nat) (m : LaneMask) (v : Nat → Word32) :
    (w.writeLanes n m v).paths = w.paths := by
  unfold Weave.writeLanes; split <;> rfl
@[simp] theorem writeLanes_ops (w : Weave) (n : Nat) (m : LaneMask) (v : Nat → Word32) :
    (w.writeLanes n m v).ops = w.ops := by
  unfold Weave.writeLanes; split <;> rfl
@[simp] theorem writeLanes_spad (w : Weave) (n : Nat) (m : LaneMask) (v : Nat → Word32) :
    (w.writeLanes n m v).spad = w.spad := by
  unfold Weave.writeLanes; split <;> rfl
@[simp] theorem writeLanes_windows (w : Weave) (n : Nat) (m : LaneMask) (v : Nat → Word32) :
    (w.writeLanes n m v).windows = w.windows := by
  unfold Weave.writeLanes; split <;> rfl
@[simp] theorem writeLanes_sectors (w : Weave) (n : Nat) (m : LaneMask) (v : Nat → Word32) :
    (w.writeLanes n m v).sectors = w.sectors := by
  unfold Weave.writeLanes; split <;> rfl
@[simp] theorem writeLanes_spadStores (w : Weave) (n : Nat) (m : LaneMask) (v : Nat → Word32) :
    (w.writeLanes n m v).spadStores = w.spadStores := by
  unfold Weave.writeLanes; split <;> rfl
@[simp] theorem writeLanes_engineWrites (w : Weave) (n : Nat) (m : LaneMask) (v : Nat → Word32) :
    (w.writeLanes n m v).engineWrites = w.engineWrites := by
  unfold Weave.writeLanes; split <;> rfl
@[simp] theorem writeLanes_credited (w : Weave) (n : Nat) (m : LaneMask) (v : Nat → Word32) :
    (w.writeLanes n m v).credited = w.credited := by
  unfold Weave.writeLanes; split <;> rfl
@[simp] theorem writeLanes_hoops (w : Weave) (n : Nat) (m : LaneMask) (v : Nat → Word32) :
    (w.writeLanes n m v).hoops = w.hoops := by
  unfold Weave.writeLanes; split <;> rfl
@[simp] theorem writeLanes_matrixAbort (w : Weave) (n : Nat) (m : LaneMask) (v : Nat → Word32) :
    (w.writeLanes n m v).matrixAbort = w.matrixAbort := by
  unfold Weave.writeLanes; split <;> rfl
@[simp] theorem writeLanes_matrixFaults (w : Weave) (n : Nat) (m : LaneMask) (v : Nat → Word32) :
    (w.writeLanes n m v).matrixFaults = w.matrixFaults := by
  unfold Weave.writeLanes; split <;> rfl
@[simp] theorem writeLanes_ending (w : Weave) (n : Nat) (m : LaneMask) (v : Nat → Word32) :
    (w.writeLanes n m v).ending = w.ending := by
  unfold Weave.writeLanes; split <;> rfl
@[simp] theorem writeLanes_evicting (w : Weave) (n : Nat) (m : LaneMask) (v : Nat → Word32) :
    (w.writeLanes n m v).evicting = w.evicting := by
  unfold Weave.writeLanes; split <;> rfl
@[simp] theorem writeLanes_sliceLeft (w : Weave) (n : Nat) (m : LaneMask) (v : Nat → Word32) :
    (w.writeLanes n m v).sliceLeft = w.sliceLeft := by
  unfold Weave.writeLanes; split <;> rfl
@[simp] theorem writeLanes_slicePending (w : Weave) (n : Nat) (m : LaneMask) (v : Nat → Word32) :
    (w.writeLanes n m v).slicePending = w.slicePending := by
  unfold Weave.writeLanes; split <;> rfl
@[simp] theorem writeLanes_parking (w : Weave) (n : Nat) (m : LaneMask) (v : Nat → Word32) :
    (w.writeLanes n m v).parking = w.parking := by
  unfold Weave.writeLanes; split <;> rfl
@[simp] theorem writeLanes_writeBackToken (w : Weave) (n : Nat) (m : LaneMask) (v : Nat → Word32) :
    (w.writeLanes n m v).writeBackToken = w.writeBackToken := by
  unfold Weave.writeLanes; split <;> rfl
@[simp] theorem writeLanes_ended (w : Weave) (n : Nat) (m : LaneMask) (v : Nat → Word32) :
    (w.writeLanes n m v).ended = w.ended := by
  unfold Weave.writeLanes; split <;> rfl

@[simp] theorem setTableJamb_id (w : Weave) (c : Nat) (j : Jamb) :
    (w.setTableJamb c j).id = w.id := by
  unfold Weave.setTableJamb; (repeat' split) <;> rfl
@[simp] theorem setTableJamb_instm1 (w : Weave) (c : Nat) (j : Jamb) :
    (w.setTableJamb c j).instm1 = w.instm1 := by
  unfold Weave.setTableJamb; (repeat' split) <;> rfl
@[simp] theorem setTableJamb_groups (w : Weave) (c : Nat) (j : Jamb) :
    (w.setTableJamb c j).groups = w.groups := by
  unfold Weave.setTableJamb; (repeat' split) <;> rfl
@[simp] theorem setTableJamb_vcount (w : Weave) (c : Nat) (j : Jamb) :
    (w.setTableJamb c j).vcount = w.vcount := by
  unfold Weave.setTableJamb; (repeat' split) <;> rfl
@[simp] theorem setTableJamb_scount (w : Weave) (c : Nat) (j : Jamb) :
    (w.setTableJamb c j).scount = w.scount := by
  unfold Weave.setTableJamb; (repeat' split) <;> rfl
@[simp] theorem setTableJamb_acount (w : Weave) (c : Nat) (j : Jamb) :
    (w.setTableJamb c j).acount = w.acount := by
  unfold Weave.setTableJamb; (repeat' split) <;> rfl
@[simp] theorem setTableJamb_spadBytes (w : Weave) (c : Nat) (j : Jamb) :
    (w.setTableJamb c j).spadBytes = w.spadBytes := by
  unfold Weave.setTableJamb; (repeat' split) <;> rfl
@[simp] theorem setTableJamb_stashCount (w : Weave) (c : Nat) (j : Jamb) :
    (w.setTableJamb c j).stashCount = w.stashCount := by
  unfold Weave.setTableJamb; (repeat' split) <;> rfl
@[simp] theorem setTableJamb_prio (w : Weave) (c : Nat) (j : Jamb) :
    (w.setTableJamb c j).prio = w.prio := by
  unfold Weave.setTableJamb; (repeat' split) <;> rfl
@[simp] theorem setTableJamb_role (w : Weave) (c : Nat) (j : Jamb) :
    (w.setTableJamb c j).role = w.role := by
  unfold Weave.setTableJamb; (repeat' split) <;> rfl
@[simp] theorem setTableJamb_mode (w : Weave) (c : Nat) (j : Jamb) :
    (w.setTableJamb c j).mode = w.mode := by
  unfold Weave.setTableJamb; (repeat' split) <;> rfl
@[simp] theorem setTableJamb_rng (w : Weave) (c : Nat) (j : Jamb) :
    (w.setTableJamb c j).rng = w.rng := by
  unfold Weave.setTableJamb; (repeat' split) <;> rfl
@[simp] theorem setTableJamb_vregs (w : Weave) (c : Nat) (j : Jamb) :
    (w.setTableJamb c j).vregs = w.vregs := by
  unfold Weave.setTableJamb; (repeat' split) <;> rfl
@[simp] theorem setTableJamb_tags (w : Weave) (c : Nat) (j : Jamb) :
    (w.setTableJamb c j).tags = w.tags := by
  unfold Weave.setTableJamb; (repeat' split) <;> rfl
@[simp] theorem setTableJamb_sregs (w : Weave) (c : Nat) (j : Jamb) :
    (w.setTableJamb c j).sregs = w.sregs := by
  unfold Weave.setTableJamb; (repeat' split) <;> rfl
@[simp] theorem setTableJamb_preds (w : Weave) (c : Nat) (j : Jamb) :
    (w.setTableJamb c j).preds = w.preds := by
  unfold Weave.setTableJamb; (repeat' split) <;> rfl
@[simp] theorem setTableJamb_aregs (w : Weave) (c : Nat) (j : Jamb) :
    (w.setTableJamb c j).aregs = w.aregs := by
  unfold Weave.setTableJamb; (repeat' split) <;> rfl
@[simp] theorem setTableJamb_shapes (w : Weave) (c : Nat) (j : Jamb) :
    (w.setTableJamb c j).shapes = w.shapes := by
  unfold Weave.setTableJamb; (repeat' split) <;> rfl
@[simp] theorem setTableJamb_paths (w : Weave) (c : Nat) (j : Jamb) :
    (w.setTableJamb c j).paths = w.paths := by
  unfold Weave.setTableJamb; (repeat' split) <;> rfl
@[simp] theorem setTableJamb_ops (w : Weave) (c : Nat) (j : Jamb) :
    (w.setTableJamb c j).ops = w.ops := by
  unfold Weave.setTableJamb; (repeat' split) <;> rfl
@[simp] theorem setTableJamb_spad (w : Weave) (c : Nat) (j : Jamb) :
    (w.setTableJamb c j).spad = w.spad := by
  unfold Weave.setTableJamb; (repeat' split) <;> rfl
@[simp] theorem setTableJamb_windows (w : Weave) (c : Nat) (j : Jamb) :
    (w.setTableJamb c j).windows = w.windows := by
  unfold Weave.setTableJamb; (repeat' split) <;> rfl
@[simp] theorem setTableJamb_sectors (w : Weave) (c : Nat) (j : Jamb) :
    (w.setTableJamb c j).sectors = w.sectors := by
  unfold Weave.setTableJamb; (repeat' split) <;> rfl
@[simp] theorem setTableJamb_spadStores (w : Weave) (c : Nat) (j : Jamb) :
    (w.setTableJamb c j).spadStores = w.spadStores := by
  unfold Weave.setTableJamb; (repeat' split) <;> rfl
@[simp] theorem setTableJamb_engineWrites (w : Weave) (c : Nat) (j : Jamb) :
    (w.setTableJamb c j).engineWrites = w.engineWrites := by
  unfold Weave.setTableJamb; (repeat' split) <;> rfl
@[simp] theorem setTableJamb_credited (w : Weave) (c : Nat) (j : Jamb) :
    (w.setTableJamb c j).credited = w.credited := by
  unfold Weave.setTableJamb; (repeat' split) <;> rfl
@[simp] theorem setTableJamb_hoops (w : Weave) (c : Nat) (j : Jamb) :
    (w.setTableJamb c j).hoops = w.hoops := by
  unfold Weave.setTableJamb; (repeat' split) <;> rfl
@[simp] theorem setTableJamb_matrixAbort (w : Weave) (c : Nat) (j : Jamb) :
    (w.setTableJamb c j).matrixAbort = w.matrixAbort := by
  unfold Weave.setTableJamb; (repeat' split) <;> rfl
@[simp] theorem setTableJamb_matrixFaults (w : Weave) (c : Nat) (j : Jamb) :
    (w.setTableJamb c j).matrixFaults = w.matrixFaults := by
  unfold Weave.setTableJamb; (repeat' split) <;> rfl
@[simp] theorem setTableJamb_ending (w : Weave) (c : Nat) (j : Jamb) :
    (w.setTableJamb c j).ending = w.ending := by
  unfold Weave.setTableJamb; (repeat' split) <;> rfl
@[simp] theorem setTableJamb_evicting (w : Weave) (c : Nat) (j : Jamb) :
    (w.setTableJamb c j).evicting = w.evicting := by
  unfold Weave.setTableJamb; (repeat' split) <;> rfl
@[simp] theorem setTableJamb_sliceLeft (w : Weave) (c : Nat) (j : Jamb) :
    (w.setTableJamb c j).sliceLeft = w.sliceLeft := by
  unfold Weave.setTableJamb; (repeat' split) <;> rfl
@[simp] theorem setTableJamb_slicePending (w : Weave) (c : Nat) (j : Jamb) :
    (w.setTableJamb c j).slicePending = w.slicePending := by
  unfold Weave.setTableJamb; (repeat' split) <;> rfl
@[simp] theorem setTableJamb_parking (w : Weave) (c : Nat) (j : Jamb) :
    (w.setTableJamb c j).parking = w.parking := by
  unfold Weave.setTableJamb; (repeat' split) <;> rfl
@[simp] theorem setTableJamb_writeBackToken (w : Weave) (c : Nat) (j : Jamb) :
    (w.setTableJamb c j).writeBackToken = w.writeBackToken := by
  unfold Weave.setTableJamb; (repeat' split) <;> rfl
@[simp] theorem setTableJamb_ended (w : Weave) (c : Nat) (j : Jamb) :
    (w.setTableJamb c j).ended = w.ended := by
  unfold Weave.setTableJamb; (repeat' split) <;> rfl

@[simp] theorem modifyPath_id (w : Weave) (p : Nat) (f : Path → Path) : (w.modifyPath p f).id = w.id := rfl
@[simp] theorem modifyPath_instm1 (w : Weave) (p : Nat) (f : Path → Path) :
    (w.modifyPath p f).instm1 = w.instm1 := rfl
@[simp] theorem modifyPath_groups (w : Weave) (p : Nat) (f : Path → Path) :
    (w.modifyPath p f).groups = w.groups := rfl
@[simp] theorem modifyPath_vcount (w : Weave) (p : Nat) (f : Path → Path) :
    (w.modifyPath p f).vcount = w.vcount := rfl
@[simp] theorem modifyPath_scount (w : Weave) (p : Nat) (f : Path → Path) :
    (w.modifyPath p f).scount = w.scount := rfl
@[simp] theorem modifyPath_acount (w : Weave) (p : Nat) (f : Path → Path) :
    (w.modifyPath p f).acount = w.acount := rfl
@[simp] theorem modifyPath_spadBytes (w : Weave) (p : Nat) (f : Path → Path) :
    (w.modifyPath p f).spadBytes = w.spadBytes := rfl
@[simp] theorem modifyPath_stashCount (w : Weave) (p : Nat) (f : Path → Path) :
    (w.modifyPath p f).stashCount = w.stashCount := rfl
@[simp] theorem modifyPath_prio (w : Weave) (p : Nat) (f : Path → Path) : (w.modifyPath p f).prio = w.prio := rfl
@[simp] theorem modifyPath_role (w : Weave) (p : Nat) (f : Path → Path) : (w.modifyPath p f).role = w.role := rfl
@[simp] theorem modifyPath_mode (w : Weave) (p : Nat) (f : Path → Path) : (w.modifyPath p f).mode = w.mode := rfl
@[simp] theorem modifyPath_rng (w : Weave) (p : Nat) (f : Path → Path) : (w.modifyPath p f).rng = w.rng := rfl
@[simp] theorem modifyPath_vregs (w : Weave) (p : Nat) (f : Path → Path) : (w.modifyPath p f).vregs = w.vregs := rfl
@[simp] theorem modifyPath_tags (w : Weave) (p : Nat) (f : Path → Path) : (w.modifyPath p f).tags = w.tags := rfl
@[simp] theorem modifyPath_vjambs (w : Weave) (p : Nat) (f : Path → Path) :
    (w.modifyPath p f).vjambs = w.vjambs := rfl
@[simp] theorem modifyPath_sregs (w : Weave) (p : Nat) (f : Path → Path) : (w.modifyPath p f).sregs = w.sregs := rfl
@[simp] theorem modifyPath_sjambs (w : Weave) (p : Nat) (f : Path → Path) :
    (w.modifyPath p f).sjambs = w.sjambs := rfl
@[simp] theorem modifyPath_preds (w : Weave) (p : Nat) (f : Path → Path) : (w.modifyPath p f).preds = w.preds := rfl
@[simp] theorem modifyPath_aregs (w : Weave) (p : Nat) (f : Path → Path) : (w.modifyPath p f).aregs = w.aregs := rfl
@[simp] theorem modifyPath_shapes (w : Weave) (p : Nat) (f : Path → Path) :
    (w.modifyPath p f).shapes = w.shapes := rfl
@[simp] theorem modifyPath_ops (w : Weave) (p : Nat) (f : Path → Path) : (w.modifyPath p f).ops = w.ops := rfl
@[simp] theorem modifyPath_spad (w : Weave) (p : Nat) (f : Path → Path) : (w.modifyPath p f).spad = w.spad := rfl
@[simp] theorem modifyPath_windows (w : Weave) (p : Nat) (f : Path → Path) :
    (w.modifyPath p f).windows = w.windows := rfl
@[simp] theorem modifyPath_sectors (w : Weave) (p : Nat) (f : Path → Path) :
    (w.modifyPath p f).sectors = w.sectors := rfl
@[simp] theorem modifyPath_spadStores (w : Weave) (p : Nat) (f : Path → Path) :
    (w.modifyPath p f).spadStores = w.spadStores := rfl
@[simp] theorem modifyPath_engineWrites (w : Weave) (p : Nat) (f : Path → Path) :
    (w.modifyPath p f).engineWrites = w.engineWrites := rfl
@[simp] theorem modifyPath_credited (w : Weave) (p : Nat) (f : Path → Path) :
    (w.modifyPath p f).credited = w.credited := rfl
@[simp] theorem modifyPath_hoops (w : Weave) (p : Nat) (f : Path → Path) : (w.modifyPath p f).hoops = w.hoops := rfl
@[simp] theorem modifyPath_matrixAbort (w : Weave) (p : Nat) (f : Path → Path) :
    (w.modifyPath p f).matrixAbort = w.matrixAbort := rfl
@[simp] theorem modifyPath_matrixFaults (w : Weave) (p : Nat) (f : Path → Path) :
    (w.modifyPath p f).matrixFaults = w.matrixFaults := rfl
@[simp] theorem modifyPath_ending (w : Weave) (p : Nat) (f : Path → Path) :
    (w.modifyPath p f).ending = w.ending := rfl
@[simp] theorem modifyPath_evicting (w : Weave) (p : Nat) (f : Path → Path) :
    (w.modifyPath p f).evicting = w.evicting := rfl
@[simp] theorem modifyPath_sliceLeft (w : Weave) (p : Nat) (f : Path → Path) :
    (w.modifyPath p f).sliceLeft = w.sliceLeft := rfl
@[simp] theorem modifyPath_slicePending (w : Weave) (p : Nat) (f : Path → Path) :
    (w.modifyPath p f).slicePending = w.slicePending := rfl
@[simp] theorem modifyPath_parking (w : Weave) (p : Nat) (f : Path → Path) :
    (w.modifyPath p f).parking = w.parking := rfl
@[simp] theorem modifyPath_writeBackToken (w : Weave) (p : Nat) (f : Path → Path) :
    (w.modifyPath p f).writeBackToken = w.writeBackToken := rfl
@[simp] theorem modifyPath_ended (w : Weave) (p : Nat) (f : Path → Path) : (w.modifyPath p f).ended = w.ended := rfl

@[simp] theorem putPath_id (w : Weave) (p : Nat) (q : Option Path) : (w.putPath p q).id = w.id := rfl
@[simp] theorem putPath_instm1 (w : Weave) (p : Nat) (q : Option Path) : (w.putPath p q).instm1 = w.instm1 := rfl
@[simp] theorem putPath_groups (w : Weave) (p : Nat) (q : Option Path) : (w.putPath p q).groups = w.groups := rfl
@[simp] theorem putPath_vcount (w : Weave) (p : Nat) (q : Option Path) : (w.putPath p q).vcount = w.vcount := rfl
@[simp] theorem putPath_scount (w : Weave) (p : Nat) (q : Option Path) : (w.putPath p q).scount = w.scount := rfl
@[simp] theorem putPath_acount (w : Weave) (p : Nat) (q : Option Path) : (w.putPath p q).acount = w.acount := rfl
@[simp] theorem putPath_spadBytes (w : Weave) (p : Nat) (q : Option Path) :
    (w.putPath p q).spadBytes = w.spadBytes := rfl
@[simp] theorem putPath_stashCount (w : Weave) (p : Nat) (q : Option Path) :
    (w.putPath p q).stashCount = w.stashCount := rfl
@[simp] theorem putPath_prio (w : Weave) (p : Nat) (q : Option Path) : (w.putPath p q).prio = w.prio := rfl
@[simp] theorem putPath_role (w : Weave) (p : Nat) (q : Option Path) : (w.putPath p q).role = w.role := rfl
@[simp] theorem putPath_mode (w : Weave) (p : Nat) (q : Option Path) : (w.putPath p q).mode = w.mode := rfl
@[simp] theorem putPath_rng (w : Weave) (p : Nat) (q : Option Path) : (w.putPath p q).rng = w.rng := rfl
@[simp] theorem putPath_vregs (w : Weave) (p : Nat) (q : Option Path) : (w.putPath p q).vregs = w.vregs := rfl
@[simp] theorem putPath_tags (w : Weave) (p : Nat) (q : Option Path) : (w.putPath p q).tags = w.tags := rfl
@[simp] theorem putPath_vjambs (w : Weave) (p : Nat) (q : Option Path) : (w.putPath p q).vjambs = w.vjambs := rfl
@[simp] theorem putPath_sregs (w : Weave) (p : Nat) (q : Option Path) : (w.putPath p q).sregs = w.sregs := rfl
@[simp] theorem putPath_sjambs (w : Weave) (p : Nat) (q : Option Path) : (w.putPath p q).sjambs = w.sjambs := rfl
@[simp] theorem putPath_preds (w : Weave) (p : Nat) (q : Option Path) : (w.putPath p q).preds = w.preds := rfl
@[simp] theorem putPath_aregs (w : Weave) (p : Nat) (q : Option Path) : (w.putPath p q).aregs = w.aregs := rfl
@[simp] theorem putPath_shapes (w : Weave) (p : Nat) (q : Option Path) : (w.putPath p q).shapes = w.shapes := rfl
@[simp] theorem putPath_ops (w : Weave) (p : Nat) (q : Option Path) : (w.putPath p q).ops = w.ops := rfl
@[simp] theorem putPath_spad (w : Weave) (p : Nat) (q : Option Path) : (w.putPath p q).spad = w.spad := rfl
@[simp] theorem putPath_windows (w : Weave) (p : Nat) (q : Option Path) : (w.putPath p q).windows = w.windows := rfl
@[simp] theorem putPath_sectors (w : Weave) (p : Nat) (q : Option Path) : (w.putPath p q).sectors = w.sectors := rfl
@[simp] theorem putPath_spadStores (w : Weave) (p : Nat) (q : Option Path) :
    (w.putPath p q).spadStores = w.spadStores := rfl
@[simp] theorem putPath_engineWrites (w : Weave) (p : Nat) (q : Option Path) :
    (w.putPath p q).engineWrites = w.engineWrites := rfl
@[simp] theorem putPath_credited (w : Weave) (p : Nat) (q : Option Path) :
    (w.putPath p q).credited = w.credited := rfl
@[simp] theorem putPath_hoops (w : Weave) (p : Nat) (q : Option Path) : (w.putPath p q).hoops = w.hoops := rfl
@[simp] theorem putPath_matrixAbort (w : Weave) (p : Nat) (q : Option Path) :
    (w.putPath p q).matrixAbort = w.matrixAbort := rfl
@[simp] theorem putPath_matrixFaults (w : Weave) (p : Nat) (q : Option Path) :
    (w.putPath p q).matrixFaults = w.matrixFaults := rfl
@[simp] theorem putPath_ending (w : Weave) (p : Nat) (q : Option Path) : (w.putPath p q).ending = w.ending := rfl
@[simp] theorem putPath_evicting (w : Weave) (p : Nat) (q : Option Path) :
    (w.putPath p q).evicting = w.evicting := rfl
@[simp] theorem putPath_sliceLeft (w : Weave) (p : Nat) (q : Option Path) :
    (w.putPath p q).sliceLeft = w.sliceLeft := rfl
@[simp] theorem putPath_slicePending (w : Weave) (p : Nat) (q : Option Path) :
    (w.putPath p q).slicePending = w.slicePending := rfl
@[simp] theorem putPath_parking (w : Weave) (p : Nat) (q : Option Path) : (w.putPath p q).parking = w.parking := rfl
@[simp] theorem putPath_writeBackToken (w : Weave) (p : Nat) (q : Option Path) :
    (w.putPath p q).writeBackToken = w.writeBackToken := rfl
@[simp] theorem putPath_ended (w : Weave) (p : Nat) (q : Option Path) : (w.putPath p q).ended = w.ended := rfl

end Sys2Proof.Laws
end

