-- ==== Sys2Proof/Laws/Weave.lean ====
section
/-! SUPPORT. Cores, weaves and paths: what is found after an update, and what the jamb updates leave alone. -/

namespace Sys2Proof.Laws

open Machine

/-! ### Cores and weaves -/

@[simp] theorem core_setCore (s : State) (c : Nat) (k : Core) : (s.setCore c k).core c = k := by
  simp [State.core, State.setCore]

theorem core_setCore_ne (s : State) (c c' : Nat) (k : Core) (h : c' ≠ c) : (s.setCore c k).core c' = s.core c' := by
  simp [State.core, State.setCore, table_find_set_ne _ _ _ _ h]

@[simp] theorem weave_setWeave (s : State) (c n : Nat) (w : Weave) : (s.setWeave c n w).weave? c n = some w := by
  simp [State.weave?, State.setWeave, State.modifyCore]

theorem weave_setWeave_ne (s : State) (c n n' : Nat) (w : Weave) (h : n' ≠ n) :
    (s.setWeave c n w).weave? c n' = s.weave? c n' := by
  simp [State.weave?, State.setWeave, State.modifyCore, table_find_set_ne _ _ _ _ h]

theorem core_setWeave_ne (s : State) (c c' n : Nat) (w : Weave) (h : c' ≠ c) :
    (s.setWeave c n w).core c' = s.core c' := by
  simp [State.setWeave, State.modifyCore, core_setCore_ne _ _ _ _ h]

/-- A weave set is a change of that weave alone. -/
theorem onlyWeave_setWeave (s : State) (a : Actor) (w : Weave) (n : Nat) :
    OnlyWeave s { s.setWeave a.core a.slot w with serial := n } a where
  memory _ := rfl
  machine := rfl
  cores c h := core_setWeave_ne s _ c _ w h
  core := by
    show { (s.setWeave a.core a.slot w).core a.core with slots := (s.core a.core).slots } = _
    simp [State.setWeave, State.modifyCore]
  slots n h := weave_setWeave_ne s _ _ n w h

theorem OnlyWeave.refl (s : State) (a : Actor) : OnlyWeave s s a :=
  ⟨fun _ => rfl, rfl, fun _ _ => rfl, rfl, fun _ _ => rfl⟩

theorem OnlyWeave.trans {s t u : State} {a : Actor} (h : OnlyWeave s t a) (k : OnlyWeave t u a) : OnlyWeave s u a where
  memory p := (k.memory p).trans (h.memory p)
  machine := by rw [← h.machine, ← k.machine]
  cores c hc := (k.cores c hc).trans (h.cores c hc)
  core := by rw [← h.core, ← k.core]
  slots n hn := (k.slots n hn).trans (h.slots n hn)

theorem modifyWeave_some {s : State} {c n : Nat} {w : Weave} (f : Weave → Weave) (h : s.weave? c n = some w) :
    s.modifyWeave c n f = s.setWeave c n (f w) := by
  simp [State.modifyWeave, h]

/-! ### Paths -/

theorem path_modifyPath (w : Weave) (p i : Nat) (f : Path → Path) :
    (w.modifyPath p f).path? i = if p = i then (w.path? i).map f else w.path? i := by
  simp only [Weave.path?, Weave.modifyPath, getElem?_modifyAt]
  split
  · cases w.paths[i]? with
    | none => rfl
    | some x => cases x <;> rfl
  · rfl

theorem path_putPath (w : Weave) (p i : Nat) (q : Option Path) (h : p < w.paths.length) :
    (w.putPath p q).path? i = if p = i then q else w.path? i := by
  simp only [Weave.path?, Weave.putPath, getElem?_setAt]
  split
  · subst_vars; rw [List.getElem?_eq_getElem h]; rfl
  · rfl

theorem path_lt {w : Weave} {p : Nat} {q : Path} (h : w.path? p = some q) : p < w.paths.length := by
  simp only [Weave.path?] at h
  by_cases hp : p < w.paths.length
  · exact hp
  · simp [List.getElem?_eq_none (by omega : w.paths.length ≤ p)] at h

/-! ### Jamb updates -/

/-- What a jamb update of path `p` leaves alone: everything but the two jamb tables and that path's refinements. -/
structure JambOnly (w w' : Weave) (p : Nat) : Prop where
  rest : { w' with vjambs := w.vjambs, sjambs := w.sjambs, paths := w.paths } = w
  others : ∀ i, i ≠ p → w'.path? i = w.path? i
  here : ∀ q, w.path? p = some q → ∃ q', w'.path? p = some q' ∧ { q' with refinements := q.refinements } = q
  gone : w.path? p = none → w'.path? p = none

theorem JambOnly.refl (w : Weave) (p : Nat) : JambOnly w w p :=
  ⟨rfl, fun _ _ => rfl, fun q h => ⟨q, h, rfl⟩, fun h => h⟩

theorem JambOnly.trans {w v u : Weave} {p : Nat} (h : JambOnly w v p) (k : JambOnly v u p) : JambOnly w u p where
  rest := by rw [← h.rest, ← k.rest]
  others i hi := (k.others i hi).trans (h.others i hi)
  here q hq := by
    obtain ⟨q1, h1, e1⟩ := h.here q hq
    obtain ⟨q2, h2, e2⟩ := k.here q1 h1
    exact ⟨q2, h2, by rw [← e1, ← e2]⟩
  gone hq := k.gone (h.gone hq)

theorem jambOnly_setTableJamb (w : Weave) (c : Nat) (j : Jamb) (p : Nat) : JambOnly w (w.setTableJamb c j) p := by
  have hp : ∀ i, (w.setTableJamb c j).path? i = w.path? i := fun i => by simp [Weave.path?]
  refine ⟨?_, fun i _ => hp i, fun q h => ⟨q, (hp p).trans h, rfl⟩, fun h => (hp p).trans h⟩
  unfold Weave.setTableJamb
  (repeat' split) <;> rfl

theorem jambOnly_modifyPath (w : Weave) (p : Nat) (f : Path → List Refine) :
    JambOnly w (w.modifyPath p (fun q => { q with refinements := f q })) p where
  rest := rfl
  others i h := by rw [path_modifyPath, if_neg (Ne.symm h)]
  here q h := ⟨{ q with refinements := f q }, by rw [path_modifyPath, if_pos rfl, h]; rfl, rfl⟩
  gone h := by rw [path_modifyPath, if_pos rfl, h]; rfl

theorem jambOnly_dropRefinement (w : Weave) (p c : Nat) : JambOnly w (w.dropRefinement p c) p :=
  jambOnly_modifyPath w p (fun q => q.refinements.filter (fun r => r.reg != c))

theorem jambOnly_setRefinement (w : Weave) (p c : Nat) (j : Jamb) : JambOnly w (w.setRefinement p c j) p := by
  unfold Weave.setRefinement
  dsimp only
  split
  · exact JambOnly.refl w p
  · split
    · exact jambOnly_dropRefinement w p c
    · exact jambOnly_modifyPath w p _

theorem jambOnly_writeJamb (w : Weave) (p c : Nat) (j : Jamb) (g : Bool) : JambOnly w (w.writeJamb p c j g) p := by
  unfold Weave.writeJamb
  dsimp only
  split
  · exact JambOnly.refl w p
  · split
    · exact jambOnly_setTableJamb w _ _ p
    · split
      · exact (jambOnly_setTableJamb w _ _ p).trans (jambOnly_dropRefinement _ p c)
      · exact (jambOnly_setTableJamb w _ _ p).trans (jambOnly_setRefinement _ p c _)

theorem jambOnly_narrowJamb (w : Weave) (p c : Nat) (j : Jamb) : JambOnly w (w.narrowJamb p c j) p := by
  unfold Weave.narrowJamb
  split
  · exact JambOnly.refl w p
  · split
    · exact (jambOnly_setTableJamb w _ _ p).trans (jambOnly_dropRefinement _ p c)
    · exact jambOnly_setRefinement _ p c _

/-- The jamb updates of an issue. -/
theorem jambOnly_applyJambs (w : Weave) (p : Nat) (g : Bool) (js : List (Nat × Jamb)) :
    JambOnly w (applyJambs w p g js) p := by
  induction js generalizing w with
  | nil => exact JambOnly.refl w p
  | cons x js ih => exact (jambOnly_writeJamb w p x.1 x.2 g).trans (ih _)

/-- Jambs of registers that no update names stay in the table. -/
theorem jambsKept_writeJamb (w : Weave) (p c : Nat) (j : Jamb) (g : Bool) : JambsKept w (w.writeJamb p c j g) [c] := by
  have hs : ∀ (v : Weave) (j : Jamb), JambsKept v (v.setTableJamb c j) [c] := by
    intro v j
    unfold Weave.setTableJamb
    split
    · exact ⟨fun _ _ => rfl, fun _ _ => rfl⟩
    · split
      · refine ⟨fun n hn => ?_, fun _ _ => rfl⟩
        have : c ≠ n := fun h => hn (by simp [h])
        simp [getElem?_setAt, this]
      · refine ⟨fun _ _ => rfl, fun n hn => ?_⟩
        have : c - 0x100 ≠ n := fun h => hn (by simp; omega)
        simp [getElem?_setAt, this]
  have hp : ∀ (v u : Weave) (l : List (Option Path)), JambsKept v u [c] → JambsKept v { u with paths := l } [c] :=
    fun v u l h => ⟨h.vjambs, h.sjambs⟩
  have hr : ∀ (v u : Weave) (j : Jamb), JambsKept v u [c] → JambsKept v (u.setRefinement p c j) [c] := by
    intro v u j h
    unfold Weave.setRefinement
    dsimp only
    (repeat' split) <;> first | exact h | exact hp _ _ _ h
  unfold Weave.writeJamb
  dsimp only
  split
  · exact ⟨fun _ _ => rfl, fun _ _ => rfl⟩
  · split
    · exact hs w _
    · split
      · exact hp _ _ _ (hs w _)
      · exact hr _ _ _ (hs w _)

theorem JambsKept.mono {w v u : Weave} {a b : List Nat} (h : JambsKept w v a) (k : JambsKept v u b) :
    JambsKept w u (a ++ b) where
  vjambs n hn := by
    simp only [List.mem_append, not_or] at hn
    exact (k.vjambs n hn.2).trans (h.vjambs n hn.1)
  sjambs n hn := by
    simp only [List.mem_append, not_or] at hn
    exact (k.sjambs n hn.2).trans (h.sjambs n hn.1)

theorem jambsKept_applyJambs (w : Weave) (p : Nat) (g : Bool) (js : List (Nat × Jamb)) :
    JambsKept w (applyJambs w p g js) (js.map (fun x => x.1)) := by
  induction js generalizing w with
  | nil => exact ⟨fun _ _ => rfl, fun _ _ => rfl⟩
  | cons x js ih => exact JambsKept.mono (jambsKept_writeJamb w p x.1 x.2 g) (ih _)

end Sys2Proof.Laws
end

