-- ==== Sys2Proof/Laws/Issue.lean ====
section
/-! SUPPORT. Issue: when the checks pass, what an instruction reads, and the state it leaves. -/

namespace Sys2Proof.Laws

open Machine

/-! ### Nothing owed -/

theorem owedLane_none {w : Weave} (h : ∀ o ∈ w.ops, o.writes = []) (c k : Nat) : w.owedLane c k = none := by
  unfold Weave.owedLane
  rw [List.findSome?_eq_none_iff]
  intro o ho
  rw [h o ho]; rfl

theorem pending_false {w : Weave} (h : ∀ o ∈ w.ops, o.writes = []) (c : Nat) : w.pending c = false := by
  unfold Weave.pending
  rw [List.any_eq_false]
  intro o ho
  simp [h o ho]

theorem seenLane_eq {w : Weave} (h : ∀ o ∈ w.ops, o.writes = []) (n r k : Nat) : w.seenLane n r k = w.vlane r k := by
  simp [Weave.seenLane, owedLane_none h]

theorem seenScalar_eq {w : Weave} (h : ∀ o ∈ w.ops, o.writes = []) (n r : Nat) : w.seenScalar n r = w.sreg r := by
  simp [Weave.seenScalar, pending_false h]

theorem seenPred_eq {w : Weave} (h : ∀ o ∈ w.ops, o.writes = []) (n r : Nat) : w.seenPred n r = w.pred r := by
  simp [Weave.seenPred, pending_false h]

theorem yieldOwed_eq {w : Weave} (h : ∀ o ∈ w.ops, o.writes = []) (n c : Nat) (m : LaneMask) : w.yieldOwed n c m = w := by
  simp [Weave.yieldOwed, pending_false h]

theorem windowViolation_none {p : Path} (h : p.windows = []) (rs ws : List Nat) : windowViolation p rs ws = none := by
  simp [windowViolation, h]

theorem settleOwed_self {w : Weave} (h : ∀ o ∈ w.ops, o.writes = []) (p : Path) (cs : List Nat) :
    settleOwed w p cs = some w := by
  unfold settleOwed
  dsimp only
  rw [List.filter_eq_nil_iff.2 (fun o ho => by simp [h o ho])]
  rfl

/-! ### The gate -/

/-- What an issuing instruction has in hand. -/
structure InHand (s : State) (e : Env) : Prop where
  actor : e.a = s.cur
  before : ∃ w q, s.weave? s.cur.core s.cur.slot = some w ∧ w.path? s.cur.path = some q
    ∧ q.cond = .ready ∧ e.p = q.countIssue ∧ e.w = w.modifyPath s.cur.path Path.countIssue
  state : e.s = { s.setWeave s.cur.core s.cur.slot e.w with serial := s.serial + 1 }
  path : e.w.path? e.a.path = some e.p
  stepping : e.p.stepping = 0
  halt : e.p.haltRequest = false
  captured : e.p.captured = none
  owed : ∀ o ∈ e.w.ops, o.writes = []

theorem issuing_inHand {i : Instr} {g : Engine} {s : State} {e : Env} (h : Issuing i g s e) : InHand s e := by
  obtain ⟨sig, f, w, q, -, hw, hq, hr, hh, hs, hc, -, ho, -, -, -, -, rfl⟩ := h.known
  refine ⟨rfl, ⟨w, q, hw, hq, hr, rfl, rfl⟩, rfl, ?_, hs, hh, hc, ho⟩
  show (w.modifyPath s.cur.path Path.countIssue).path? s.cur.path = some q.countIssue
  rw [path_modifyPath, if_pos rfl, hq]; rfl

theorem acting_ne {i : Instr} {g : Engine} {s : State} {e : Env} (h : Issuing i g s e) : e.acting ≠ 0 := by
  obtain ⟨k, hk⟩ := h.acts
  intro h0
  simp [Env.lanes, mem_lanes, h0, LaneMask.has] at hk

/-- An issuing instruction passes every check. -/
theorem gate_of_issuing {i : Instr} {g : Engine} {s : State} {e : Env} (h : Issuing i g s e) : issueGate i s = .ok e := by
  obtain ⟨sig, f, w, q, hsig, hw, hq, hr, hh, hs, hc, -, ho, hd, hp, hwait, hwin, he⟩ := h.known
  have hfull := h.counter
  have hpath : s.path? s.cur = some q := by simp [State.path?, hw, hq]
  have hpriv : (sig.privileged && !s.cur.isHinge) = false := by
    cases h1 : sig.privileged
    · rfl
    · simp [hp h1]
  have hpath2 : (w.modifyPath s.cur.path Path.countIssue).path? s.cur.path = some q.countIssue := by
    rw [path_modifyPath, if_pos rfl, hq]; rfl
  have hv (g : Sig) : (if bitAt w.mode.toNat 2 = true then windowViolation q (touches i g f).1 (touches i g f).2 else none) = none := by
    by_cases hm : bitAt w.mode.toNat 2 = true
    · rw [if_pos hm, windowViolation_none (hwin hm)]
    · rw [if_neg hm]
  unfold issueGate
  simp only [hsig, hw, hpath, hr, hh, hwait, hpriv, hd]
  simp only [Bool.false_and, Bool.not_true, Bool.false_eq_true, if_false]
  simp only [hv, settleOwed_self ho, hpath2, bne_self_eq_false, Bool.and_false, if_false, Bool.false_eq_true]
  rw [← he, hfull]
  rfl

/-! ### After the effect -/

theorem modifyWeave_none {s : State} {c n : Nat} (f : Weave → Weave) (h : s.weave? c n = none) :
    s.modifyWeave c n f = s := by
  simp [State.modifyWeave, h]

/-- A weave after an instruction: its registers and the rest as before, its path's place set. -/
structure WeaveAfter (w w' : Weave) (p : Nat) (next : VAddr) : Prop where
  rest : { w' with paths := w.paths } = w
  others : ∀ i, i ≠ p → w'.path? i = w.path? i
  here : ∀ q, w.path? p = some q → ∃ q', w'.path? p = some q' ∧ q'.pc = next ∧ q'.cond = .ready ∧ q'.mask = q.mask
    ∧ q'.stack = q.stack ∧ q'.counters = q.counters ∧ q'.issued = q.issued ∧ q'.refinements = q.refinements

theorem set_set {α : Type} (t : Table α) (k : Nat) (a b : α) : Table.set (Table.set t k a) k b = Table.set t k b := by
  induction t with
  | nil => simp [Table.set]
  | cons p t ih =>
    obtain ⟨k', v⟩ := p
    by_cases hk : k = k'
    · simp [Table.set, hk]
    · by_cases hl : k < k'
      · simp [Table.set, hk, hl]
      · simp [Table.set, hk, hl, ih]

@[simp] theorem setWeave_setWeave (s : State) (c n : Nat) (u v : Weave) :
    (s.setWeave c n u).setWeave c n v = s.setWeave c n v := by
  simp [State.setWeave, State.modifyCore, State.setCore, State.core, set_set]

/-- A path that is neither stepped nor asked to halt goes on. -/
theorem afterDebug_quiet (s : State) (a : Actor) (f : Fields) (serial : Nat) (pf : Bool) :
    s.afterDebug a f serial 0 false pf = s := by
  unfold State.afterDebug
  cases s.path? a <;> simp

/-- What an instruction that is done leaves when its path is neither stepped nor asked to halt: its weave with the path
READY at next, and nothing else. -/
theorem finish_done {e : Env} {t : State} {w : Weave} (pf : Bool) (hs : e.p.stepping = 0)
    (hh : e.p.haltRequest = false) (hw : t.weave? e.a.core e.a.slot = some w) :
    ∃ w', e.finish t false pf = t.setWeave e.a.core e.a.slot w' ∧ WeaveAfter w w' e.a.path e.next := by
  refine ⟨(w.modifyPath e.a.path (fun q => q.goOn e.next)).modifyPath e.a.path (fun q =>
    q.stamp e.i e.f e.serial t.tick e.p.pc (if e.acting = 0 then [] else e.dests)), ?_, ?_⟩
  · simp only [Env.finish, Bool.false_eq_true, if_false, State.modifyPath, State.afterIssue, hs, hh, afterDebug_quiet]
    rw [modifyWeave_some _ hw, modifyWeave_some _ (weave_setWeave _ _ _ _)]
    simp
  · refine ⟨rfl, fun i hi => ?_, fun q hq => ?_⟩
    · simp [path_modifyPath, Ne.symm hi]
    · simp [path_modifyPath, hq, Path.stamp, Path.goOn]

/-- The same for an effect that has set the path's place itself. -/
theorem finish_moved {e : Env} {t : State} {w : Weave} (pf : Bool) (hs : e.p.stepping = 0)
    (hh : e.p.haltRequest = false) (hw : t.weave? e.a.core e.a.slot = some w) :
    e.finish t true pf = t.setWeave e.a.core e.a.slot (w.modifyPath e.a.path (fun q =>
      q.stamp e.i e.f e.serial t.tick e.p.pc (if e.acting = 0 then [] else e.dests))) := by
  simp only [Env.finish, if_true, State.afterIssue, State.modifyPath, hs, hh, afterDebug_quiet]
  rw [modifyWeave_some _ hw]

/-- An issuing instruction whose effect is done, with its jambs and its path's place set: the next state. -/
theorem issue_done {i : Instr} {form : Form} {s t : State} {e : Env} {w : Weave}
    (h : Issuing i form.engine s e) (hb : form.body e = .done t) (hw : t.weave? e.a.core e.a.slot = some w) :
    ∃ w', issue i form s = .next (t.setWeave e.a.core e.a.slot w')
      ∧ WeaveAfter (applyJambs w e.a.path e.guarded (form.jambs e)) w' e.a.path e.next := by
  have hin := issuing_inHand h
  obtain ⟨w', hw', ha⟩ := finish_done (e := e) (t := t.setWeave e.a.core e.a.slot
      (applyJambs w e.a.path e.guarded (form.jambs e))) (t.laneMask? e.a != some e.p.mask) hin.stepping hin.halt
    (weave_setWeave _ _ _ _)
  refine ⟨w', ?_, ha⟩
  unfold issue
  rw [gate_of_issuing h]
  simp only [issueEffect, acting_ne h, h.role, hb, if_false, Bool.not_true, Bool.false_eq_true]
  rw [modifyWeave_some _ hw, hw', setWeave_setWeave]

/-- One whose effect has moved the path. -/
theorem issue_moved {i : Instr} {form : Form} {s t : State} {e : Env}
    (h : Issuing i form.engine s e) (hb : form.body e = .moved t) :
    issue i form s = .next (e.finish t true (t.parkedSince s e.a)) := by
  unfold issue
  rw [gate_of_issuing h]
  simp only [issueEffect, acting_ne h, h.role, hb, if_false, Bool.not_true, Bool.false_eq_true]

/-- A path that is neither stepped nor asked to halt takes its trap as it is. -/
theorem trapIssued_quiet {s : State} {q : Path} (a : Actor) (f : Fields) (c : Cause) (d : BitVec 96) (next : VAddr)
    (hs : q.stepping = 0) (hh : q.haltRequest = false) : s.trapIssued a q f c d next = s.trapPath a c d next := by
  simp [State.trapIssued, hs, hh, afterDebug_quiet]

/-- One that stops its path before any effect. -/
theorem issue_trap {i : Instr} {form : Form} {s : State} {e : Env} {c : Cause} {d : BitVec 96}
    (h : Issuing i form.engine s e) (hb : form.body e = .trap c d) :
    issue i form s = .next (s.trapPath e.a c d e.next) := by
  unfold issue
  rw [gate_of_issuing h]
  have hin := issuing_inHand h
  simp only [issueEffect, acting_ne h, h.role, hb, if_false, Bool.not_true, Bool.false_eq_true,
    trapIssued_quiet _ _ _ _ _ hin.stepping hin.halt]

end Sys2Proof.Laws
end

