-- ==== Sys2Proof/Laws/Registers.lean ====
section
/-! SUPPORT. Registers: what a destination's write does, and the run of an instruction that writes registers alone. -/

namespace Sys2Proof.Laws

open Machine

/-- From `w` to `w'` only values and tags of the registers in `written` may change. -/
structure RegsOnly (w w' : Weave) (written : List Nat) : Prop where
  regs : RegsKept w w' written
  rest : { w' with vregs := w.vregs, tags := w.tags, sregs := w.sregs, preds := w.preds, aregs := w.aregs
                   shapes := w.shapes } = w

theorem RegsKept.refl (w : Weave) (l : List Nat) : RegsKept w w l :=
  ⟨fun _ _ => ⟨rfl, rfl⟩, fun _ _ => rfl, fun _ _ => rfl, fun _ _ => rfl, fun _ _ => rfl⟩

theorem RegsKept.mono {w v : Weave} {a b : List Nat} (h : RegsKept w v a) (k : ∀ x ∈ a, x ∈ b) : RegsKept w v b :=
  ⟨fun n hn => h.vregs n (fun x => hn (k _ x)), fun n hn => h.sregs n (fun x => hn (k _ x)),
   fun n hn => h.preds n (fun x => hn (k _ x)), fun n hn => h.aregs n (fun x => hn (k _ x)),
   fun n hn => h.shapes n (fun x => hn (k _ x))⟩

theorem RegsKept.trans {w v u : Weave} {l : List Nat} (h : RegsKept w v l) (k : RegsKept v u l) : RegsKept w u l :=
  ⟨fun n hn => ⟨(k.vregs n hn).1.trans (h.vregs n hn).1, (k.vregs n hn).2.trans (h.vregs n hn).2⟩,
   fun n hn => (k.sregs n hn).trans (h.sregs n hn), fun n hn => (k.preds n hn).trans (h.preds n hn),
   fun n hn => (k.aregs n hn).trans (h.aregs n hn), fun n hn => (k.shapes n hn).trans (h.shapes n hn)⟩

theorem RegsOnly.refl (w : Weave) (l : List Nat) : RegsOnly w w l := ⟨RegsKept.refl w l, rfl⟩

theorem RegsOnly.mono {w v : Weave} {a b : List Nat} (h : RegsOnly w v a) (k : ∀ x ∈ a, x ∈ b) : RegsOnly w v b :=
  ⟨RegsKept.mono h.regs k, h.rest⟩

theorem RegsOnly.trans {w v u : Weave} {l : List Nat} (h : RegsOnly w v l) (k : RegsOnly v u l) : RegsOnly w u l :=
  ⟨RegsKept.trans h.regs k.regs, by rw [← h.rest, ← k.rest]⟩

theorem regsOnly_writeLanes (w : Weave) (n : Nat) (m : LaneMask) (v : Nat → Word32) :
    RegsOnly w (w.writeLanes n m v) [n] := by
  refine ⟨⟨fun k hk => ⟨?_, by simp⟩, fun _ _ => by simp, fun _ _ => by simp, fun _ _ => by simp, fun _ _ => by simp⟩, ?_⟩
  · unfold Weave.writeLanes
    have : n ≠ k := fun h => hk (by simp [h])
    split <;> simp [getElem?_modifyAt, this]
  · unfold Weave.writeLanes
    split <;> rfl

theorem regsOnly_writeTag (w : Weave) (n : Nat) (t : Tag) : RegsOnly w (w.writeTag n t) [n] := by
  refine ⟨⟨fun k hk => ⟨by simp, ?_⟩, fun _ _ => by simp, fun _ _ => by simp, fun _ _ => by simp, fun _ _ => by simp⟩, rfl⟩
  have : n ≠ k := fun h => hk (by simp [h])
  simp [Weave.writeTag, getElem?_setAt, this]

theorem regsOnly_writeScalar (w : Weave) (n : Nat) (v : Word64) : RegsOnly w (w.writeScalar n v) [0x100 + n] := by
  refine ⟨⟨fun _ _ => by simp, fun k hk => ?_, fun _ _ => by simp, fun _ _ => by simp, fun _ _ => by simp⟩, rfl⟩
  have : n ≠ k := fun h => hk (by simp [h])
  simp [Weave.writeScalar, getElem?_setAt, this]

theorem regsOnly_writePred (w : Weave) (n : Nat) (m b : LaneMask) : RegsOnly w (w.writePred n m b) [0x200 + n] := by
  refine ⟨⟨fun _ _ => by simp, fun _ _ => by simp, fun k hk => ?_, fun _ _ => by simp, fun _ _ => by simp⟩, rfl⟩
  have : n ≠ k := fun h => hk (by simp [h])
  simp [Weave.writePred, getElem?_modifyAt, this]

theorem regsOnly_writeAreg (w : Weave) (n : Nat) (v : BitVec 128) : RegsOnly w (w.writeAreg n v) [0x210 + n] := by
  refine ⟨⟨fun _ _ => by simp, fun _ _ => by simp, fun _ _ => by simp, fun k hk => ?_, fun _ _ => by simp⟩, rfl⟩
  have : n ≠ k := fun h => hk (by simp [h])
  simp [Weave.writeAreg, getElem?_setAt, this]

/-- Lane `k` of a vector register written under a mask. -/
theorem laneAt_writeLanes (w : Weave) (n k : Nat) (m : LaneMask) (v : Nat → Word32) (old : Word32) (h255 : n ≠ 0xFF)
    (h : laneAt? w n k = some old) : laneAt? (w.writeLanes n m v) n k = some (if m.has k then v k else old) := by
  simp only [laneAt?, Weave.writeLanes, h255, if_false, getElem?_modifyAt, if_true] at *
  cases hl : w.vregs[n]? with
  | none => simp [hl] at h
  | some l =>
    rw [hl] at h
    simp only [Option.bind_some, Option.map_some] at h ⊢
    obtain ⟨hk, he⟩ := List.getElem?_eq_some_iff.1 h
    simp [hk, he]

theorem has_writePred (old m b : LaneMask) (k : Nat) (h : k < 1024) :
    LaneMask.has ((old &&& ~~~m) ||| (b &&& m)) k = if m.has k then b.has k else old.has k := by
  simp [h]
  cases m.has k <;> simp

theorem not_codes {a b : Nat} (h : a ≠ b) : a ∉ [b] := by simpa using h

/-- A destination written: nothing else changes, and it took its value (R200, R217, R218). -/
theorem writeDst_took {e : Env} {w : Weave} (ho : ∀ o ∈ e.w.ops, o.writes = []) (hops : w.ops = e.w.ops) (o : Operand)
    (v : Nat → Nat) : RegsOnly w (e.writeDst w o v) (writtenBy o) := by
  have ho' : ∀ o ∈ w.ops, o.writes = [] := by rw [hops]; exact ho
  cases o <;> simp only [Env.writeDst, writtenBy] <;> try exact RegsOnly.refl _ _
  · simp only [Env.setLanes, yieldOwed_eq ho']; exact regsOnly_writeLanes _ _ _ _
  · simp only [Env.setScalar, yieldOwed_eq ho']; exact regsOnly_writeScalar _ _ _
  · simp only [Env.setPred, yieldOwed_eq ho']; exact regsOnly_writePred _ _ _ _

/-- The value that a destination takes. -/
theorem took_writeDst {e : Env} {w' : Weave} (ho : ∀ o ∈ e.w.ops, o.writes = []) (o : Operand) (v : Nat → Nat)
    (hv : o ≠ .vreg 0xFF) (h1 : w'.vregs = (e.writeDst e.w o v).vregs) (h2 : w'.sregs = (e.writeDst e.w o v).sregs)
    (h3 : w'.preds = (e.writeDst e.w o v).preds) : Took e w' o v := by
  cases o <;> simp only [Took] <;> simp only [Env.writeDst] at h1 h2 h3
  · rename_i n
    intro k old hk
    have hn : n ≠ 0xFF := fun h => hv (by rw [h])
    simp only [Env.setLanes, yieldOwed_eq ho] at h1
    have := laneAt_writeLanes e.w n k e.acting (fun k => BitVec.ofNat 32 (v k)) old hn hk
    simpa [laneAt?, h1] using this
  · rename_i n
    intro old hold
    simp only [Env.setScalar, yieldOwed_eq ho, Weave.writeScalar] at h2
    simp [h2, getElem?_setAt, hold]
  · rename_i n
    intro old k hold hk hk2
    simp only [Env.setPred, yieldOwed_eq ho, Weave.writePred] at h3
    refine ⟨_, by rw [h3, getElem?_modifyAt, if_pos rfl, hold]; rfl, ?_⟩
    rw [has_writePred _ _ _ _ hk2]
    by_cases ha : e.acting.has k
    · have : k ∈ e.lanes := by simp [Env.lanes, mem_lanes, ha, hk]
      simp only [ha, if_true, has_ofLanes, hk2, decide_true, Bool.true_and, List.contains_eq_mem, List.mem_filter, this,
        true_and]
      cases v k % 2 == 1 <;> simp
    · simp [ha]

/-- A weave with the registers, jambs and paths of another. -/
def restOf (w v : Weave) : Weave :=
  { v with
    vregs := w.vregs, tags := w.tags, vjambs := w.vjambs, sregs := w.sregs, sjambs := w.sjambs
    preds := w.preds, aregs := w.aregs, shapes := w.shapes, paths := w.paths }

/-- An instruction whose effect writes registers alone. -/
theorem registerRun {i : Instr} {form : Form} {s : State} {e : Env} {w : Weave} {l : List Nat}
    (h : Issuing i form.engine s e) (hb : form.body e = .done (e.put e.s w)) (hr : RegsOnly e.w w l)
    (hj : ∀ x ∈ form.jambs e, x.1 ∈ l) :
    ∃ t w', issue i form s = .next t ∧ RegisterRun s e t w' l ∧ w'.vregs = w.vregs ∧ w'.tags = w.tags
      ∧ w'.sregs = w.sregs ∧ w'.preds = w.preds ∧ w'.aregs = w.aregs ∧ w'.shapes = w.shapes := by
  have hin := issuing_inHand h
  obtain ⟨w', hi, ha⟩ := issue_done h hb (weave_setWeave _ _ _ _)
  have hjo := jambOnly_applyJambs w e.a.path e.guarded (form.jambs e)
  have hjk := jambsKept_applyJambs w e.a.path e.guarded (form.jambs e)
  have hrest := ha.rest
  have hjr := hjo.rest
  generalize applyJambs w e.a.path e.guarded (form.jambs e) = w1 at *
  have e1 : w' = { w1 with paths := w'.paths } := congrArg (fun v : Weave => { v with paths := w'.paths }) hrest
  have e2 : w1 = { w with vjambs := w1.vjambs, sjambs := w1.sjambs, paths := w1.paths } :=
    congrArg (fun v : Weave => { v with vjambs := w1.vjambs, sjambs := w1.sjambs, paths := w1.paths }) hjr
  have hp : w.paths = e.w.paths := by
    have := congrArg Weave.paths hr.rest; exact this
  have hpath : ∀ i, w.path? i = e.w.path? i := fun i => by simp [Weave.path?, hp]
  have f1 : w'.vregs = w.vregs := by rw [e1, e2]
  have f2 : w'.tags = w.tags := by rw [e1, e2]
  have f3 : w'.sregs = w.sregs := by rw [e1, e2]
  have f4 : w'.preds = w.preds := by rw [e1, e2]
  have f5 : w'.aregs = w.aregs := by rw [e1, e2]
  have f6 : w'.shapes = w.shapes := by rw [e1, e2]
  have hvj : w.vjambs = e.w.vjambs := by have := congrArg Weave.vjambs hr.rest; exact this
  have hsj : w.sjambs = e.w.sjambs := by have := congrArg Weave.sjambs hr.rest; exact this
  have hset : (e.put e.s w).setWeave e.a.core e.a.slot w'
      = { s.setWeave e.a.core e.a.slot w' with serial := s.serial + 1 } := by
    rw [Env.put, setWeave_setWeave, hin.state, hin.actor]
    have : ∀ (x : State) (n : Nat), ({ x with serial := n } : State).setWeave s.cur.core s.cur.slot w'
        = { x.setWeave s.cur.core s.cur.slot w' with serial := n } := fun _ _ => rfl
    rw [this, setWeave_setWeave]
  refine ⟨_, w', hi, ⟨weave_setWeave _ _ _ _, ?_, ?_, ?_, ?_, ?_⟩, f1, f2, f3, f4, f5, f6⟩
  · rw [hset]; exact onlyWeave_setWeave s e.a w' _
  · have := hr.regs
    exact ⟨fun n hn => by rw [f1, f2]; exact this.vregs n hn, fun n hn => by rw [f3]; exact this.sregs n hn,
      fun n hn => by rw [f4]; exact this.preds n hn, fun n hn => by rw [f5]; exact this.aregs n hn,
      fun n hn => by rw [f6]; exact this.shapes n hn⟩
  · have g1 : w'.vjambs = w1.vjambs := by rw [e1]
    have g2 : w'.sjambs = w1.sjambs := by rw [e1]
    have sub : ∀ n, n ∉ l → n ∉ (form.jambs e).map (fun x => x.1) := by
      intro n hn hm
      obtain ⟨x, hx, rfl⟩ := List.mem_map.1 hm
      exact hn (hj x hx)
    exact ⟨fun n hn => by rw [g1, hjk.vjambs n (sub n hn), hvj], fun n hn => by rw [g2, hjk.sjambs _ (sub _ hn), hsj]⟩
  · have k1 : restOf e.w w' = restOf e.w w1 := by
      have h := congrArg (restOf e.w) e1
      exact h
    have k2 : restOf e.w w1 = restOf e.w w := by
      have h := congrArg (restOf e.w) e2
      exact h
    have k3 : restOf e.w w = restOf e.w e.w := by
      have h := congrArg (restOf e.w) hr.rest
      exact h
    exact k1.trans (k2.trans k3)
  · refine ⟨?_, fun i hi => by rw [ha.others i hi, hjo.others i hi, hpath]⟩
    obtain ⟨q1, hq1, hqr⟩ := hjo.here e.p (by rw [hpath]; exact hin.path)
    obtain ⟨q', hq', a1, a2, a3, a4, a5, a6, -⟩ := ha.here q1 hq1
    refine ⟨q', hq', a1, a2, ?_, ?_, ?_, ?_⟩ <;> rw [← hqr] <;> assumption

end Sys2Proof.Laws
end

