-- ==== Sys2Proof/Laws/Integer.lean ====
section
/-! SUPPORT. The shared shape of a class 0 form: what it leaves. -/

namespace Sys2Proof.Laws

open Machine

theorem issuing_fields {i : Instr} {g : Engine} {s : State} {e : Env} {sig : Sig} {f : Fields}
    (h : Issuing i g s e) (hs : sigOf i = some (sig, f)) : e.f = f ∧ e.i = i := by
  obtain ⟨sig', f', w, q, hsig, -, -, -, -, -, -, -, -, -, -, -, -, -, rfl⟩ := h.known
  rw [hs] at hsig
  obtain ⟨rfl, rfl⟩ := Prod.mk.inj (Option.some.inj hsig)
  exact ⟨rfl, rfl⟩

theorem ite_ne {α : Type} {p : Prop} [Decidable p] {a b x : α} (ha : p → a ≠ x) (hb : ¬p → b ≠ x) :
    (if p then a else b) ≠ x := by
  by_cases h : p
  · rw [if_pos h]; exact ha h
  · rw [if_neg h]; exact hb h

theorem ofCode_ne (c : Nat) : Operand.ofCode c ≠ .vreg 0xFF := by
  unfold Operand.ofCode
  refine ite_ne (fun h1 h2 => ?_) (fun _ => ?_)
  · injection h2; omega
  · repeat (refine ite_ne (fun _ h2 => by cases h2) (fun _ => ?_))
    intro h2; cases h2

theorem tagFails_none {e : Env} {t : Tag} {o : Operand} (h : TagOk e.w t o) : e.tagFails t o = none := by
  cases o <;> try rfl
  rename_i n
  have h : e.w.tag n = .untyped ∨ e.w.tag n = t := h
  have hc : (e.w.tag n == Tag.untyped || e.w.tag n == t) = true := by
    rcases h with h | h <;> rw [h]
    · rfl
    · rw [beq_self_eq_true, Bool.or_true]
  exact if_pos hc

theorem tagsFail_none {e : Env} {t : Tag} {os : List Operand} (h : ∀ o ∈ os, TagOk e.w t o) : e.tagsFail t os = none := by
  unfold Env.tagsFail
  rw [List.findSome?_eq_none_iff]
  exact fun o ho => tagFails_none (h o ho)

theorem dstJamb_written (o : Operand) (j : Jamb) : ∀ x ∈ dstJamb o j, x.1 ∈ writtenBy o := by
  cases o <;> simp [dstJamb, writtenBy]

theorem regsOnly_tagDst (w : Weave) (o : Operand) (t : Tag) : RegsOnly w (w.tagDst o t) (writtenBy o) := by
  cases o <;> simp only [Weave.tagDst, writtenBy] <;> first | exact regsOnly_writeTag _ _ _ | exact RegsOnly.refl _ _

@[simp] theorem tagDst_vregs (w : Weave) (o : Operand) (t : Tag) : (w.tagDst o t).vregs = w.vregs := by
  cases o <;> rfl
@[simp] theorem tagDst_sregs (w : Weave) (o : Operand) (t : Tag) : (w.tagDst o t).sregs = w.sregs := by
  cases o <;> rfl
@[simp] theorem tagDst_preds (w : Weave) (o : Operand) (t : Tag) : (w.tagDst o t).preds = w.preds := by
  cases o <;> rfl
@[simp] theorem tagDst_ops (w : Weave) (o : Operand) (t : Tag) : (w.tagDst o t).ops = w.ops := by
  cases o <;> rfl

theorem RegsOnly.ops {w v : Weave} {l : List Nat} (h : RegsOnly w v l) : v.ops = w.ops := by
  have := congrArg Weave.ops h.rest; exact this

theorem writeDst_tags {e : Env} (ho : ∀ o ∈ e.w.ops, o.writes = []) (o : Operand) (v : Nat → Nat) :
    (e.writeDst e.w o v).tags = e.w.tags := by
  cases o <;> simp [Env.writeDst, Env.setLanes, Env.setScalar, Env.setPred, yieldOwed_eq ho]

theorem tagged_tagDst {e : Env} {w w' : Weave} {o : Operand} {t : Tag} (h : w'.tags = (w.tagDst o t).tags)
    (hw : w.tags.length = e.w.tags.length) : Tagged e w' o t := by
  cases o <;> simp only [Tagged]
  intro hn
  rw [h]
  simp only [Weave.tagDst, Weave.writeTag, getElem?_setAt, if_true]
  rw [List.getElem?_eq_getElem (by omega)]; rfl

/-- A form whose effect writes its destination, with a tag: how it runs. -/
theorem writeDst_run {i : Instr} {form : Form} {s : State} {e : Env} {o : Operand} {t : Tag} {v : Nat → Nat}
    (h : Issuing i form.engine s e) (ho : o ≠ .vreg 0xFF)
    (hb : form.body e = .done (e.put e.s ((e.writeDst e.w o v).tagDst o t)))
    (hj : ∀ x ∈ form.jambs e, x.1 ∈ writtenBy o) :
    ∃ u w', issue i form s = .next u ∧ RegisterRun s e u w' (writtenBy o) ∧ Tagged e w' o t ∧ Took e w' o v := by
  have hin := issuing_inHand h
  obtain ⟨u, w', h1, h2, h3, h4, h5, h6, -⟩ := registerRun h hb
    ((writeDst_took hin.owed rfl o v).trans (regsOnly_tagDst _ o t)) hj
  refine ⟨u, w', h1, h2, tagged_tagDst h4 (by rw [writeDst_tags hin.owed]), ?_⟩
  exact took_writeDst hin.owed o v ho (by rw [h3]; simp) (by rw [h5]; simp) (by rw [h6]; simp)

/-- The same without a tag. -/
theorem writeDst_run_untagged {i : Instr} {form : Form} {s : State} {e : Env} {o : Operand} {v : Nat → Nat}
    (h : Issuing i form.engine s e) (ho : o ≠ .vreg 0xFF) (hb : form.body e = .done (e.put e.s (e.writeDst e.w o v)))
    (hj : ∀ x ∈ form.jambs e, x.1 ∈ writtenBy o) :
    ∃ u w', issue i form s = .next u ∧ RegisterRun s e u w' (writtenBy o) ∧ Took e w' o v := by
  have hin := issuing_inHand h
  obtain ⟨u, w', h1, h2, h3, h4, h5, h6, -⟩ := registerRun h hb (writeDst_took hin.owed rfl o v) hj
  exact ⟨u, w', h1, h2, took_writeDst hin.owed o v ho h3 h5 h6⟩

/-- A class 0 form with a destination and integer sources. -/
theorem intForm_run {i : Instr} {sig : Sig} {f : Fields} {s : State} {e : Env} {srcs : List (Fields → Operand)}
    {checked : Bool} {tag : Tag} {value : Fields → Nat → List Nat → Nat} {jamb : Fields → Nat → List Jamb → Jamb}
    (hs : sigOf i = some (sig, f)) (h : Issuing i .none s e)
    (ht : checked = true → ∀ o ∈ srcs, TagOk e.w .i32 (o f)) :
    ∃ t w', issue i (intForm srcs checked tag value jamb) s = .next t ∧ RegisterRun s e t w' (writtenBy f.xOp)
      ∧ Tagged e w' f.xOp tag
      ∧ Took e w' f.xOp (fun k => value f f.xOp.width (srcs.map (fun o => e.read f.xOp.width (o f) k))) := by
  obtain ⟨rfl, -⟩ := issuing_fields h hs
  refine writeDst_run (form := intForm srcs checked tag value jamb) h (ofCode_ne _) ?_ (dstJamb_written _ _)
  have htags : (if checked then e.tagsFail .i32 (srcs.map (fun o => o e.f)) else none) = none := by
    split
    · refine tagsFail_none (fun o ho => ?_)
      obtain ⟨g, hg, rfl⟩ := List.mem_map.1 ho
      exact ht ‹_› g hg
    · rfl
  simp only [intForm]
  rw [htags]

end Sys2Proof.Laws
end

