-- ==== Sys2Proof/Laws/Memory.lean ====
section
/-! SUPPORT. Memory: reading after writing, and the canonical form that every memory operation keeps. -/

namespace Sys2Proof.Laws

open Machine

/-! ### The canonical form -/

theorem wfFrom_mono {lo lo' : Nat} {m : Memory} (h : lo' ≤ lo) (w : Memory.wfFrom lo m = true) :
    Memory.wfFrom lo' m = true := by
  cases m with
  | nil => rfl
  | cons c m =>
    obtain ⟨a, b⟩ := c
    simp only [Memory.wfFrom, Bool.and_eq_true, decide_eq_true_eq] at *
    exact ⟨⟨by omega, w.1.2⟩, w.2⟩

theorem wfFrom_set {lo a : Nat} {b : Byte} {m : Memory} (hlo : lo ≤ a) (hb : b ≠ 0)
    (w : Memory.wfFrom lo m = true) : Memory.wfFrom lo (Table.set m a b) = true := by
  induction m generalizing lo with
  | nil => simp [Table.set, Memory.wfFrom, hlo]; exact hb
  | cons c m ih =>
    obtain ⟨k, v⟩ := c
    simp only [Memory.wfFrom, Bool.and_eq_true, decide_eq_true_eq, bne_iff_ne] at w
    simp only [Table.set]
    split
    · subst_vars; simp [Memory.wfFrom, w.2, hlo]; exact hb
    · split
      · simp only [Memory.wfFrom, Bool.and_eq_true, decide_eq_true_eq, bne_iff_ne]
        exact ⟨⟨hlo, hb⟩, ⟨by omega, w.1.2⟩, w.2⟩
      · simp only [Memory.wfFrom, Bool.and_eq_true, decide_eq_true_eq, bne_iff_ne]
        exact ⟨w.1, ih (by omega) w.2⟩

theorem wfFrom_filter {lo : Nat} {m : Memory} (p : Host.Cell → Bool) (w : Memory.wfFrom lo m = true) :
    Memory.wfFrom lo (m.filter p) = true := by
  induction m generalizing lo with
  | nil => rfl
  | cons c m ih =>
    obtain ⟨k, v⟩ := c
    simp only [Memory.wfFrom, Bool.and_eq_true, decide_eq_true_eq, bne_iff_ne] at w
    simp only [List.filter_cons]
    split
    · simp only [Memory.wfFrom, Bool.and_eq_true, decide_eq_true_eq, bne_iff_ne]
      exact ⟨w.1, ih w.2⟩
    · exact wfFrom_mono (by omega) (ih w.2)

theorem wfFrom_erase {lo a : Nat} {m : Memory} (w : Memory.wfFrom lo m = true) :
    Memory.wfFrom lo (Table.erase m a) = true := wfFrom_filter _ w

theorem wf_nil : Memory.wf [] = true := rfl

/-- Writing one byte keeps the canonical form. -/
theorem wf_write {m : Memory} (a : Nat) (b : Byte) (w : m.wf = true) : (m.write a b).wf = true := by
  simp only [Memory.write]
  split
  · exact wfFrom_erase w
  · exact wfFrom_set (Nat.zero_le a) ‹_› w

/-- Writing bytes keeps the canonical form. -/
theorem wf_writeBytes {m : Memory} (a : Nat) (bs : List Byte) (w : m.wf = true) : (m.writeBytes a bs).wf = true := by
  induction bs generalizing m a with
  | nil => exact w
  | cons b bs ih => exact ih _ (wf_write a b w)

/-- Clearing a range keeps the canonical form. -/
theorem wf_clear {m : Memory} (base n : Nat) (w : m.wf = true) : (m.clear base n).wf = true := wfFrom_filter _ w

/-! ### Reading after writing -/

/-- A byte written reads back. -/
theorem read_write_same (m : Memory) (a : Nat) (b : Byte) : (m.write a b).read a = b := by
  simp only [Memory.write, Memory.read]
  split
  · subst_vars; simp [table_find_erase]
  · simp

/-- A write leaves every other byte alone. -/
theorem read_write_other (m : Memory) (a a' : Nat) (b : Byte) (h : a' ≠ a) : (m.write a b).read a' = m.read a' := by
  simp only [Memory.write, Memory.read]
  split
  · simp [table_find_erase, h]
  · rw [table_find_set_ne m a a' b h]

/-- Bytes written read back, and every other byte is as it was. -/
theorem read_writeBytes (m : Memory) (a p : Nat) (bs : List Byte) :
    (m.writeBytes a bs).read p = if a ≤ p ∧ p < a + bs.length then (bs[p - a]?).getD 0 else m.read p := by
  induction bs generalizing m a with
  | nil =>
    rw [if_neg (by simp only [List.length_nil]; omega)]
    rfl
  | cons b bs ih =>
    simp only [Memory.writeBytes, List.length_cons]
    rw [ih (m.write a b) (a + 1)]
    by_cases h : p = a
    · subst h
      have : ¬ (p + 1 ≤ p ∧ p < p + 1 + bs.length) := by omega
      rw [if_neg this, read_write_same, if_pos (by omega)]
      simp
    · by_cases h2 : a + 1 ≤ p ∧ p < a + 1 + bs.length
      · rw [if_pos h2, if_pos (by omega)]
        have : p - a = (p - (a + 1)) + 1 := by omega
        rw [this]; simp
      · rw [if_neg h2, if_neg (by omega), read_write_other m a p b h]

theorem length_readBytes (m : Memory) (a n : Nat) : (m.readBytes a n).length = n := by
  induction n generalizing a with
  | zero => rfl
  | succ n ih => simp [Memory.readBytes, ih]

theorem getElem?_readBytes (m : Memory) (a n i : Nat) (h : i < n) : (m.readBytes a n)[i]? = some (m.read (a + i)) := by
  induction n generalizing a i with
  | zero => omega
  | succ n ih =>
    cases i with
    | zero => simp [Memory.readBytes]
    | succ i => simp [Memory.readBytes, ih (a + 1) i (by omega)]; congr 1; omega

/-- What is read where bytes were written. -/
theorem readBytes_writeBytes (m : Memory) (a : Nat) (bs : List Byte) :
    (m.writeBytes a bs).readBytes a bs.length = bs := by
  apply List.ext_getElem?
  intro i
  by_cases h : i < bs.length
  · rw [getElem?_readBytes _ _ _ _ h, read_writeBytes m a (a + i) bs, if_pos (by omega)]
    have : a + i - a = i := by omega
    rw [this, List.getElem?_eq_getElem h]; rfl
  · rw [List.getElem?_eq_none (by rw [length_readBytes]; omega), List.getElem?_eq_none (by omega)]

/-! ### The operations of the module -/

/-- A write at home keeps the canonical form. -/
theorem wf_writeHome {s : State} (pa : Nat) (bs : List Byte) (w : s.mem.wf = true) : (s.writeHome pa bs).mem.wf = true :=
  wf_writeBytes pa bs w

/-- What every address reads after a write at home. -/
theorem read_writeHome (s : State) (pa p : Nat) (bs : List Byte) :
    (s.writeHome pa bs).mem.read p = if pa ≤ p ∧ p < pa + bs.length then (bs[p - pa]?).getD 0 else s.mem.read p :=
  read_writeBytes s.mem pa p bs

/-- Freeing a frame keeps the canonical form. -/
theorem wf_zeroFrame {s : State} (frame : Nat) (w : s.mem.wf = true) : (s.zeroFrame frame).mem.wf = true :=
  wf_clear _ _ w

/-- A page copied keeps the canonical form. -/
theorem wf_copyPage {src dst : Memory} (a b : Nat) (w : dst.wf = true) : (src.copyPage dst a b).wf = true := by
  have h : ∀ (l : List Host.Cell) (m : Memory), m.wf = true →
      (l.foldl (fun (m : Memory) c => m.write (c.1 - a + b) c.2) m).wf = true := by
    intro l
    induction l with
    | nil => intro m h; exact h
    | cons c l ih => intro m h; exact ih _ (wf_write _ _ h)
  exact h _ _ (wf_clear _ _ w)

/-- Memory at reset lists nothing. -/
theorem wf_reset : State.reset.mem.wf = true ∧ State.reset.flash.wf = true := by decide

end Sys2Proof.Laws
end

