-- ==== Sys2Proof/Laws/PerInstr.lean ====
section
/-! SUPPORT. Statements made per instruction, one lemma for each constructor of Instr. Codec: the opcode that the encoder
writes is one that the decoder reads back as the same form, with the fields it is given (R193, R208); an event has no
encoding. -/

namespace Sys2Proof.Laws.Codec

/-- An instruction has an opcode of ten bits, and the form that the opcode map has there makes it of its fields, where no check of
R210 refuses them; an event has neither fields nor bytes, and is not well-formed. -/
def Statement (i : Instr) : Prop :=
  match opcOf i, i.fields with
  | some opc, some f => opc < 1024 ∧ (Machine.staticDefect i = none → ∃ mk, formOf opc = some mk ∧ mk f = i)
  | none, none => WellFormed i = false ∧ encode i = []
  | _, _ => False

/-- Where no check refuses an instruction, its form's check of MOD passes. -/
theorem mod_passes {i : Instr} {g : Machine.Sig} {f : Fields} (hs : Machine.sigOf i = some (g, f)) (h : Machine.staticDefect i = none) : g.mod f = true := by
  cases hm : g.mod f with
  | true => rfl
  | false =>
    have hd : g.modDefect f = some (.modReserved f.modN) := by simp [Machine.Sig.modDefect, hm]
    simp [Machine.staticDefect, Machine.firstDefect, hs, hd] at h

/-- MOD as a number fixes MOD. -/
theorem mod_of {i : Instr} {g : Machine.Sig} {f : Fields} (n : Nat) (hs : Machine.sigOf i = some (g, f)) (hg : g.mod = fun f => f.modN == n) (h : Machine.staticDefect i = none) :
    f.mod = BitVec.ofNat 11 n := by
  have hm := mod_passes hs h
  rw [hg] at hm
  have hn : f.mod.toNat = n := by simpa [Fields.modN] using hm
  rw [← hn, BitVec.ofNat_toNat, BitVec.setWidth_eq]

theorem iadd (f : Fields) : Statement (.iadd f) := ⟨by decide, fun _ => ⟨_, rfl, rfl⟩⟩
theorem isub (f : Fields) : Statement (.isub f) := ⟨by decide, fun _ => ⟨_, rfl, rfl⟩⟩
theorem imul (f : Fields) : Statement (.imul f) := ⟨by decide, fun _ => ⟨_, rfl, rfl⟩⟩
theorem imulh (f : Fields) : Statement (.imulh f) := ⟨by decide, fun _ => ⟨_, rfl, rfl⟩⟩
theorem imad (f : Fields) : Statement (.imad f) := ⟨by decide, fun _ => ⟨_, rfl, rfl⟩⟩
theorem imin (f : Fields) : Statement (.imin f) := ⟨by decide, fun _ => ⟨_, rfl, rfl⟩⟩
theorem imax (f : Fields) : Statement (.imax f) := ⟨by decide, fun _ => ⟨_, rfl, rfl⟩⟩
theorem iabs (f : Fields) : Statement (.iabs f) := ⟨by decide, fun _ => ⟨_, rfl, rfl⟩⟩
theorem ineg (f : Fields) : Statement (.ineg f) := ⟨by decide, fun _ => ⟨_, rfl, rfl⟩⟩
theorem icmp (f : Fields) : Statement (.icmp f) := ⟨by decide, fun _ => ⟨_, rfl, rfl⟩⟩
theorem isel (f : Fields) : Statement (.isel f) := ⟨by decide, fun _ => ⟨_, rfl, rfl⟩⟩
theorem andB (f : Fields) : Statement (.andB f) := ⟨by decide, fun _ => ⟨_, rfl, rfl⟩⟩
theorem orB (f : Fields) : Statement (.orB f) := ⟨by decide, fun _ => ⟨_, rfl, rfl⟩⟩
theorem xorB (f : Fields) : Statement (.xorB f) := ⟨by decide, fun _ => ⟨_, rfl, rfl⟩⟩
theorem andn (f : Fields) : Statement (.andn f) := ⟨by decide, fun _ => ⟨_, rfl, rfl⟩⟩
theorem notB (f : Fields) : Statement (.notB f) := ⟨by decide, fun _ => ⟨_, rfl, rfl⟩⟩
theorem shl (f : Fields) : Statement (.shl f) := ⟨by decide, fun _ => ⟨_, rfl, rfl⟩⟩
theorem shr (f : Fields) : Statement (.shr f) := ⟨by decide, fun _ => ⟨_, rfl, rfl⟩⟩
theorem sar (f : Fields) : Statement (.sar f) := ⟨by decide, fun _ => ⟨_, rfl, rfl⟩⟩
theorem rot (f : Fields) : Statement (.rot f) := ⟨by decide, fun _ => ⟨_, rfl, rfl⟩⟩
theorem bfe (f : Fields) : Statement (.bfe f) := ⟨by decide, fun _ => ⟨_, rfl, rfl⟩⟩
theorem bfi (f : Fields) : Statement (.bfi f) := ⟨by decide, fun _ => ⟨_, rfl, rfl⟩⟩
theorem popc (f : Fields) : Statement (.popc f) := ⟨by decide, fun _ => ⟨_, rfl, rfl⟩⟩
theorem clz (f : Fields) : Statement (.clz f) := ⟨by decide, fun _ => ⟨_, rfl, rfl⟩⟩
theorem brev (f : Fields) : Statement (.brev f) := ⟨by decide, fun _ => ⟨_, rfl, rfl⟩⟩
theorem lea (f : Fields) : Statement (.lea f) := ⟨by decide, fun _ => ⟨_, rfl, rfl⟩⟩
theorem plop (f : Fields) : Statement (.plop f) := ⟨by decide, fun _ => ⟨_, rfl, rfl⟩⟩
theorem widen (f : Fields) : Statement (.widen f) := ⟨by decide, fun _ => ⟨_, rfl, rfl⟩⟩
theorem bndget (f : Fields) : Statement (.bndget f) := ⟨by decide, fun _ => ⟨_, rfl, rfl⟩⟩
theorem bndtop (f : Fields) : Statement (.bndtop f) := ⟨by decide, fun _ => ⟨_, rfl, rfl⟩⟩
theorem arset (f : Fields) : Statement (.arset f) := ⟨by decide, fun _ => ⟨_, rfl, rfl⟩⟩
theorem arget (f : Fields) : Statement (.arget f) := ⟨by decide, fun _ => ⟨_, rfl, rfl⟩⟩
theorem archk (f : Fields) : Statement (.archk f) := ⟨by decide, fun _ => ⟨_, rfl, rfl⟩⟩
theorem nop (f : Fields) : Statement (.nop f) := ⟨by decide, fun _ => ⟨_, rfl, rfl⟩⟩
theorem bra (f : Fields) : Statement (.bra f) := ⟨by decide, fun _ => ⟨_, rfl, rfl⟩⟩
theorem brx (f : Fields) : Statement (.brx f) := ⟨by decide, fun _ => ⟨_, rfl, rfl⟩⟩
theorem bcmp (f : Fields) : Statement (.bcmp f) := ⟨by decide, fun _ => ⟨_, rfl, rfl⟩⟩
theorem call (f : Fields) : Statement (.call f) := ⟨by decide, fun _ => ⟨_, rfl, rfl⟩⟩
theorem ret (f : Fields) : Statement (.ret f) := ⟨by decide, fun _ => ⟨_, rfl, rfl⟩⟩
theorem reconv (f : Fields) : Statement (.reconv f) := ⟨by decide, fun _ => ⟨_, rfl, rfl⟩⟩
theorem exit (f : Fields) : Statement (.exit f) := ⟨by decide, fun _ => ⟨_, rfl, rfl⟩⟩
theorem endWeave (f : Fields) : Statement (.endWeave f) := ⟨by decide, fun _ => ⟨_, rfl, rfl⟩⟩
theorem trapSw (f : Fields) : Statement (.trapSw f) := ⟨by decide, fun _ => ⟨_, rfl, rfl⟩⟩
theorem bkpt (f : Fields) : Statement (.bkpt f) := ⟨by decide, fun _ => ⟨_, rfl, rfl⟩⟩
theorem fadd (f : Fields) : Statement (.fadd f) := ⟨by decide, fun _ => ⟨_, rfl, rfl⟩⟩
theorem fsub (f : Fields) : Statement (.fsub f) := ⟨by decide, fun _ => ⟨_, rfl, rfl⟩⟩
theorem fmul (f : Fields) : Statement (.fmul f) := ⟨by decide, fun _ => ⟨_, rfl, rfl⟩⟩
theorem ffma (f : Fields) : Statement (.ffma f) := ⟨by decide, fun _ => ⟨_, rfl, rfl⟩⟩
theorem fmin (f : Fields) : Statement (.fmin f) := ⟨by decide, fun _ => ⟨_, rfl, rfl⟩⟩
theorem fmax (f : Fields) : Statement (.fmax f) := ⟨by decide, fun _ => ⟨_, rfl, rfl⟩⟩
theorem fabs (f : Fields) : Statement (.fabs f) := ⟨by decide, fun _ => ⟨_, rfl, rfl⟩⟩
theorem fneg (f : Fields) : Statement (.fneg f) := ⟨by decide, fun _ => ⟨_, rfl, rfl⟩⟩
theorem fcmp (f : Fields) : Statement (.fcmp f) := ⟨by decide, fun _ => ⟨_, rfl, rfl⟩⟩
theorem fdot2 (f : Fields) : Statement (.fdot2 f) := ⟨by decide, fun _ => ⟨_, rfl, rfl⟩⟩
theorem frcp (f : Fields) : Statement (.frcp f) := ⟨by decide, fun _ => ⟨_, rfl, rfl⟩⟩
theorem frsq (f : Fields) : Statement (.frsq f) := ⟨by decide, fun _ => ⟨_, rfl, rfl⟩⟩
theorem fsqrt (f : Fields) : Statement (.fsqrt f) := ⟨by decide, fun _ => ⟨_, rfl, rfl⟩⟩
theorem fexp2 (f : Fields) : Statement (.fexp2 f) := ⟨by decide, fun _ => ⟨_, rfl, rfl⟩⟩
theorem flog2 (f : Fields) : Statement (.flog2 f) := ⟨by decide, fun _ => ⟨_, rfl, rfl⟩⟩
theorem fsin (f : Fields) : Statement (.fsin f) := ⟨by decide, fun _ => ⟨_, rfl, rfl⟩⟩
theorem fcos (f : Fields) : Statement (.fcos f) := ⟨by decide, fun _ => ⟨_, rfl, rfl⟩⟩
theorem ftanh (f : Fields) : Statement (.ftanh f) := ⟨by decide, fun _ => ⟨_, rfl, rfl⟩⟩
theorem cvt (f : Fields) : Statement (.cvt f) := ⟨by decide, fun _ => ⟨_, rfl, rfl⟩⟩
theorem cvtSat (f : Fields) : Statement (.cvtSat f) := ⟨by decide, fun _ => ⟨_, rfl, rfl⟩⟩
theorem cvtUns (f : Fields) : Statement (.cvtUns f) := ⟨by decide, fun _ => ⟨_, rfl, rfl⟩⟩
theorem cvtSatUns (f : Fields) : Statement (.cvtSatUns f) := ⟨by decide, fun _ => ⟨_, rfl, rfl⟩⟩
theorem quant (f : Fields) : Statement (.quant f) := ⟨by decide, fun _ => ⟨_, rfl, rfl⟩⟩
theorem dequant (f : Fields) : Statement (.dequant f) := ⟨by decide, fun _ => ⟨_, rfl, rfl⟩⟩
theorem qperm (f : Fields) : Statement (.qperm f) := ⟨by decide, fun _ => ⟨_, rfl, rfl⟩⟩
theorem pack (f : Fields) : Statement (.pack f) := ⟨by decide, fun _ => ⟨_, rfl, rfl⟩⟩
theorem unpack (f : Fields) : Statement (.unpack f) := ⟨by decide, fun _ => ⟨_, rfl, rfl⟩⟩
theorem fmtset (f : Fields) : Statement (.fmtset f) := ⟨by decide, fun _ => ⟨_, rfl, rfl⟩⟩
theorem fmtget (f : Fields) : Statement (.fmtget f) := ⟨by decide, fun _ => ⟨_, rfl, rfl⟩⟩
theorem mov (f : Fields) : Statement (.mov f) := ⟨by decide, fun _ => ⟨_, rfl, rfl⟩⟩
theorem movs (f : Fields) : Statement (.movs f) := ⟨by decide, fun _ => ⟨_, rfl, rfl⟩⟩
theorem s2v (f : Fields) : Statement (.s2v f) := ⟨by decide, fun _ => ⟨_, rfl, rfl⟩⟩
theorem v2s (f : Fields) : Statement (.v2s f) := ⟨by decide, fun _ => ⟨_, rfl, rfl⟩⟩
theorem shfl (f : Fields) : Statement (.shfl f) := ⟨by decide, fun _ => ⟨_, rfl, rfl⟩⟩
theorem vote (f : Fields) : Statement (.vote f) := ⟨by decide, fun _ => ⟨_, rfl, rfl⟩⟩
theorem ballot (f : Fields) : Statement (.ballot f) := ⟨by decide, fun _ => ⟨_, rfl, rfl⟩⟩
theorem wred (f : Fields) : Statement (.wred f) := ⟨by decide, fun _ => ⟨_, rfl, rfl⟩⟩
theorem ld (f : Fields) : Statement (.ld f) := ⟨by decide, fun _ => ⟨_, rfl, rfl⟩⟩
theorem st (f : Fields) : Statement (.st f) := ⟨by decide, fun _ => ⟨_, rfl, rfl⟩⟩
theorem ldr (f : Fields) : Statement (.ldr f) := ⟨by decide, fun _ => ⟨_, rfl, rfl⟩⟩
theorem str (f : Fields) : Statement (.str f) := ⟨by decide, fun _ => ⟨_, rfl, rfl⟩⟩
theorem lds (f : Fields) : Statement (.lds f) := ⟨by decide, fun _ => ⟨_, rfl, rfl⟩⟩
theorem sts (f : Fields) : Statement (.sts f) := ⟨by decide, fun _ => ⟨_, rfl, rfl⟩⟩
theorem atom (f : Fields) : Statement (.atom f) := ⟨by decide, fun _ => ⟨_, rfl, rfl⟩⟩
theorem red (f : Fields) : Statement (.red f) := ⟨by decide, fun _ => ⟨_, rfl, rfl⟩⟩
theorem atoms (f : Fields) : Statement (.atoms f) := ⟨by decide, fun _ => ⟨_, rfl, rfl⟩⟩
theorem spill (f : Fields) : Statement (.spill f) := ⟨by decide, fun _ => ⟨_, rfl, rfl⟩⟩
theorem fill (f : Fields) : Statement (.fill f) := ⟨by decide, fun _ => ⟨_, rfl, rfl⟩⟩
theorem pref (f : Fields) : Statement (.pref f) := ⟨by decide, fun _ => ⟨_, rfl, rfl⟩⟩
theorem stash (f : Fields) : Statement (.stash f) := ⟨by decide, fun _ => ⟨_, rfl, rfl⟩⟩
theorem unstash (f : Fields) : Statement (.unstash f) := ⟨by decide, fun _ => ⟨_, rfl, rfl⟩⟩
theorem stwb (f : Fields) : Statement (.stwb f) := ⟨by decide, fun _ => ⟨_, rfl, rfl⟩⟩
theorem phase (f : Fields) : Statement (.phase f) := ⟨by decide, fun _ => ⟨_, rfl, rfl⟩⟩
theorem fence (f : Fields) : Statement (.fence f) := ⟨by decide, fun _ => ⟨_, rfl, rfl⟩⟩
theorem fencex (f : Fields) : Statement (.fencex f) := ⟨by decide, fun _ => ⟨_, rfl, rfl⟩⟩
theorem bar (f : Fields) : Statement (.bar f) := ⟨by decide, fun _ => ⟨_, rfl, rfl⟩⟩
theorem abinit (f : Fields) : Statement (.abinit f) := ⟨by decide, fun _ => ⟨_, rfl, rfl⟩⟩
theorem abexp (f : Fields) : Statement (.abexp f) := ⟨by decide, fun _ => ⟨_, rfl, rfl⟩⟩
theorem abarr (f : Fields) : Statement (.abarr f) := ⟨by decide, fun _ => ⟨_, rfl, rfl⟩⟩
theorem abwait (f : Fields) : Statement (.abwait f) := ⟨by decide, fun _ => ⟨_, rfl, rfl⟩⟩
theorem joinHoop (f : Fields) : Statement (.joinHoop f) := ⟨by decide, fun _ => ⟨_, rfl, rfl⟩⟩
theorem leaveHoop (f : Fields) : Statement (.leaveHoop f) := ⟨by decide, fun _ => ⟨_, rfl, rfl⟩⟩
theorem hbar (f : Fields) : Statement (.hbar f) := ⟨by decide, fun _ => ⟨_, rfl, rfl⟩⟩
theorem waitc (f : Fields) : Statement (.waitc f) := ⟨by decide, fun _ => ⟨_, rfl, rfl⟩⟩
theorem yieldTurn (f : Fields) : Statement (.yieldTurn f) := ⟨by decide, fun _ => ⟨_, rfl, rfl⟩⟩
theorem sleep (f : Fields) : Statement (.sleep f) := ⟨by decide, fun _ => ⟨_, rfl, rfl⟩⟩
theorem qpush (f : Fields) : Statement (.qpush f) := ⟨by decide, fun _ => ⟨_, rfl, rfl⟩⟩
theorem qpop (f : Fields) : Statement (.qpop f) := ⟨by decide, fun _ => ⟨_, rfl, rfl⟩⟩
theorem tsrld (f : Fields) : Statement (.tsrld f) := ⟨by decide, fun _ => ⟨_, rfl, rfl⟩⟩
theorem cpy (f : Fields) : Statement (.cpy f) := ⟨by decide, fun _ => ⟨_, rfl, rfl⟩⟩
theorem gather (f : Fields) : Statement (.gather f) := ⟨by decide, fun _ => ⟨_, rfl, rfl⟩⟩
theorem scatter (f : Fields) : Statement (.scatter f) := ⟨by decide, fun _ => ⟨_, rfl, rfl⟩⟩
theorem mclaim (f : Fields) : Statement (.mclaim f) := ⟨by decide, fun _ => ⟨_, rfl, rfl⟩⟩
theorem mrel (f : Fields) : Statement (.mrel f) := ⟨by decide, fun _ => ⟨_, rfl, rfl⟩⟩
theorem mload (f : Fields) : Statement (.mload f) := ⟨by decide, fun _ => ⟨_, rfl, rfl⟩⟩
theorem mma (f : Fields) : Statement (.mma f) := ⟨by decide, fun _ => ⟨_, rfl, rfl⟩⟩
theorem mmas (f : Fields) : Statement (.mmas f) := ⟨by decide, fun _ => ⟨_, rfl, rfl⟩⟩
theorem accld (f : Fields) : Statement (.accld f) := ⟨by decide, fun _ => ⟨_, rfl, rfl⟩⟩
theorem accst (f : Fields) : Statement (.accst f) := ⟨by decide, fun _ => ⟨_, rfl, rfl⟩⟩
theorem accz (f : Fields) : Statement (.accz f) := ⟨by decide, fun _ => ⟨_, rfl, rfl⟩⟩
theorem mtask (f : Fields) : Statement (.mtask f) := ⟨by decide, fun _ => ⟨_, rfl, rfl⟩⟩
theorem shwin (f : Fields) : Statement (.shwin f) := ⟨by decide, fun _ => ⟨_, rfl, rfl⟩⟩
theorem shload (f : Fields) : Statement (.shload f) := ⟨by decide, fun _ => ⟨_, rfl, rfl⟩⟩
theorem shinj (f : Fields) : Statement (.shinj f) := ⟨by decide, fun h => ⟨_, rfl, by simp [mod_of (f := f) 0 rfl rfl h]⟩⟩
theorem shinjV (f : Fields) : Statement (.shinjV f) := ⟨by decide, fun h => ⟨_, rfl, by simp [mod_of (f := f) 1 rfl rfl h]⟩⟩
theorem shlaunch (f : Fields) : Statement (.shlaunch f) := ⟨by decide, fun _ => ⟨_, rfl, rfl⟩⟩
theorem shcap (f : Fields) : Statement (.shcap f) := ⟨by decide, fun _ => ⟨_, rfl, rfl⟩⟩
theorem shreset (f : Fields) : Statement (.shreset f) := ⟨by decide, fun _ => ⟨_, rfl, rfl⟩⟩
theorem kvapp (f : Fields) : Statement (.kvapp f) := ⟨by decide, fun _ => ⟨_, rfl, rfl⟩⟩
theorem kvld (f : Fields) : Statement (.kvld f) := ⟨by decide, fun _ => ⟨_, rfl, rfl⟩⟩
theorem vqlut (f : Fields) : Statement (.vqlut f) := ⟨by decide, fun _ => ⟨_, rfl, rfl⟩⟩
theorem vqscore (f : Fields) : Statement (.vqscore f) := ⟨by decide, fun _ => ⟨_, rfl, rfl⟩⟩
theorem spawn (f : Fields) : Statement (.spawn f) := ⟨by decide, fun _ => ⟨_, rfl, rfl⟩⟩
theorem park (f : Fields) : Statement (.park f) := ⟨by decide, fun _ => ⟨_, rfl, rfl⟩⟩
theorem wake (f : Fields) : Statement (.wake f) := ⟨by decide, fun _ => ⟨_, rfl, rfl⟩⟩
theorem role (f : Fields) : Statement (.role f) := ⟨by decide, fun _ => ⟨_, rfl, rfl⟩⟩
theorem csrr (f : Fields) : Statement (.csrr f) := ⟨by decide, fun _ => ⟨_, rfl, rfl⟩⟩
theorem csrw (f : Fields) : Statement (.csrw f) := ⟨by decide, fun _ => ⟨_, rfl, rfl⟩⟩
theorem eretReplay (f : Fields) : Statement (.eretReplay f) := ⟨by decide, fun h => ⟨_, rfl, by simp [mod_of (f := f) 0 rfl rfl h]⟩⟩
theorem eretSkip (f : Fields) : Statement (.eretSkip f) := ⟨by decide, fun h => ⟨_, rfl, by simp [mod_of (f := f) 1 rfl rfl h]⟩⟩
theorem eretKill (f : Fields) : Statement (.eretKill f) := ⟨by decide, fun h => ⟨_, rfl, by simp [mod_of (f := f) 2 rfl rfl h]⟩⟩
theorem eretEnd (f : Fields) : Statement (.eretEnd f) := ⟨by decide, fun h => ⟨_, rfl, by simp [mod_of (f := f) 3 rfl rfl h]⟩⟩
theorem tlbinvVa (f : Fields) : Statement (.tlbinvVa f) := ⟨by decide, fun h => ⟨_, rfl, by simp [mod_of (f := f) 0 rfl rfl h]⟩⟩
theorem tlbinvCtx (f : Fields) : Statement (.tlbinvCtx f) := ⟨by decide, fun h => ⟨_, rfl, by simp [mod_of (f := f) 1 rfl rfl h]⟩⟩
theorem tlbinvAll (f : Fields) : Statement (.tlbinvAll f) := ⟨by decide, fun h => ⟨_, rfl, by simp [mod_of (f := f) 2 rfl rfl h]⟩⟩
theorem icinvVa (f : Fields) : Statement (.icinvVa f) := ⟨by decide, fun h => ⟨_, rfl, by simp [mod_of (f := f) 0 rfl rfl h]⟩⟩
theorem icinvCtx (f : Fields) : Statement (.icinvCtx f) := ⟨by decide, fun h => ⟨_, rfl, by simp [mod_of (f := f) 1 rfl rfl h]⟩⟩
theorem icinvAll (f : Fields) : Statement (.icinvAll f) := ⟨by decide, fun h => ⟨_, rfl, by simp [mod_of (f := f) 2 rfl rfl h]⟩⟩
theorem dbgrd (f : Fields) : Statement (.dbgrd f) := ⟨by decide, fun _ => ⟨_, rfl, rfl⟩⟩
theorem dbgwr (f : Fields) : Statement (.dbgwr f) := ⟨by decide, fun _ => ⟨_, rfl, rfl⟩⟩
theorem halt (f : Fields) : Statement (.halt f) := ⟨by decide, fun _ => ⟨_, rfl, rfl⟩⟩
theorem dispatchInstance : Statement .dispatchInstance := ⟨rfl, rfl⟩
theorem dispatchSpillExpiry (die : Nat) : Statement (.dispatchSpillExpiry die) := ⟨rfl, rfl⟩
theorem starveExpiry (level : Nat) : Statement (.starveExpiry level) := ⟨rfl, rfl⟩
theorem issueStarvationPromote (core slot path : Nat) : Statement (.issueStarvationPromote core slot path) := ⟨rfl, rfl⟩
theorem operationComplete (core slot op : Nat) : Statement (.operationComplete core slot op) := ⟨rfl, rfl⟩
theorem pathMerge (core slot serial : Nat) : Statement (.pathMerge core slot serial) := ⟨rfl, rfl⟩
theorem weaveEnd (core slot : Nat) : Statement (.weaveEnd core slot) := ⟨rfl, rfl⟩
theorem parentDecrement (ctx record : Nat) : Statement (.parentDecrement ctx record) := ⟨rfl, rfl⟩
theorem sliceExpired (core slot : Nat) : Statement (.sliceExpired core slot) := ⟨rfl, rfl⟩
theorem matrixFaultDelivery (core slot : Nat) : Statement (.matrixFaultDelivery core slot) := ⟨rfl, rfl⟩
theorem tileTaskStart (core : Nat) : Statement (.tileTaskStart core) := ⟨rfl, rfl⟩
theorem tileTaskComplete (core : Nat) : Statement (.tileTaskComplete core) := ⟨rfl, rfl⟩
theorem shutterRaceEnd (core : Nat) : Statement (.shutterRaceEnd core) := ⟨rfl, rfl⟩
theorem copySectorPerformed (core ch : Nat) : Statement (.copySectorPerformed core ch) := ⟨rfl, rfl⟩
theorem gatherBatchTranslate (core ch : Nat) : Statement (.gatherBatchTranslate core ch) := ⟨rfl, rfl⟩
theorem stashWritebackAuto (core slot window sector : Nat) : Statement (.stashWritebackAuto core slot window sector) := ⟨rfl, rfl⟩
theorem heatEpoch (die : Nat) : Statement (.heatEpoch die) := ⟨rfl, rfl⟩
theorem remoteReplyHeld (request : Nat) (reply : FabricReply) : Statement (.remoteReplyHeld request reply) := ⟨rfl, rfl⟩
theorem sleepDeadline (core slot path : Nat) : Statement (.sleepDeadline core slot path) := ⟨rfl, rfl⟩
theorem queuePortUnbind (ctx port : Nat) : Statement (.queuePortUnbind ctx port) := ⟨rfl, rfl⟩
theorem parkT1Expiry (saved : Nat) : Statement (.parkT1Expiry saved) := ⟨rfl, rfl⟩
theorem parkT2Expiry (saved : Nat) : Statement (.parkT2Expiry saved) := ⟨rfl, rfl⟩
theorem ageT1Expiry (ctx va : Nat) : Statement (.ageT1Expiry ctx va) := ⟨rfl, rfl⟩
theorem ageT2Expiry (ctx va : Nat) : Statement (.ageT2Expiry ctx va) := ⟨rfl, rfl⟩
theorem transomPageMove (ctx va frame : Nat) : Statement (.transomPageMove ctx va frame) := ⟨rfl, rfl⟩
theorem pageMoveComplete (ctx va : Nat) : Statement (.pageMoveComplete ctx va) := ⟨rfl, rfl⟩
theorem tableWalkBusyTimeout (core slot path : Nat) : Statement (.tableWalkBusyTimeout core slot path) := ⟨rfl, rfl⟩
theorem faultRecordDeferredWrite (ctx : Nat) : Statement (.faultRecordDeferredWrite ctx) := ⟨rfl, rfl⟩
theorem replyRingTailWrite (ctx tail : Nat) : Statement (.replyRingTailWrite ctx tail) := ⟨rfl, rfl⟩
theorem replyRetry (ctx : Nat) : Statement (.replyRetry ctx) := ⟨rfl, rfl⟩
theorem replySkip (ctx : Nat) : Statement (.replySkip ctx) := ⟨rfl, rfl⟩
theorem replyKill (ctx : Nat) : Statement (.replyKill ctx) := ⟨rfl, rfl⟩
theorem replyEnd (ctx : Nat) : Statement (.replyEnd ctx) := ⟨rfl, rfl⟩
theorem replyRaise (ctx : Nat) : Statement (.replyRaise ctx) := ⟨rfl, rfl⟩
theorem replyReserved (ctx : Nat) : Statement (.replyReserved ctx) := ⟨rfl, rfl⟩
theorem stopEnqueueDeferred (core : Nat) : Statement (.stopEnqueueDeferred core) := ⟨rfl, rfl⟩
theorem takeStop (core : Nat) : Statement (.takeStop core) := ⟨rfl, rfl⟩
theorem takeInterrupt (core : Nat) : Statement (.takeInterrupt core) := ⟨rfl, rfl⟩
theorem hfwd (core : Nat) : Statement (.hfwd core) := ⟨rfl, rfl⟩
theorem evictRequest (core slot : Nat) : Statement (.evictRequest core slot) := ⟨rfl, rfl⟩
theorem evictReturn (core : Nat) : Statement (.evictReturn core) := ⟨rfl, rfl⟩
theorem evictionComplete (core slot : Nat) : Statement (.evictionComplete core slot) := ⟨rfl, rfl⟩
theorem weaveWakeReturn (saved : Nat) : Statement (.weaveWakeReturn saved) := ⟨rfl, rfl⟩
theorem weaveReturn (saved : Nat) : Statement (.weaveReturn saved) := ⟨rfl, rfl⟩
theorem retall (ctx : Nat) : Statement (.retall ctx) := ⟨rfl, rfl⟩
theorem haltreq (core slot path : Nat) : Statement (.haltreq core slot path) := ⟨rfl, rfl⟩
theorem latchFreeze (die : Nat) : Statement (.latchFreeze die) := ⟨rfl, rfl⟩
theorem scanOutEnd (die : Nat) : Statement (.scanOutEnd die) := ⟨rfl, rfl⟩
theorem latchReplyCatch (die request : Nat) (reply : FabricReply) : Statement (.latchReplyCatch die request reply) := ⟨rfl, rfl⟩
theorem catchSlow (die : Nat) : Statement (.catchSlow die) := ⟨rfl, rfl⟩
theorem imageSeal (die : Nat) : Statement (.imageSeal die) := ⟨rfl, rfl⟩
theorem latchRestore (die : Nat) : Statement (.latchRestore die) := ⟨rfl, rfl⟩
theorem contQueueTailWrite (queue tail : Nat) : Statement (.contQueueTailWrite queue tail) := ⟨rfl, rfl⟩
theorem hostBar2Access (offset : Nat) (access : HostAccess) : Statement (.hostBar2Access offset access) := ⟨rfl, rfl⟩
theorem registerWrite (offset size value : Nat) : Statement (.registerWrite offset size value) := ⟨rfl, rfl⟩
theorem hostLinkTrained (rate width : Nat) (config : HostConfig) : Statement (.hostLinkTrained rate width config) := ⟨rfl, rfl⟩
theorem wasisLinkUp (port lanes peer : Nat) : Statement (.wasisLinkUp port lanes peer) := ⟨rfl, rfl⟩
theorem wasisLinkDown (port : Nat) : Statement (.wasisLinkDown port) := ⟨rfl, rfl⟩
theorem flitReceive (port : Nat) (flit : ReceivedFlit) : Statement (.flitReceive port flit) := ⟨rfl, rfl⟩
theorem fabricRequestReceive (port : Nat) (request : FabricRequest) : Statement (.fabricRequestReceive port request) := ⟨rfl, rfl⟩
theorem fabricResponseReceive (port : Nat) (response : FabricResponse) : Statement (.fabricResponseReceive port response) := ⟨rfl, rfl⟩
theorem remoteTimeoutExpiry (request : Nat) : Statement (.remoteTimeoutExpiry request) := ⟨rfl, rfl⟩
theorem fabricTimeFlit (port time : Nat) : Statement (.fabricTimeFlit port time) := ⟨rfl, rfl⟩
theorem gangArm : Statement .gangArm := ⟨rfl, rfl⟩
theorem gangDisarm : Statement .gangDisarm := ⟨rfl, rfl⟩
theorem gangStart : Statement .gangStart := ⟨rfl, rfl⟩
theorem gangMemberReady : Statement .gangMemberReady := ⟨rfl, rfl⟩
theorem gangReadyReceive (member : Nat) : Statement (.gangReadyReceive member) := ⟨rfl, rfl⟩
theorem gangGoReceive : Statement .gangGoReceive := ⟨rfl, rfl⟩
theorem gangAbortReceive : Statement .gangAbortReceive := ⟨rfl, rfl⟩
theorem gangGraceExpiry : Statement .gangGraceExpiry := ⟨rfl, rfl⟩
theorem gangMemberTimeout : Statement .gangMemberTimeout := ⟨rfl, rfl⟩
theorem attest : Statement .attest := ⟨rfl, rfl⟩
theorem stage : Statement .stage := ⟨rfl, rfl⟩
theorem applyUpdate : Statement .applyUpdate := ⟨rfl, rfl⟩
theorem floor : Statement .floor := ⟨rfl, rfl⟩
theorem drain : Statement .drain := ⟨rfl, rfl⟩
theorem drainComplete (core : Nat) : Statement (.drainComplete core) := ⟨rfl, rfl⟩
theorem returnCore : Statement .returnCore := ⟨rfl, rfl⟩
theorem retire : Statement .retire := ⟨rfl, rfl⟩
theorem coldReset : Statement .coldReset := ⟨rfl, rfl⟩
theorem warmReset : Statement .warmReset := ⟨rfl, rfl⟩
theorem firmwareRehash : Statement .firmwareRehash := ⟨rfl, rfl⟩
theorem hingeFault (core : Nat) : Statement (.hingeFault core) := ⟨rfl, rfl⟩
theorem translationInstall (entry : Translation) : Statement (.translationInstall entry) := ⟨rfl, rfl⟩
theorem pathSample (core scheduler : Nat) : Statement (.pathSample core scheduler) := ⟨rfl, rfl⟩
theorem telemetryUpdate (reading : Telemetry) : Statement (.telemetryUpdate reading) := ⟨rfl, rfl⟩
theorem gatingChange (die : Nat) (on : Bool) : Statement (.gatingChange die on) := ⟨rfl, rfl⟩
theorem hardwareError (index unit core syndrome : Nat) : Statement (.hardwareError index unit core syndrome) := ⟨rfl, rfl⟩
theorem fatalError (index unit core : Nat) : Statement (.fatalError index unit core) := ⟨rfl, rfl⟩
theorem coreAutoRetire (core : Nat) : Statement (.coreAutoRetire core) := ⟨rfl, rfl⟩
theorem cacheLineWriteBack (core line : Nat) : Statement (.cacheLineWriteBack core line) := ⟨rfl, rfl⟩
theorem cxlMemAccess (address : Nat) (access : HostAccess) : Statement (.cxlMemAccess address access) := ⟨rfl, rfl⟩

end Sys2Proof.Laws.Codec
end

