-- ==== Sys2Proof/Tests/Slice0.lean ====
section
/-! SUPPORT. Tests: words decoded, well-formedness, single steps with results worked out from the spec, and a named state
for the hypotheses of every statement. -/

namespace Sys2Proof.Tests

open Sys2Proof Sys2Proof.Machine

set_option Elab.async false

/-! ### A small state -/

/-- Fields of a native instruction, guarded by pT. -/
def word (x y z : Nat) (imm mod hint : Nat := 0) : Fields :=
  { neg := false, g := 15, x := BitVec.ofNat 10 x, y := BitVec.ofNat 10 y, z := BitVec.ofNat 10 z, imm := BitVec.ofNat 24 imm
    mod := BitVec.ofNat 11 mod, hint := BitVec.ofNat 16 hint, lit := none, enc := .native }

/-- IMM of a four-operand form: W in [23:14], and the rest. -/
def immW (w : Nat) (low : Nat := 0) : Nat := w * 2 ^ 14 + low

/-- A leaf for an HBM frame: USER, and R and W or X. -/
def leafOf (frame : Nat) (fetch : Bool) : Nat := frame * 2 ^ 20 + 1 * 2 ^ 9 + 0x40 + (if fetch then 0x28 else 0x18) + 1

/-- A held translation of a page of context 0. -/
def held (page frame : Nat) (fetch : Bool) : TlbEntry :=
  { ctx := 0, base := page * 65536, size := 65536, entry := BitVec.ofNat 64 (leafOf frame fetch), sub := false }

/-- One warp of 32 lanes with a few registers, at 0x10000. -/
def labWeave : Weave :=
  { Weave.blank { ctx := 0, record := 0x30000, inst := 0, gen := 0 } 1 16 32 4 0x10000 with
    spadBytes := 8192, stashCount := 2 }

/-- Core 0 with that weave in slot 0; page 1 is its code (frame 6) and page 2 its data (frame 8). -/
def labWith (w : Weave) : State :=
  { State.reset with
    frames := [(6, { shared := false, free := false, owner := 0 }), (8, { shared := false, free := false, owner := 0 })]
    cores := [(0, { Core.reset with
      slots := [(0, w), (hingeSlot, Weave.hinge)], tlb := [held 1 6 true, held 2 8 false]
      walkAhead := [held 1 6 true, held 2 8 false] })] }

def lab : State := labWith labWeave

/-- The environment of an instruction that passes its checks; `lab`'s of a NOP otherwise. -/
def envOf (i : Instr) (s : State) : Env :=
  match issueGate i s with
  | .ok e => e
  | .error _ => issueEnv i {} (word 0 0 0) s labWeave (Path.start 0 0)

/-- The conditions of `Issuing`, computed. -/
def issues (i : Instr) (g : Engine) (s : State) : Bool :=
  match sigOf i, s.weave? s.cur.core s.cur.slot with
  | some (sig, f), some w =>
    match w.path? s.cur.path with
    | some q =>
      q.cond == .ready && !q.haltRequest && q.stepping == 0 && q.captured.isNone && q.replayMask.isNone && w.ops.all (fun o => o.writes.isEmpty)
        && issueDefect s s.cur w q i sig f == none
        && (!sig.privileged || s.cur.isHinge) && !waitsOnCounter w q f && q.windows.isEmpty
        && (let e := issueEnv i (s.sized s.cur w i sig) f s (w.modifyPath s.cur.path Path.countIssue) q.countIssue
            !e.counterFull && !e.lanes.isEmpty && roleAllows e.w.role g)
    | none => false
  | _, _ => false

/-- The environment that `Issuing` names. -/
def envAt (i : Instr) (s : State) : Env :=
  match sigOf i, s.weave? s.cur.core s.cur.slot with
  | some (sig, f), some w =>
    match w.path? s.cur.path with
    | some q => issueEnv i (s.sized s.cur w i sig) f s (w.modifyPath s.cur.path Path.countIssue) q.countIssue
    | none => envOf i s
  | _, _ => envOf i s

theorem issuing_of_issues {i : Instr} {g : Engine} {s : State} (h : issues i g s = true) : Issuing i g s (envAt i s) := by
  unfold issues at h
  unfold envAt
  split at h
  · next sig f w h1 h2 =>
    split at h
    · next q h3 =>
      simp only [Bool.and_eq_true, Bool.or_eq_true, Bool.not_eq_true', beq_iff_eq, List.all_eq_true, List.isEmpty_iff, Option.isNone_iff_eq_none,
        List.isEmpty_eq_false_iff] at h
      obtain ⟨⟨⟨⟨⟨⟨⟨⟨⟨⟨hc, hh⟩, hs⟩, hcap⟩, hm⟩, ho⟩, hd⟩, hp⟩, hw⟩, hwin⟩, ⟨hf, hl⟩, hr⟩ := h
      refine ⟨⟨sig, f, w, q, h1, h2, h3, hc, hh, hs, hcap, hm, ho, hd, ?_, hw, fun _ => hwin, rfl⟩, hf, ?_, hr⟩
      · intro x; simpa [x] using hp
      · exact List.exists_mem_of_ne_nil _ hl
    · simp at h
  · simp at h

/-- Every instruction of a list issues in a state. -/
theorem issuing_all {l : List Instr} {g : Engine} {s : State} (h : l.all (fun i => issues i g s) = true) : ∀ i ∈ l, Issuing i g s (envAt i s) :=
  fun i hi => issuing_of_issues (List.all_eq_true.mp h i hi)

/-- `lab` with scalar registers set. -/
def labS (l : List (Nat × Nat)) : State := labWith (l.foldl (fun w x => w.writeScalar x.1 (BitVec.ofNat 64 x.2)) labWeave)

/-- What a move leaves: the next state, and `s` itself where it does not go on. -/
def after (i : Instr) (s : State) : State :=
  match exec i s with
  | .next t => t
  | _ => s

/-- Where the path of actor (0, slot, path) stands: its PC, its condition and its mask. -/
def stands (s : State) (path : Nat := 0) (slot : Nat := 0) : Option (Nat × Cond × LaneMask) :=
  (s.path? { core := 0, slot, path }).map (fun q => (q.pc.toNat, q.cond, q.mask))

theorem tagOk_of_tags {w : Weave} {n : Nat} (h : w.tags = List.replicate n .untyped) (t : Tag) (o : Operand) : TagOk w t o := by
  unfold TagOk
  split
  · left
    simp only [Weave.tag, h, List.getElem?_replicate]
    split <;> rfl
  · trivial

/-- Every instruction of a list issues, and no register is tagged. -/
theorem ready_all {l : List Instr} {g : Engine} {s : State} (n : Nat)
    (h : l.all (fun i => issues i g s && (envAt i s).w.tags == List.replicate n .untyped) = true) :
    ∀ i ∈ l, Issuing i g s (envAt i s) ∧ ∀ t o, TagOk (envAt i s).w t o := by
  intro i hi
  have hb := List.all_eq_true.mp h i hi
  simp only [Bool.and_eq_true, beq_iff_eq] at hb
  exact ⟨issuing_of_issues hb.1, tagOk_of_tags hb.2⟩

/-! ### Hypotheses of the statements on class 0 -/

theorem witness_integer : ∀ i ∈ [Instr.iadd (word 2 0 1), .isub (word 2 0 1), .imul (word 2 0 1), .imulh (word 2 0 1), .imad (word 2 0 1 (immW 1)),
    .imin (word 2 0 1), .imax (word 2 0 1), .iabs (word 2 0 0), .ineg (word 2 0 0), .andB (word 2 0 1), .orB (word 2 0 1), .xorB (word 2 0 1), .andn (word 2 0 1),
    .notB (word 2 0 0), .shl (word 2 0 1), .shr (word 2 0 1), .sar (word 2 0 1), .rot (word 2 0 1), .bfe (word 2 0 1 (immW 1)), .bfi (word 2 0 1 (immW 1)),
    .brev (word 2 0 0), .popc (word 2 0 0), .clz (word 2 0 0), .icmp (word 0x201 0 1), .isel (word 2 0 1 (immW 0x201)), .plop (word 0x201 0x202 0x203 (immW 0x20F 0x3C))],
    Issuing i .none lab (envAt i lab) ∧ ∀ t o, TagOk (envAt i lab).w t o :=
  ready_all 16 (by decide +kernel)

/-- LEA by 2, and by 32 from s4 into a 32-bit register. -/
theorem witness_lea :
    (Issuing (.lea (word 2 0 1 (immW 0x302))) .none lab (envAt (.lea (word 2 0 1 (immW 0x302))) lab)
      ∧ (∀ t o, TagOk (envAt (.lea (word 2 0 1 (immW 0x302))) lab).w t o)
      ∧ (envAt (.lea (word 2 0 1 (immW 0x302))) lab).scalar (word 2 0 1 (immW 0x302)).wOp % 64 = 2)
    ∧ (let s := labS [(4, 32)]
       let f := word 2 0 1 (immW 0x104)
       ∃ w q v, s.weave? s.cur.core s.cur.slot = some w ∧ w.path? s.cur.path = some q ∧ q.cond = .ready ∧ q.haltRequest = false ∧ q.captured = none
        ∧ (∀ o ∈ w.ops, o.writes = []) ∧ s.cur.isHinge = false ∧ firstDefect (.lea f) s.present w.vregs.length w.scount w.acount = none
        ∧ f.xOp.isS = false ∧ f.wOp = .sreg 4 ∧ w.sregs[4]? = some v ∧ 31 < v.toNat % 64) := by
  refine ⟨⟨issuing_of_issues (by decide +kernel), fun t o => tagOk_of_tags (n := 16) (by decide +kernel) t o, by decide +kernel⟩,
    labWeave.writeScalar 4 32, _, 32, rfl, rfl, by decide +kernel, by decide +kernel, by decide +kernel, by decide +kernel, by decide +kernel, by decide +kernel,
    by decide +kernel, by decide +kernel, by decide +kernel, by decide⟩

/-- WIDEN of zeros to [0, 97], and to an empty interval; BNDGET and BNDTOP of v0 and s5. -/
theorem witness_jambs :
    (∀ i ∈ [Instr.widen (word 2 0x300 0x361), .widen (word 2 0x361 0x300), .bndget (word 0x105 0 0), .bndtop (word 3 0 0), .bndtop (word 0x105 0 0)],
      Issuing i .none lab (envAt i lab) ∧ ∀ t o, TagOk (envAt i lab).w t o)
    ∧ (∀ k ∈ (envAt (.widen (word 2 0x300 0x361)) lab).lanes,
        (0 : Int) ≤ (envAt (.widen (word 2 0x300 0x361)) lab).readInt 32 (.vreg 2) k ∧ (envAt (.widen (word 2 0x300 0x361)) lab).readInt 32 (.vreg 2) k ≤ 97)
    ∧ clampInt ((envAt (.widen (word 2 0x300 0x361)) lab).readInt 64 (.small 97) 0) (minInt 32) (maxInt 32) = 97
    ∧ (word 3 0 0).xOp = .vreg 3 ∧ (word 0x105 0 0).xOp = .sreg 5 ∧ 3 < labWeave.vjambs.length ∧ 5 < labWeave.sjambs.length := by
  refine ⟨ready_all 16 (by decide +kernel), ?_, ?_, ?_, ?_, ?_, ?_⟩ <;> decide +kernel

/-- ARSET of a good pair and of one with a reserved bit; ARGET and ARCHK of a0. -/
theorem witness_array_registers :
    (∀ i ∈ [Instr.arset (word 0x210 0x104 0x105), .arget (word 0x104 0x210 0), .archk (word 0x201 0x210 0)],
      Issuing i .none lab (envAt i lab) ∧ ∀ t o, TagOk (envAt i lab).w t o)
    ∧ Issuing (.arset (word 0x210 0x104 0x105)) .none (labS [(5, 2 ^ 63)]) (envAt (.arset (word 0x210 0x104 0x105)) (labS [(5, 2 ^ 63)]))
    ∧ bits ((envAt (.arset (word 0x210 0x104 0x105)) (labS [(5, 2 ^ 63)])).scalar (.sreg 5) * 2 ^ 64) 127 121 ≠ 0
    ∧ (word 0x210 0x104 0x105).xOp = .areg 0 ∧ (word 0x104 0x210 0).yOp = .areg 0 ∧ (word 0x104 0x210 0).modN ≤ 1 := by
  refine ⟨ready_all 16 (by decide +kernel), issuing_of_issues (by decide +kernel), ?_, ?_, ?_, ?_⟩ <;> decide +kernel

/-! ### Hypotheses of the statements on class 5 -/

/-- The same word guarded by p1. -/
def byP1 (f : Fields) : Fields := { f with g := 1 }

/-- `labWeave` with lanes 0 to 3 in p1, and its path changed. -/
def labP1 (g : Path → Path := id) : State := labWith ((labWeave.writePred 1 (BitVec.allOnes 1024) 15).modifyPath 0 g)

/-- Sixteen entries, and a table of eight live paths. -/
def fullStack (q : Path) : Path := { q with stack := List.replicate 16 (.split 5 9) }
def fullTable (w : Weave) : Weave := (List.range 8).foldl (fun w i => if i = 0 then w else w.putPath i (w.path? 0)) w

def labFull (g : Path → Path := id) : State := labWith (fullTable ((labWeave.writePred 1 (BitVec.allOnes 1024) 15).modifyPath 0 g))

/-- BRA with every lane, with four lanes and an entry free, with none free, and with a full stack; each lane's target in range,
and one out of it. -/
theorem witness_bra :
    (∀ s ∈ [labP1, labFull, labP1 fullStack], Issuing (.bra (byP1 (word 0 0 5 4))) .none s (envAt (.bra (byP1 (word 0 0 5 4))) s)
      ∧ (envAt (.bra (byP1 (word 0 0 5 4))) s).acting = 15)
    ∧ Issuing (.bra (word 0 0 0 4)) .none lab (envAt (.bra (word 0 0 0 4)) lab)
    ∧ Issuing (.bra (word 0 0 0 (2 ^ 23))) .none lab (envAt (.bra (word 0 0 0 (2 ^ 23))) lab)
    ∧ (0x10000 : Int) + 4 * signed 24 (2 ^ 23) < 0
    ∧ (labP1.weave? 0 0).bind Weave.freePath = some 1 ∧ (labFull.weave? 0 0).bind Weave.freePath = none := by
  refine ⟨?_, issuing_of_issues (by decide +kernel), issuing_of_issues (by decide +kernel), ?_, ?_, ?_⟩
  · have h : ∀ s ∈ [labP1, labFull, labP1 fullStack], issues (.bra (byP1 (word 0 0 5 4))) .none s = true
        ∧ (envAt (.bra (byP1 (word 0 0 5 4))) s).acting = 15 := by decide +kernel
    exact fun s hs => ⟨issuing_of_issues (h s hs).1, (h s hs).2⟩
  all_goals decide +kernel

/-- BRX; RET with one link, and with two. -/
theorem witness_brx_ret :
    Issuing (.brx (word 0 0x104 0)) .none lab (envAt (.brx (word 0 0x104 0)) lab)
    ∧ (Issuing (.ret (word 0 3 0)) .none lab (envAt (.ret (word 0 3 0)) lab)
      ∧ ∀ k ∈ (envAt (.ret (word 0 3 0)) lab).lanes, (envAt (.ret (word 0 3 0)) lab).read 32 (.vreg 3) k = 0)
    ∧ Issuing (.ret (word 0 3 0)) .none (labWith (labWeave.writeLanes 3 1 (fun _ => 7)))
        (envAt (.ret (word 0 3 0)) (labWith (labWeave.writeLanes 3 1 (fun _ => 7))))
      ∧ (envAt (.ret (word 0 3 0)) (labWith (labWeave.writeLanes 3 1 (fun _ => 7)))).read 32 (.vreg 3) 1 ≠ 7 := by
  refine ⟨issuing_of_issues (by decide +kernel), ⟨issuing_of_issues (by decide +kernel), ?_⟩, issuing_of_issues (by decide +kernel), ?_⟩ <;>
    decide +kernel

/-- BCMP v3, v4: condition EQ of zeros is taken by every lane, LTS by none, and EQ by four of them where v3 is 1 elsewhere. -/
def bcmpWord (cc : Nat) : Fields := word 3 4 5 4 (4 * cc)

def labHalf : State := labWith (labWeave.writeLanes 3 (~~~15) (fun _ => 1))

theorem witness_bcmp :
    (∀ x ∈ [(0, lab), (2, lab), (0, labHalf)], Issuing (.bcmp (bcmpWord x.1)) .none x.2 (envAt (.bcmp (bcmpWord x.1)) x.2)
      ∧ ∀ t o, TagOk (envAt (.bcmp (bcmpWord x.1)) x.2).w t o)
    ∧ (∀ k ∈ List.range 32, (envAt (.bcmp (bcmpWord 0)) labHalf).read 32 (.vreg 3) k = (if k < 4 then 0 else 1)
      ∧ (envAt (.bcmp (bcmpWord 0)) labHalf).read 32 (.vreg 4) k = 0)
    ∧ (bcmpWord 0).cond = 0 ∧ (bcmpWord 2).cond = 2 ∧ (labHalf.path? { core := 0, slot := 0, path := 0 }).map Path.mask = some 0xFFFFFFFF := by
  refine ⟨?_, ?_, ?_, ?_, ?_⟩
  · have h : ∀ x ∈ [(0, lab), (2, lab), (0, labHalf)], issues (.bcmp (bcmpWord x.1)) .none x.2 = true
        ∧ (envAt (.bcmp (bcmpWord x.1)) x.2).w.tags = List.replicate 16 .untyped := by decide +kernel
    exact fun x hx => ⟨issuing_of_issues (h x hx).1, tagOk_of_tags (h x hx).2⟩
  all_goals decide +kernel

/-- CALL to a near target, and to one below the 4 GiB block of its link (from PC 0x1_0000_0000). -/
theorem witness_call :
    (Issuing (.call (word 3 0 0 4)) .none lab (envAt (.call (word 3 0 0 4)) lab) ∧ (word 3 0 0 4).xOp = .vreg 3)
    ∧ (let far : State := labP1 (fun q => { q with pc := 0x100000000 })
       let f := word 3 0 0 0xFFFFFF
       Issuing (.call f) .none far (envAt (.call f) far) ∧ (0x100000000 : Int) + 4 * signed 24 f.immN = 0xFFFFFFFC) := by
  refine ⟨⟨issuing_of_issues (by decide +kernel), by decide +kernel⟩, issuing_of_issues (by decide +kernel), by decide +kernel⟩

/-! ### Hypotheses of the statements on stops and ends of paths -/

/-- The same state with the debug enable of context 0. -/
def debugged (s : State) : State := s.setField (debugBlock 0) 0 0 1

theorem witness_nops :
    (∀ i ∈ [Instr.nop (word 0 0 0), .yieldTurn (word 0 0 0), .bkpt (word 0 0 0 7)], Issuing i .none lab (envAt i lab))
    ∧ lab.debugEnabled 0 = false ∧ (envAt (.bkpt (word 0 0 0 7)) lab).w.id.ctx = 0
    ∧ Issuing (.bkpt (word 0 0 0 7)) .none (debugged lab) (envAt (.bkpt (word 0 0 0 7)) (debugged lab))
    ∧ (debugged lab).debugEnabled (envAt (.bkpt (word 0 0 0 7)) (debugged lab)).w.id.ctx = true ∧ (debugged lab).cur.isHinge = false := by
  refine ⟨issuing_all (by decide +kernel), ?_, ?_, issuing_of_issues (by decide +kernel), ?_, ?_⟩ <;> decide +kernel

/-- `lab` with a stack. -/
def labStack (l : List StackEntry) : State := labP1 (fun q => { q with stack := l })

def reconv5 : Instr := .reconv (word 0 0 5)

/-- RECONV 5 with 5 nowhere, below, at its first and second arrival, and on a SPLIT with no path ARRIVED. -/
theorem witness_reconv :
    (∀ s ∈ [labStack [], labStack [.split 6 1, .split 5 2], labStack [.defer 5 0xF0 0x20000 0 false 0 0 0], labStack [.defer 5 0 0x20000 0xF0 true 0x10000 0x1000C 0],
        labStack [.split 5 2]], Issuing reconv5 .none s (envAt reconv5 s))
    ∧ (envAt reconv5 (labStack [.split 5 2])).w.paths.all (fun p => match p.map Path.cond with
        | some (.arrived _ _ _) => false
        | _ => true) = true
    ∧ (envAt reconv5 (labStack [.split 6 1, .split 5 2])).p.stack = [.split 6 1, .split 5 2] := by
  refine ⟨fun s hs => ?_, ?_, ?_⟩
  · have h : ∀ s ∈ [labStack [], labStack [.split 6 1, .split 5 2], labStack [.defer 5 0xF0 0x20000 0 false 0 0 0], labStack [.defer 5 0 0x20000 0xF0 true 0x10000 0x1000C 0],
        labStack [.split 5 2]], issues reconv5 .none s = true := by decide +kernel
    exact issuing_of_issues (h s hs)
  all_goals decide +kernel

/-- EXIT by four lanes and by all; END; TRAP 3 by all. -/
theorem witness_ends :
    (∀ i ∈ [Instr.exit (byP1 (word 0 0 0)), .exit (word 0 0 0), .endWeave (word 0 0 0), .trapSw (word 0 0 0 0x123)], Issuing i .none labP1 (envAt i labP1))
    ∧ (envAt (.exit (byP1 (word 0 0 0))) labP1).acting = 15 ∧ (envAt (.exit (word 0 0 0)) labP1).acting = 0xFFFFFFFF
    ∧ (envAt (.exit (word 0 0 0)) labP1).p.stack = [] ∧ (∀ i ∈ List.range 8, i ≠ 0 → ((envAt (.exit (word 0 0 0)) labP1).w.path? i).isNone = true)
    ∧ (envAt (.trapSw (word 0 0 0 0x123)) labP1).acting = (envAt (.trapSw (word 0 0 0 0x123)) labP1).p.mask
    ∧ (∀ k ∈ List.range 1024, (envAt (.trapSw (word 0 0 0 0x123)) labP1).p.mask.has k = true → k < 32)
    ∧ (labP1.core 0).stops = [] ∧ (labP1.core 0).lateStops = [] ∧ labP1.cur.isHinge = false := by
  refine ⟨issuing_all (by decide +kernel), ?_⟩
  and_intros <;> decide +kernel

/-! ### Hypotheses of the statements on classes 1 and 2 -/

/-- MOD of the FP layout: FT, COND, RND. -/
def fpMod (ft : Nat) (cond rnd : Nat := 0) : Nat := ft * 16 + cond + rnd * 256

theorem witness_float : ∀ i ∈ [Instr.fadd (word 2 0 1 0 (fpMod 0)), .fadd (word 2 0 1 0 (fpMod 1 0 4)), .fsub (word 2 0 1), .fmul (word 2 0 1), .ffma (word 2 0 1 (immW 3)),
    .fmin (word 2 0 1), .fmax (word 2 0 1), .fabs (word 2 0 0), .fneg (word 2 0 0), .fcmp (word 0x201 0 1), .fdot2 (word 2 0 1 (immW 3) (fpMod 1)),
    .frcp (word 2 0 0), .frsq (word 2 0 0), .fsqrt (word 2 0 0), .fexp2 (word 2 0 0), .flog2 (word 2 0 0), .fsin (word 2 0 0), .fcos (word 2 0 0), .ftanh (word 2 0 0),
    .cvt (word 2 0 0 0 0x32), .cvtSat (word 2 0 0 1 0x25), .cvtUns (word 2 0 0 0 0x21), .cvtSatUns (word 2 0 0 0 0x12)],
    Issuing i .none lab (envAt i lab) ∧ ∀ t o, TagOk (envAt i lab).w t o :=
  ready_all 16 (by decide +kernel)

theorem witness_special_destination : (word 2 0 0).xOp = .vreg 2 := by decide +kernel

/-- QUANT to E4M3 and to NVFP4 of zeros, DEQUANT of them, PACK and UNPACK of 8-bit and 6-bit codes. -/
theorem witness_blocks :
    (∀ i ∈ [Instr.quant (word 2 0 3 0 5), .quant (word 2 0 3 0 12), .dequant (word 2 0 3 0 5), .dequant (word 2 0 3 0 12), .pack (word 2 0 0 0 5), .unpack (word 2 0 0 0 5),
      .unpack (word 2 0 0 0 9)],
      Issuing i .none lab (envAt i lab) ∧ ∀ t o, TagOk (envAt i lab).w t o)
    ∧ (∀ k ∈ List.range 32, (match fp32.decode ((envAt (.quant (word 2 0 3 0 12)) lab).read 32 (.vreg 0) k) with
        | .fin _ _ _ => true
        | _ => false) = true)
    ∧ (word 2 0 3 0 12).fcond = 12 ∧ (∀ g ∈ (envAt (.dequant (word 2 0 3 0 5)) lab).actingGroups, (dequantBlock (envAt (.dequant (word 2 0 3 0 5)) lab) g).isOk = true) := by
  refine ⟨ready_all 16 (by decide +kernel), ?_, ?_, ?_⟩ <;> decide +kernel

theorem witness_lanes :
    (∀ i ∈ [Instr.fmtset (word 2 0 0 5), .fmtget (word 0x105 2 0), .mov (word 2 1 0), .mov (word 0x105 0x140 0), .mov (word 0x145 0x105 0), .mov (word 0x146 0x105 0),
      .movs (word 0x105 0x106 0), .s2v (word 2 0x105 0x303), .v2s (word 0x105 2 0x303), .shfl (word 2 0 1 (immW 0x201) 0x14), .vote (word 0x201 0x202 0),
      .ballot (word 2 0x202 0), .ballot (word 0x105 0x202 0x301), .wred (word 2 0 0), .wred (word 2 0 0 0 3), .wred (word 2 0 0 0 0x20)],
      Issuing i .none lab (envAt i lab) ∧ ∀ t o, TagOk (envAt i lab).w t o)
    ∧ (word 0x105 2 0).yOp = .vreg 2 ∧ (word 0x145 0x105 0).xOp = .special 0x145 ∧ (word 0x146 0x105 0).xOp = .special 0x146
    ∧ (word 0x105 0x202 0x301).xOp = .sreg 5 ∧ (word 2 0 0).fcond ≤ 2 := by
  refine ⟨ready_all 16 (by decide +kernel), ?_, ?_, ?_, ?_, ?_⟩ <;> decide +kernel

/-! ### Hypotheses of the statements on class 3 -/

/-- Every acting lane reaches `pa` at `va`, computed. -/
def reaches (e : Env) (n : Need) (o : Int) (width va pa : Nat) : Bool :=
  e.lanes.all (fun k => match e.globalLane o width k with
    | .global v => v == va
    | _ => false) && e.s.translateFor e.a e.w.id.ctx va n == (e.s, .phys pa) && pa % width == 0

theorem lanesReach_of_reaches {e : Env} {n : Need} {o : Int} {width va pa : Nat} (h : reaches e n o width va pa = true) :
    LanesReach e n o width (fun _ => some pa) := by
  simp only [reaches, Bool.and_eq_true, List.all_eq_true, beq_iff_eq] at h
  obtain ⟨⟨hl, ht⟩, hp⟩ := h
  intro k hk
  have := hl k hk
  revert this
  cases hg : e.globalLane o width k with
  | global v => exact fun h => ⟨v, rfl, by rw [beq_iff_eq.mp h]; exact ht, hp⟩
  | masked => exact fun h => by simp at h
  | bad f => exact fun h => by simp at h
  | spad l => exact fun h => by simp at h

/-- Every acting lane reads offsets `l` of the scratchpad, computed. -/
def readsSpad (e : Env) (o : Int) (width : Nat) (l : List Nat) : Bool :=
  e.lanes.all (fun k => match e.spadLane o width k with
    | .spad x => x == l
    | _ => false) && l.length == width && decide l.Nodup

theorem lanesInSpad_of_readsSpad {e : Env} {o : Int} {width : Nat} {l : List Nat} (h : readsSpad e o width l = true) :
    LanesInSpad e o width (fun _ => some l) := by
  simp only [readsSpad, Bool.and_eq_true, List.all_eq_true, beq_iff_eq, decide_eq_true_eq] at h
  obtain ⟨⟨hl, hw⟩, hn⟩ := h
  intro k hk
  have := hl k hk
  revert this
  cases hg : e.spadLane o width k with
  | spad x => exact fun h => by rw [beq_iff_eq.mp h]; exact ⟨rfl, hw, hn⟩
  | masked => exact fun h => by simp at h
  | bad f => exact fun h => by simp at h
  | global v => exact fun h => by simp at h

/-- s4 holds 0x20000, the data page, and lane 0 alone stands in p1. -/
def memWeave : Weave := (labWeave.writeScalar 4 0x20000).writePred 1 (BitVec.allOnes 1024) 1
def memLab : State := labWith memWeave

theorem plainSpad_of {w : Weave} (h : (w.windows.all (fun r => !bitAt r.toNat 97) && w.engineWrites.isEmpty) = true) : PlainSpad w := by
  simp only [Bool.and_eq_true, List.all_eq_true, Bool.not_eq_true', List.isEmpty_iff] at h
  exact h

theorem originOk_of {e : Env} (h : e.memAreg = none) : OriginOk e := by
  unfold OriginOk Env.originTrap
  rw [h]

def ldWord : Fields := word 2 0x104 0xFF (immW 0x20F) 0x20
def stWord : Fields := word 2 0x104 0xFF 0 0x20
def ldsWord : Fields := word 2 0x105 0 (immW 0x20F) 0x20
def stsWord : Fields := word 2 0x105 0 0 0x20

theorem witness_loads_and_stores :
    (∀ i ∈ [Instr.ld ldWord, .ldr stWord, .st stWord, .str stWord, .lds ldsWord, .sts stsWord, .pref (word 0 0x104 0xFF 0 0x20)],
      Issuing i .none memLab (envAt i memLab) ∧ ∀ t o, TagOk (envAt i memLab).w t o)
    ∧ LanesReach (envAt (.ld ldWord) memLab) needRead (offset14 ldWord) 4 (fun _ => some 0x80000)
    ∧ LanesReach (envAt (.ldr stWord) memLab) needRead (offset14 stWord) 4 (fun _ => some 0x80000)
    ∧ LanesReach (envAt (.st stWord) memLab) needWrite (offset14 stWord) 4 (fun _ => some 0x80000)
    ∧ LanesReach (envAt (.str stWord) memLab) needWrite (offset14 stWord) 4 (fun _ => some 0x80000)
    ∧ LanesInSpad (envAt (.lds ldsWord) memLab) (offset14 ldsWord) 4 (fun _ => some [0, 1, 2, 3])
    ∧ LanesInSpad (envAt (.sts stsWord) memLab) (offset14 stsWord) 4 (fun _ => some [0, 1, 2, 3])
    ∧ PlainSpad (envAt (.lds ldsWord) memLab).w ∧ PlainSpad (envAt (.sts stsWord) memLab).w
    ∧ OriginOk (envAt (.lds ldsWord) memLab) ∧ OriginOk (envAt (.sts stsWord) memLab)
    ∧ widthBytes ldWord.width = 4 ∧ ldWord.xOp = .vreg 2 ∧ stWord.fmt = 0 ∧ stsWord.fmt = 0 := by
  refine ⟨ready_all 16 (by decide +kernel), lanesReach_of_reaches (va := 0x20000) (by decide +kernel),
    lanesReach_of_reaches (va := 0x20000) (by decide +kernel), lanesReach_of_reaches (va := 0x20000) (by decide +kernel),
    lanesReach_of_reaches (va := 0x20000) (by decide +kernel), lanesInSpad_of_readsSpad (by decide +kernel), lanesInSpad_of_readsSpad (by decide +kernel),
    plainSpad_of (by decide +kernel), plainSpad_of (by decide +kernel), originOk_of (by decide +kernel), originOk_of (by decide +kernel), ?_, ?_, ?_, ?_⟩ <;> decide +kernel

/-- ATOM, RED (an add of 4 bytes, .sys) and ATOMS of lane 0. -/
def atomWord : Fields := byP1 (word 2 0x104 0xFF (immW 3) 0x28)
def redWord : Fields := byP1 (word 2 0x104 0xFF 0 0x28)
def atomsWord : Fields := byP1 (word 2 0x105 0 (immW 3) 0x20)

theorem witness_atomics :
    (∀ i ∈ [Instr.atom atomWord, .red redWord, .atoms atomsWord], Issuing i .none memLab (envAt i memLab) ∧ ∀ t o, TagOk (envAt i memLab).w t o)
    ∧ AtomicReady atomWord memLab (envAt (.atom atomWord) memLab) atomWord.wOp 0 0x80000
    ∧ AtomicReady redWord memLab (envAt (.red redWord) memLab) redWord.xOp 0 0x80000
    ∧ (envAt (.atoms atomsWord) memLab).lanes = [0] ∧ OriginOk (envAt (.atoms atomsWord) memLab) ∧ PlainSpad (envAt (.atoms atomsWord) memLab).w
    ∧ LanesInSpad (envAt (.atoms atomsWord) memLab) (offset12 atomsWord) 4 (fun _ => some [0, 1, 2, 3])
    ∧ atomWord.xOp ≠ .vz ∧ atomsWord.xOp ≠ .vz ∧ 0 < (envAt (.atom atomWord) memLab).w.laneCount := by
  have h := ready_all (l := [Instr.atom atomWord, .red redWord, .atoms atomsWord]) (g := .none) (s := memLab) 16 (by decide +kernel)
  refine ⟨h, ⟨by decide +kernel, by decide +kernel, (h _ (by simp)).2 _ _, (h _ (by simp)).2 _ _, fun t _ n _ => (h _ (by simp)).2 _ _,
      lanesReach_of_reaches (va := 0x20000) (by decide +kernel), .inr (by decide +kernel), fun _ => by decide +kernel⟩,
    ⟨by decide +kernel, by decide +kernel, (h _ (by simp)).2 _ _, (h _ (by simp)).2 _ _, fun t _ n _ => (h _ (by simp)).2 _ _,
      lanesReach_of_reaches (va := 0x20000) (by decide +kernel), .inr (by decide +kernel), fun _ => by decide +kernel⟩,
    by decide +kernel, originOk_of (by decide +kernel), plainSpad_of (by decide +kernel), lanesInSpad_of_readsSpad (by decide +kernel), by decide +kernel, by decide +kernel,
    by decide +kernel⟩

/-- A 4-byte atomic at a core's own scope and at the module's, on clean caches. -/
theorem witness_atomic_points :
    (0 : Nat) ≤ 2 ∧ (5 : Nat) ≤ 7 ∧ 7 ≤ 8 ∧ 4 ∣ 16 ∧ 0x80000 % 4 = 0 ∧ (∀ l : List Byte, ((fun _ => [1, 0, 0, 0]) l : List Byte).length = 4)
    ∧ (getLine (memLab.core 0).l1 (0x80000 / 128)).dirty = 0 ∧ (getLine (memLab.die (dieOf 0)).l2 (0x80000 / 128)).dirty = 0 := by
  refine ⟨by decide, by decide, by decide, by decide, by decide, fun _ => rfl, ?_, ?_⟩ <;> decide +kernel

/-! ### Blocks of spilled registers -/

def Got.okPair {α : Type} (g : Got α) : Option (State × α) :=
  match g with
  | .ok s v => some (s, v)
  | _ => none

theorem ok_of_okPair {α : Type} {g : Got α} {s : State} {v : α} (h : Got.okPair g = some (s, v)) : g = .ok s v := by
  cases g <;> simp_all [Got.okPair]

/-- A piece within one page of a range held in the data page. -/
def dataPiece (off n : Nat) : List (Nat × Nat × Place) := [(0x20000 + off, n, .phys (0x80000 + off))]

theorem rangeHeld_of {e : Env} {need : Need} {off n : Nat}
    (h : (match Got.okPair (e.placeRange e.s (0x20000 + off) n need) with
      | some (s, v) => s == e.s && v == dataPiece off n
      | none => false) = true) : RangeHeld e need (0x20000 + off) n (dataPiece off n) := by
  split at h
  · next s v hg =>
    simp only [Bool.and_eq_true, beq_iff_eq] at h
    rw [h.1, h.2] at hg
    refine ⟨ok_of_okPair hg, fun x hx => ?_⟩
    simp only [dataPiece, List.mem_singleton] at hx
    exact ⟨_, by rw [hx]⟩
  · simp at h

def spillWord : Fields := word 2 0x104 0xFF

theorem witness_spill :
    Issuing (.spill spillWord) .none memLab (envAt (.spill spillWord) memLab)
    ∧ BlockAt (envAt (.spill spillWord) memLab) 0x20000
    ∧ (∀ x ∈ (envAt (.spill spillWord) memLab).spillParts, ∃ ps, RangeHeld (envAt (.spill spillWord) memLab) needWrite (0x20000 + x.1) x.2.length ps)
    ∧ spillWord.xOp = .vreg 2 ∧ (word 0x105 0x104 0xFF).xOp = .sreg 5
    ∧ Issuing (.spill (word 2 0x104 0xFF 4)) .none memLab (envAt (.spill (word 2 0x104 0xFF 4)) memLab)
    ∧ (envAt (.spill (word 2 0x104 0xFF 4)) memLab).blockAddr = 0x20004 ∧ 0x20004 % 32 ≠ 0 := by
  refine ⟨issuing_of_issues (by decide +kernel), ⟨by decide +kernel, by decide, by decide⟩, fun x hx => ⟨_, rangeHeld_of ?_⟩, by decide +kernel, by decide +kernel,
    issuing_of_issues (by decide +kernel), by decide +kernel, by decide⟩
  have h : (envAt (.spill spillWord) memLab).spillParts.all (fun x =>
      (match Got.okPair ((envAt (.spill spillWord) memLab).placeRange (envAt (.spill spillWord) memLab).s (0x20000 + x.1) x.2.length needWrite) with
      | some (s, v) => s == (envAt (.spill spillWord) memLab).s && v == dataPiece x.1 x.2.length
      | none => false)) = true := by decide +kernel
  exact List.all_eq_true.mp h x hx

/-- FILL of v2, or of s5. -/
def fillWord (scalar : Bool) : Fields := word (if scalar then 0x105 else 2) 0x104 0xFF

/-- A block of zeros whose trailer, after `at_` bytes, has the low and the high bound `bound` and the flags `flags` (0x10: TOP,
0x20: of a scalar register). -/
def fillLab (at_ : Nat) (flags bound : Byte) : State :=
  { memLab with mem := (if bound = 0 then [] else [(0x80000 + at_, bound), (0x80008 + at_, bound)])
      ++ if flags = 0 then [] else [(0x80010 + at_, flags)] }

/-- The reads of FILL at 0x20000, with what the statement asks of them. -/
def fillReads (f : Fields) (s : State) (bad top : Bool) (outside : Option Nat) : Bool :=
  let e := envAt (.fill f) s
  match Got.okPair (e.readRange e.s false 0x20000 (blockData e.w f.xOp)) with
  | some (s1, data) =>
    match Got.okPair (e.readRangeNat s1 false (0x20000 + blockData e.w f.xOp) 32) with
    | some (s2, trl) => s2.weave? e.a.core e.a.slot == some e.w && trailerBad f.xOp.isS trl == bad && bitAt trl 132 == top
        && (e.p.mask.lanes e.w.laneCount).find? (fun k => decide (blockValue f.xOp data k < signed 64 trl)
          || decide (signed 64 (trl / 2 ^ 64) < blockValue f.xOp data k)) == outside
    | none => false
  | none => false

theorem reads_of_fillReads {f : Fields} {s : State} {bad top : Bool} {outside : Option Nat} (h : fillReads f s bad top outside = true) :
    let e := envAt (.fill f) s
    ∃ s1 trl s2 data, e.readRange e.s false 0x20000 (blockData e.w f.xOp) = .ok s1 data
      ∧ e.readRangeNat s1 false (0x20000 + blockData e.w f.xOp) 32 = .ok s2 trl ∧ s2.weave? e.a.core e.a.slot = some e.w
      ∧ trailerBad f.xOp.isS trl = bad ∧ bitAt trl 132 = top
      ∧ (e.p.mask.lanes e.w.laneCount).find? (fun k => decide (blockValue f.xOp data k < signed 64 trl)
          || decide (signed 64 (trl / 2 ^ 64) < blockValue f.xOp data k)) = outside := by
  unfold fillReads at h
  simp only at h
  split at h
  · next s1 data h1 =>
    split at h
    · next s2 trl h2 =>
      simp only [Bool.and_eq_true, beq_iff_eq] at h
      exact ⟨s1, trl, s2, data, ok_of_okPair h1, ok_of_okPair h2, h.1.1.1, h.1.1.2, h.1.2, h.2⟩
    · simp at h
  · simp at h

/-- A TOP trailer, one of the other class, one whose interval holds every word, one whose interval holds none; the same of a
scalar register. -/
theorem witness_fill : ∀ x ∈ [((false, 128, (0x10 : Byte), (0 : Byte)), (false, true, none)), ((false, 128, 0x30, 0), (true, true, none)),
      ((false, 128, 0, 0), (false, false, none)), ((false, 128, 0, 1), (false, false, some 0)), ((true, 32, 0x30, 0), (false, true, none)),
      ((true, 32, 0x20, 0), (false, false, none)), ((true, 32, 0x20, 1), (false, false, some 0))],
    let f := fillWord x.1.1
    let s := fillLab x.1.2.1 x.1.2.2.1 x.1.2.2.2
    Issuing (.fill f) .none s (envAt (.fill f) s) ∧ BlockAt (envAt (.fill f) s) 0x20000 ∧ f.xOp.isS = x.1.1
      ∧ fillReads f s x.2.1 x.2.2.1 x.2.2.2 = true := by
  have h : ∀ x ∈ [((false, 128, (0x10 : Byte), (0 : Byte)), (false, true, none)), ((false, 128, 0x30, 0), (true, true, none)),
      ((false, 128, 0, 0), (false, false, none)), ((false, 128, 0, 1), (false, false, some 0)), ((true, 32, 0x30, 0), (false, true, none)),
      ((true, 32, 0x20, 0), (false, false, none)), ((true, 32, 0x20, 1), (false, false, some 0))],
    let f := fillWord x.1.1
    let s := fillLab x.1.2.1 x.1.2.2.1 x.1.2.2.2
    issues (.fill f) .none s = true ∧ (envAt (.fill f) s).blockAddr = 0x20000 ∧ f.xOp.isS = x.1.1
      ∧ fillReads f s x.2.1 x.2.2.1 x.2.2.2 = true := by decide +kernel
  exact fun x hx => ⟨issuing_of_issues (h x hx).1, ⟨(h x hx).2.1, by decide, by decide⟩, (h x hx).2.2⟩

/-! ### Hypotheses of the statements on ordering, barriers and the stash -/

/-- A dirty byte at 0x80000 and 127 clean ones in core 0's L1. -/
def dirtyLab : State :=
  memLab.modifyCore 0 (fun k => { k with l1 := [(0x80000 / 128, { bytes := List.replicate 128 5, valid := BitVec.allOnes 128, dirty := 1 })] })

theorem witness_release_acquire :
    (getLine (dirtyLab.core 0).l1 (0x80000 / 128)).dirty.getLsbD (0x80000 % 128) = true
    ∧ (getLine (dirtyLab.die (dieOf 0)).l2 (0x80000 / 128)).dirty = 0
    ∧ ((dirtyLab.core 0).l1.map (fun x => x.1)).Nodup ∧ ((dirtyLab.die (dieOf 0)).l2.map (fun x => x.1)).Nodup
    ∧ (getLine (dirtyLab.core 0).l1 (0x80001 / 128)).dirty.getLsbD (0x80001 % 128) = false
    ∧ (getLine (dirtyLab.die (dieOf 0)).l2 (0x80001 / 128)).dirty.getLsbD (0x80001 % 128) = false := by
  and_intros <;> decide +kernel

/-- An operation still on its way to another module. -/
def afar (w : Weave) : Weave :=
  { w.modifyPath 0 (fun q => { q with issued := [7] }) with ops := [{ id := 7, owner := 0, cls := some .L, kind := .remote, writes := [] }] }

/-- A copy of the path still runs. -/
def copying (w : Weave) : Weave :=
  { w.modifyPath 0 (fun q => { q with issued := [7] }) with ops := [{ id := 7, owner := 0, cls := some .C, kind := .copy 0, writes := [] }] }

theorem witness_phases_and_fences :
    (∀ i ∈ [Instr.phase (word 0 0 0 0 2), .phase (word 0 0 0 0 5), .fence (word 0 0 0), .fencex (word 0 0 0 0 3)],
      Issuing i .none lab (envAt i lab) ∧ (envAt i lab).awaitsRemote = false)
    ∧ (envAt (.phase (word 0 0 0 0 5)) lab).w.dirtySectors (fun _ => true) = []
    ∧ (envAt (.fencex (word 0 0 0 0 3)) lab).w.opsOf (envAt (.fencex (word 0 0 0 0 3)) lab).p ((fenceClasses 3).filter (fun c => c != .L)) = []
    ∧ (envAt (.phase (word 0 0 0 0 5)) lab).s.writingBack labWeave.id (fun _ => true) = false
    ∧ (∀ i ∈ [Instr.fence (word 0 0 0), .phase (word 0 0 0 0 2)], Issuing i .none (labWith (afar labWeave)) (envAt i (labWith (afar labWeave)))
      ∧ (envAt i (labWith (afar labWeave))).awaitsRemote = true)
    ∧ Issuing (.fencex (word 0 0 0 0 3)) .none (labWith (copying labWeave)) (envAt (.fencex (word 0 0 0 0 3)) (labWith (copying labWeave)))
    ∧ (let e := envAt (.fencex (word 0 0 0 0 3)) (labWith (copying labWeave))
       e.w.opsOf e.p ((fenceClasses 3).filter (fun c => c != .L)) ≠ []) := by
  have h : ∀ i ∈ [Instr.phase (word 0 0 0 0 2), .phase (word 0 0 0 0 5), .fence (word 0 0 0), .fencex (word 0 0 0 0 3)],
      issues i .none lab = true ∧ (envAt i lab).awaitsRemote = false := by decide +kernel
  have h2 : ∀ i ∈ [Instr.fence (word 0 0 0), .phase (word 0 0 0 0 2)],
      issues i .none (labWith (afar labWeave)) = true ∧ (envAt i (labWith (afar labWeave))).awaitsRemote = true := by decide +kernel
  refine ⟨fun i hi => ⟨issuing_of_issues (h i hi).1, (h i hi).2⟩, ?_, ?_, ?_, fun i hi => ⟨issuing_of_issues (h2 i hi).1, (h2 i hi).2⟩,
    issuing_of_issues (by decide +kernel), ?_⟩ <;> decide +kernel

/-- A second path, READY or at its BAR. -/
def twoPaths (c : Cond) : State := labWith (labWeave.putPath 1 (some { Path.start 0x20000 0xF with cond := c }))

theorem witness_bar :
    (∀ c ∈ [Cond.ready, .blocked (.bar 0x2000C), .arrived 3 7 0x2000C], Issuing (.bar (word 0 0 0)) .none (twoPaths c) (envAt (.bar (word 0 0 0)) (twoPaths c))
      ∧ (envAt (.bar (word 0 0 0)) (twoPaths c)).awaitsRemote = false)
    ∧ ((envAt (.bar (word 0 0 0)) (twoPaths .ready)).w.path? 1).map (fun q => (q.atBar, q.isArrived)) = some (false, false)
    ∧ (envAt (.bar (word 0 0 0)) (twoPaths (.blocked (.bar 0x2000C)))).w.livePaths = [0, 1]
    ∧ ((envAt (.bar (word 0 0 0)) (twoPaths (.blocked (.bar 0x2000C)))).w.path? 1).map Path.cond = some (.blocked (.bar 0x2000C))
    ∧ ((envAt (.bar (word 0 0 0)) (twoPaths (.arrived 3 7 0x2000C))).w.path? 1).map (fun q => (q.atBar, q.isArrived)) = some (false, true)
    ∧ (envAt (.bar (word 0 0 0)) (twoPaths (.arrived 3 7 0x2000C))).w.livePaths = [0, 1] := by
  have h : ∀ c ∈ [Cond.ready, .blocked (.bar 0x2000C), .arrived 3 7 0x2000C], issues (.bar (word 0 0 0)) .none (twoPaths c) = true
      ∧ (envAt (.bar (word 0 0 0)) (twoPaths c)).awaitsRemote = false := by decide +kernel
  refine ⟨fun c hc => ⟨issuing_of_issues (h c hc).1, (h c hc).2⟩, ?_, ?_, ?_, ?_, ?_⟩ <;> decide +kernel

/-- No path waits at ABWAIT, computed. -/
def noneWaits (w : Weave) : Bool :=
  w.paths.all (fun p => match p.map Path.cond with
    | some (.blocked (.abwait _ _ _)) => false
    | _ => true)

theorem noneWaits_of {w : Weave} (h : noneWaits w = true) : NoneWaits w := by
  intro i q off g n hq hc
  have hm : some q ∈ w.paths := by
    unfold Weave.path? at hq
    cases hx : w.paths[i]? with
    | none => simp [hx] at hq
    | some p => simp [hx] at hq; subst hq; exact List.mem_of_getElem? hx
  have := List.all_eq_true.mp h _ hm
  simp [hc] at this

theorem barrierAt_of {e : Env} {off : Nat} (h : (e.index e.f.yOp e.lowLane + offset14 e.f == (off : Int) && off % 16 == 0
    && decide (off + 16 ≤ e.w.spadBytes) && (e.w.windows.all (fun r => !bitAt r.toNat 97) && e.w.engineWrites.isEmpty)) = true) : BarrierAt e off := by
  rw [Bool.and_eq_true] at h
  have hp := plainSpad_of h.2
  simp only [Bool.and_eq_true, beq_iff_eq, decide_eq_true_eq] at h
  exact ⟨h.1.1.1, h.1.1.2, h.1.2, hp⟩

/-- A word of EXP 1 at 0, and a second path that waits there for its generation. -/
def barrierLab (exp : Byte) (waiter : Bool) : State :=
  let w := { labWeave with spad := if exp = 0 then [] else [(4, exp)] }
  labWith (if waiter then w.putPath 1 (some { Path.start 0x20000 0xF with cond := .blocked (.abwait 0 0 0x2000C) }) else w)

def abinitWord : Fields := word 0x303 0x105 0

theorem witness_arrival_barriers :
    (∀ i ∈ [Instr.abinit abinitWord, .abexp abinitWord, .abarr abinitWord], Issuing i .none (barrierLab 1 false) (envAt i (barrierLab 1 false))
      ∧ BarrierAt (envAt i (barrierLab 1 false)) 0 ∧ NoneWaits (envAt i (barrierLab 1 false)).w ∧ (envAt i (barrierLab 1 false)).awaitsRemote = false)
    ∧ Issuing (.abarr abinitWord) .none (barrierLab 1 true) (envAt (.abarr abinitWord) (barrierLab 1 true))
      ∧ BarrierAt (envAt (.abarr abinitWord) (barrierLab 1 true)) 0 ∧ (envAt (.abarr abinitWord) (barrierLab 1 true)).w.livePaths = [0, 1]
      ∧ ((envAt (.abarr abinitWord) (barrierLab 1 true)).w.path? 1).map Path.cond
        = some (.blocked (.abwait 0 (abGen ((envAt (.abarr abinitWord) (barrierLab 1 true)).w.spad.readNat 0 16)) 0x2000C))
      ∧ abExp ((envAt (.abarr abinitWord) (barrierLab 1 true)).w.spad.readNat 0 16) = 1 ∧ (envAt (.abarr abinitWord) (barrierLab 1 true)).scalar (.small 3) = 3
    ∧ Issuing (.abinit (word 0x303 0x105 0 4)) .none lab (envAt (.abinit (word 0x303 0x105 0 4)) lab)
      ∧ ((envAt (.abinit (word 0x303 0x105 0 4)) lab).index (.sreg 5) 0 + offset14 (word 0x303 0x105 0 4)) % 16 ≠ 0 := by
  refine ⟨?_, issuing_of_issues (by decide +kernel), barrierAt_of (by decide +kernel), ?_, ?_, ?_, ?_, issuing_of_issues (by decide +kernel), ?_⟩
  · have h : ∀ i ∈ [Instr.abinit abinitWord, .abexp abinitWord, .abarr abinitWord], issues i .none (barrierLab 1 false) = true
        ∧ (let e := envAt i (barrierLab 1 false)
          (e.index e.f.yOp e.lowLane + offset14 e.f == ((0 : Nat) : Int) && 0 % 16 == 0
            && decide (0 + 16 ≤ e.w.spadBytes) && (e.w.windows.all (fun r => !bitAt r.toNat 97) && e.w.engineWrites.isEmpty)) = true)
        ∧ noneWaits (envAt i (barrierLab 1 false)).w = true ∧ (envAt i (barrierLab 1 false)).awaitsRemote = false := by decide +kernel
    exact fun i hi => ⟨issuing_of_issues (h i hi).1, barrierAt_of (h i hi).2.1, noneWaits_of (h i hi).2.2.1, (h i hi).2.2.2⟩
  all_goals decide +kernel

/-- ABWAIT for −1 (one behind), for 0 with EXP 0 (complete) and EXP 1 (waits), and for 1 (far behind); with .NB and without. -/
theorem witness_arrival_waits :
    ∀ x ∈ [((0x3FF : Nat), (0 : Byte), (65535 : Nat)), (0x105, 0, 0), (0x105, 1, 0), (0x301, 1, 1)], ∀ nb ∈ [0, 1],
      let f := word (0x201 * nb) 0x105 0 (immW x.1) nb
      let s := barrierLab x.2.1 false
      Issuing (.abwait f) .none s (envAt (.abwait f) s) ∧ BarrierAt (envAt (.abwait f) s) 0 ∧ NoneWaits (envAt (.abwait f) s).w
        ∧ (envAt (.abwait f) s).scalar f.wOp % 2 ^ 16 = x.2.2 ∧ abGen ((envAt (.abwait f) s).w.spad.readNat 0 16) = 0
        ∧ abExp ((envAt (.abwait f) s).w.spad.readNat 0 16) = x.2.1.toNat ∧ abArr ((envAt (.abwait f) s).w.spad.readNat 0 16) = 0 := by
  have h : ∀ x ∈ [((0x3FF : Nat), (0 : Byte), (65535 : Nat)), (0x105, 0, 0), (0x105, 1, 0), (0x301, 1, 1)], ∀ nb ∈ [0, 1],
      let f := word (0x201 * nb) 0x105 0 (immW x.1) nb
      let s := barrierLab x.2.1 false
      issues (.abwait f) .none s = true
        ∧ (let e := envAt (.abwait f) s
          (e.index e.f.yOp e.lowLane + offset14 e.f == ((0 : Nat) : Int) && 0 % 16 == 0
            && decide (0 + 16 ≤ e.w.spadBytes) && (e.w.windows.all (fun r => !bitAt r.toNat 97) && e.w.engineWrites.isEmpty)) = true)
        ∧ noneWaits (envAt (.abwait f) s).w = true
        ∧ (envAt (.abwait f) s).scalar f.wOp % 2 ^ 16 = x.2.2 ∧ abGen ((envAt (.abwait f) s).w.spad.readNat 0 16) = 0
        ∧ abExp ((envAt (.abwait f) s).w.spad.readNat 0 16) = x.2.1.toNat ∧ abArr ((envAt (.abwait f) s).w.spad.readNat 0 16) = 0 := by decide +kernel
  intro x hx nb hn
  obtain ⟨h1, h2, h3, h4⟩ := h x hx nb hn
  exact ⟨issuing_of_issues h1, barrierAt_of h2, noneWaits_of h3, h4⟩

/-- WAITC for an empty counter and for one of two, SLEEP 0 and 5. -/
def counted : State := labP1 (fun q => { q with counters := [8, 9] :: List.replicate 5 [] })

theorem witness_waits :
    (∀ i ∈ [Instr.waitc (word 0x230 0x301 0), .waitc (word 0x231 0x301 0), .sleep (word 0 0x105 0), .sleep (word 0 0x305 0)], Issuing i .none counted (envAt i counted))
    ∧ (word 0x230 0x301 0).xOp = .dc 0 ∧ (word 0x231 0x301 0).xOp = .dc 1 ∧ (((envAt (.waitc (word 0x230 0x301 0)) counted).p.counters[0]?).getD []).length = 2
    ∧ (((envAt (.waitc (word 0x231 0x301 0)) counted).p.counters[1]?).getD []).length = 0 ∧ (envAt (.waitc (word 0x230 0x301 0)) counted).scalar (.small 1) = 1
    ∧ (envAt (.sleep (word 0 0x105 0)) counted).scalar (.sreg 5) = 0 ∧ (envAt (.sleep (word 0 0x305 0)) counted).scalar (.small 5) = 5 := by
  refine ⟨issuing_all (by decide +kernel), ?_, ?_, ?_, ?_, ?_, ?_, ?_⟩ <;> decide +kernel

/-- STASH of one line of the data page at scratchpad 0 into window 0, and into window 5 of a weave with two. -/
def stashWord : Fields := word 0 0x104 0x105 (immW 0x301)

theorem witness_stash :
    Issuing (.stash stashWord) .none memLab (envAt (.stash stashWord) memLab)
    ∧ 0 < (envAt (.stash stashWord) memLab).w.stashCount ∧ 0 < (envAt (.stash stashWord) memLab).w.windows.length
    ∧ stashSource (envAt (.stash stashWord) memLab) = 0x20000 ∧ (envAt (.stash stashWord) memLab).scalar stashWord.zOp = 0
    ∧ (envAt (.stash stashWord) memLab).scalar stashWord.wOp = 1 ∧ 128 ≤ (envAt (.stash stashWord) memLab).w.spadBytes
    ∧ ((envAt (.stash stashWord) memLab).w.windows.all (fun r => !bitAt r.toNat 97)) = true ∧ (envAt (.stash stashWord) memLab).w.engineBusy = false
    ∧ Issuing (.stash (word 5 0x104 0x105 (immW 0x301))) .none memLab (envAt (.stash (word 5 0x104 0x105 (immW 0x301))) memLab)
    ∧ (envAt (.stash (word 5 0x104 0x105 (immW 0x301))) memLab).w.stashCount ≤ 5 := by
  refine ⟨issuing_of_issues (by decide +kernel), ?_, ?_, ?_, ?_, ?_, ?_, ?_, ?_, issuing_of_issues (by decide +kernel), ?_⟩ <;> decide +kernel

/-- Window 0 maps the data page's first line at scratchpad 0; its sector 0 is DIRTY in one byte, or CLEAN. -/
def stashLab (written : BitVec 32) : State :=
  labWith { memWeave with windows := setAt memWeave.windows 0 (BitVec.ofNat 128 (0x20000 + 2 ^ 72 + 2 ^ 97)), sectors := [{ window := 0, index := 0, written }] }

theorem witness_stash_write_backs :
    (Issuing (.stwb (word 0 0 0)) .none (stashLab 1) (envAt (.stwb (word 0 0 0)) (stashLab 1))
      ∧ (let e := envAt (.stwb (word 0 0 0)) (stashLab 1)
        e.w.windows[0]? = some (BitVec.ofNat 128 (0x20000 + 2 ^ 72 + 2 ^ 97)) ∧ winValid (BitVec.ofNat 128 (0x20000 + 2 ^ 72 + 2 ^ 97)) = true
        ∧ e.w.dirtySectors (fun m => m == 0) = [{ window := 0, index := 0, written := 1 }] ∧ e.w.sectors.Nodup
        ∧ e.s.translate e.a.core e.w.id.ctx (winGlobal (BitVec.ofNat 128 (0x20000 + 2 ^ 72 + 2 ^ 97)) + 32 * 0) needWrite = (e.s, .phys 0x80000)
        ∧ e.s.writingBack e.w.id (fun m => m == 0) = false))
    ∧ (Issuing (.stwb (word 0 0 0)) .none (stashLab 0) (envAt (.stwb (word 0 0 0)) (stashLab 0))
      ∧ (envAt (.stwb (word 0 0 0)) (stashLab 0)).s.awaits (envAt (.stwb (word 0 0 0)) (stashLab 0)) = false
      ∧ (envAt (.stwb (word 0 0 0)) (stashLab 0)).s.writingBack (envAt (.stwb (word 0 0 0)) (stashLab 0)).w.id (fun m => m == 0) = false
      ∧ ∀ x ∈ (envAt (.stwb (word 0 0 0)) (stashLab 0)).w.sectors, x.written = 0)
    ∧ (Issuing (.unstash (word 1 0 0)) .none (stashLab 0) (envAt (.unstash (word 1 0 0)) (stashLab 0))
      ∧ (envAt (.unstash (word 1 0 0)) (stashLab 0)).w.windows[1]? = some 0 ∧ winValid 0 = false)
    ∧ Issuing (.unstash (word 0 0 0)) .none (stashLab 0) (envAt (.unstash (word 0 0 0)) (stashLab 0))
      ∧ (envAt (.unstash (word 0 0 0)) (stashLab 0)).w.engineBusy = false
      ∧ (envAt (.unstash (word 0 0 0)) (stashLab 0)).s.writingBack (envAt (.unstash (word 0 0 0)) (stashLab 0)).w.id (fun m => m == 0) = false
      ∧ (envAt (.unstash (word 0 0 0)) (stashLab 0)).w.windows[0]? = some (BitVec.ofNat 128 (0x20000 + 2 ^ 72 + 2 ^ 97)) := by
  refine ⟨⟨issuing_of_issues (by decide +kernel), by decide +kernel⟩, ⟨issuing_of_issues (by decide +kernel), ?_, ?_, ?_⟩,
    ⟨issuing_of_issues (by decide +kernel), ?_, ?_⟩, issuing_of_issues (by decide +kernel), ?_, ?_, ?_⟩ <;> decide +kernel

/-! ### Hypotheses of the statements on hoops and queues -/

/-- The hoop of two members at 0x20040 (s5), with one arrived or none, held or not. -/
def hoopWord : Nat := 2 + 5 * 2 ^ 96 + 2 ^ 100

def hoopLab (d : Nat) (has : Bool) (va : Nat := 0x20040) : State :=
  (labWith { memWeave.writeScalar 5 (BitVec.ofNat 64 va) with hoops := if has then [0x20040] else [] }).writeHomeNat 0x80040 64 d

def hoopAt (e : Env) (d : Nat) : Bool :=
  e.scalar e.f.yOp == 0x20040 && e.s.translateFor e.a e.w.id.ctx 0x20040 needBoth == (e.s, .phys 0x80040)
    && e.s.readHomeNat 0x80040 64 == d && hoopCtx d == e.w.id.ctx

theorem hoopAt_of {e : Env} {d : Nat} (h : hoopAt e d = true) : HoopAt e 0x20040 0x80040 d := by
  simp only [hoopAt, Bool.and_eq_true, beq_iff_eq] at h
  exact ⟨h.1.1.1, by decide, h.1.1.2, h.1.2, h.2⟩

def hoopInstr (n : Nat) : Instr :=
  let f := word 0 0x105 0
  match n with
  | 0 => .joinHoop f
  | 1 => .leaveHoop f
  | _ => .hbar f

/-- JOIN, LEAVE and HBAR of a hoop held and not held, with none and with one arrived, and with one member. -/
theorem witness_hoops :
    (∀ n ∈ [0, 1, 2], ∀ x ∈ [false, true], ∀ d ∈ [hoopWord, hoopWord + 2 ^ 32, hoopWord - 1],
      Issuing (hoopInstr n) .none (hoopLab d x) (envAt (hoopInstr n) (hoopLab d x)) ∧ HoopAt (envAt (hoopInstr n) (hoopLab d x)) 0x20040 0x80040 d
        ∧ (envAt (hoopInstr n) (hoopLab d x)).w.hoops = (if x then [0x20040] else [])
        ∧ (envAt (hoopInstr n) (hoopLab d x)).w.livePaths = [0] ∧ (envAt (hoopInstr n) (hoopLab d x)).awaitsRemote = false
        ∧ (((envAt (hoopInstr n) (hoopLab d x)).s.touch 0x80040).release 0 5).readHomeNat 0x80040 64 = d)
    ∧ bits hoopWord 511 134 = 0 ∧ hoopScope hoopWord = 5 ∧ hoopMembers hoopWord = 2 ∧ hoopArrived hoopWord = 0
    ∧ hoopArrived (hoopWord + 2 ^ 32) = 1 ∧ hoopMembers (hoopWord - 1) = 1
    ∧ Issuing (hoopInstr 0) .none (hoopLab hoopWord false 0x20044) (envAt (hoopInstr 0) (hoopLab hoopWord false 0x20044))
    ∧ (envAt (hoopInstr 0) (hoopLab hoopWord false 0x20044)).scalar (.sreg 5) = 0x20044 := by
  refine ⟨?_, ?_, ?_, ?_, ?_, ?_, ?_, issuing_of_issues (by decide +kernel), ?_⟩
  · have h : ∀ n ∈ [0, 1, 2], ∀ x ∈ [false, true], ∀ d ∈ [hoopWord, hoopWord + 2 ^ 32, hoopWord - 1],
        issues (hoopInstr n) .none (hoopLab d x) = true ∧ hoopAt (envAt (hoopInstr n) (hoopLab d x)) d = true
        ∧ (envAt (hoopInstr n) (hoopLab d x)).w.hoops = (if x then [0x20040] else [])
        ∧ (envAt (hoopInstr n) (hoopLab d x)).w.livePaths = [0] ∧ (envAt (hoopInstr n) (hoopLab d x)).awaitsRemote = false
        ∧ (((envAt (hoopInstr n) (hoopLab d x)).s.touch 0x80040).release 0 5).readHomeNat 0x80040 64 = d := by decide +kernel
    intro n hn x hx d hd
    obtain ⟨h1, h2, h3⟩ := h n hn x hx d hd
    exact ⟨issuing_of_issues h1, hoopAt_of h2, h3⟩
  all_goals decide +kernel

/-- A queue of 16 entries of 4 bytes at 0x20100, its descriptor at 0x20080, bound to port 0, with the given HEAD and TAIL. -/
def queueDesc : Nat := 0x20100 + 4 * 2 ^ 142 + 2 * 2 ^ 147 + 5 * 2 ^ 150

def queueLab (head tail : Nat) : State :=
  { ((memLab.setField (serviceBlock 0) 167 128 0x90).writeHomeNat 0x90000 16 0x20080).writeHomeNat 0x80080 64 queueDesc with
    queues := [(0x80080, (head, tail))] }

def queueAt (e : Env) : Bool :=
  e.s.portEntry e.w.id.ctx 0 == 0x20080 && e.s.translateFor e.a e.w.id.ctx 0x20080 needBoth == (e.s, .phys 0x80080)
    && e.s.readHomeNat 0x80080 64 == queueDesc && qCtx queueDesc == e.w.id.ctx

theorem queueAt_of {e : Env} (h : queueAt e = true) : QueueAt e 0 0x80080 queueDesc := by
  simp only [queueAt, Bool.and_eq_true, beq_iff_eq] at h
  obtain ⟨⟨⟨h1, h2⟩, h3⟩, h4⟩ := h
  unfold QueueAt
  simp only [h1]
  exact ⟨by decide, by decide, by decide, h2, h3, by decide +kernel, h4⟩

/-- QPUSH of s5 and QPOP to s5 by port 0, in an empty, a full and a half-full queue; a port that is not bound. -/
def queueInstr (push : Bool) : Instr :=
  if push then .qpush (word 0x220 0x105 0 (immW 0x201)) else .qpop (word 0x105 0x220 0 (immW 0x201))

theorem witness_queues :
    (∀ push ∈ [false, true], ∀ t ∈ [0, 8, 16],
      Issuing (queueInstr push) .none (queueLab 0 t) (envAt (queueInstr push) (queueLab 0 t)) ∧ QueueAt (envAt (queueInstr push) (queueLab 0 t)) 0 0x80080 queueDesc
        ∧ (envAt (queueInstr push) (queueLab 0 t)).queueLanes (.sreg 5) = [0] ∧ queueFits (envAt (queueInstr push) (queueLab 0 t)).w (.sreg 5) (qEsz queueDesc) = true
        ∧ (envAt (queueInstr push) (queueLab 0 t)).s.queueState 0x80080 = (0, t) ∧ (envAt (queueInstr push) (queueLab 0 t)).awaitsRemote = false
        ∧ EntriesHeld (envAt (queueInstr push) (queueLab 0 t)) ((envAt (queueInstr push) (queueLab 0 t)).s.touch 0x80080) (if push then needWrite else needRead) queueDesc (if push then t else 0) 1
          (fun _ => 0x80100 + 4 * (if push then t % 16 else 0))
        ∧ (let e := envAt (queueInstr push) (queueLab 0 t)
           e.reserved = none ∧ e.s.entriesWritten 0x80080 0 (min 1 t) = true
           ∧ EntriesHeld e (e.reserve ((e.s.touch 0x80080).release 0 5) 0x80080 0 t (min 1 (16 - t))) needWrite queueDesc t (min 1 (16 - t)) (fun _ => 0x80100 + 4 * (t % 16))))
    ∧ 2 ^ qCap queueDesc = 16 ∧ Machine.held 0 16 = 16 ∧ Machine.held 0 8 = 8 ∧ 0x80080 + 28 ≤ 0x80100 ∧ (word 0x220 0x105 0 (immW 0x201)).xOp = .port 0
    ∧ Issuing (queueInstr true) .none memLab (envAt (queueInstr true) memLab) ∧ (envAt (queueInstr true) memLab).s.portEntry 0 0 = 0 := by
  refine ⟨?_, ?_, ?_, ?_, ?_, ?_, issuing_of_issues (by decide +kernel), ?_⟩
  · have h : ∀ push ∈ [false, true], ∀ t ∈ [0, 8, 16],
        issues (queueInstr push) .none (queueLab 0 t) = true ∧ queueAt (envAt (queueInstr push) (queueLab 0 t)) = true
        ∧ ((envAt (queueInstr push) (queueLab 0 t)).queueLanes (.sreg 5) = [0] ∧ queueFits (envAt (queueInstr push) (queueLab 0 t)).w (.sreg 5) (qEsz queueDesc) = true
        ∧ (envAt (queueInstr push) (queueLab 0 t)).s.queueState 0x80080 = (0, t) ∧ (envAt (queueInstr push) (queueLab 0 t)).awaitsRemote = false)
        ∧ (let e := envAt (queueInstr push) (queueLab 0 t)
          (e.s.touch 0x80080).translateFor e.a e.w.id.ctx (entryVa queueDesc (if push then t else 0)) (if push then needWrite else needRead)
            = (e.s.touch 0x80080, .phys (0x80100 + 4 * (if push then t % 16 else 0))))
        ∧ (let e := envAt (queueInstr push) (queueLab 0 t)
           let u := e.reserve ((e.s.touch 0x80080).release 0 5) 0x80080 0 t (min 1 (16 - t))
           e.reserved = none ∧ e.s.entriesWritten 0x80080 0 (min 1 t) = true
           ∧ u.translateFor e.a e.w.id.ctx (entryVa queueDesc t) needWrite = (u, .phys (0x80100 + 4 * (t % 16)))) := by decide +kernel
    intro push hp t ht
    obtain ⟨h1, h2, ⟨h3, h4, h5, h6⟩, h7, h8, h9, h10⟩ := h push hp t ht
    refine ⟨issuing_of_issues h1, queueAt_of h2, h3, h4, h5, h6, fun j hj => ?_, h8, h9, fun j hj => ?_⟩
    · obtain rfl : j = 0 := by omega
      exact h7
    · obtain rfl : j = 0 := by omega
      exact h10
  all_goals decide +kernel

/-! ### Hypotheses of the statements on the engines -/

/-- An operation that fills a channel. -/
def someCopy : CopyOp :=
  { weave := labWeave.id, slot := 1, path := 0, op := 3, next := 0, cls := .C, dst := .spad 0, src := .spad 0, len := 4, seg := 0, moved := 0, swz := 0
    barrier := none, status := none, isRows := false, toSpad := true, rowSize := 0, untranslated := [], rows := [], statusWords := [], faults := []
    captured := { sregs := [], aregs := [], rng := 0 }, arrived := [], bad := none, sent := false }

/-- CPY.G2S of 16 bytes of the data page to scratchpad 0; of 3 bytes; into a full channel; with a barrier at 0. -/
def cpyWord (len : Nat) (bar : Bool := false) : Fields := word 0x105 0x104 (0x300 + len) (if bar then immW 0x105 else 0) (if bar then 0x40 else 0)

def fullChannel : State := memLab.modifyCore 0 (fun k => { k with channels := [(0, List.replicate 16 someCopy)] })

/-- The places of both sides are found with nothing changed, and lie on this module. -/
def placed (e : Env) : Bool :=
  match Got.okPair (e.placeSides e.s true false 0x20000 0 16) with
  | some (u, tt) => u == e.s && !hasRemote tt.2
  | none => false

theorem placed_ok {e : Env} (h : placed e = true) : ∃ tt, e.placeSides e.s true false 0x20000 0 16 = .ok e.s tt ∧ hasRemote tt.2 = false := by
  unfold placed at h
  split at h
  · next u tt hg =>
    simp only [Bool.and_eq_true, beq_iff_eq, Bool.not_eq_true'] at h
    rw [h.1] at hg
    exact ⟨tt, ok_of_okPair hg, h.2⟩
  · simp at h

theorem witness_copy :
    (∀ s ∈ [memLab, fullChannel], ∀ bar ∈ [false, true],
      Issuing (.cpy (cpyWord 16 bar)) .copy s (envAt (.cpy (cpyWord 16 bar)) s) ∧ PlainSpad (envAt (.cpy (cpyWord 16 bar)) s).w
      ∧ (∃ tt, (envAt (.cpy (cpyWord 16 bar)) s).placeSides (envAt (.cpy (cpyWord 16 bar)) s).s true false 0x20000 0 16 = .ok (envAt (.cpy (cpyWord 16 bar)) s).s tt
        ∧ hasRemote tt.2 = false)
      ∧ CopyBarrier (envAt (.cpy (cpyWord 16 bar)) s) (if bar then some 0 else none)
      ∧ outside (envAt (.cpy (cpyWord 16 bar)) s).w 0 0 16 0 = false ∧ (envAt (.cpy (cpyWord 16 bar)) s).globalBase (.sreg 4) = 0x20000
      ∧ (envAt (.cpy (cpyWord 16 bar)) s).scalar (.sreg 5) = 0 ∧ (envAt (.cpy (cpyWord 16 bar)) s).scalar (.small 16) = 16)
    ∧ ((memLab.core 0).channel 0).length = 0 ∧ ((fullChannel.core 0).channel 0).length = 16
    ∧ Issuing (.cpy (cpyWord 3)) .copy memLab (envAt (.cpy (cpyWord 3)) memLab) ∧ (envAt (.cpy (cpyWord 3)) memLab).scalar (.small 3) = 3
    ∧ copyDir (cpyWord 16) = 0 := by
  refine ⟨?_, ?_, ?_, issuing_of_issues (by decide +kernel), ?_, ?_⟩
  · have h : ∀ s ∈ [memLab, fullChannel], ∀ bar ∈ [false, true],
        issues (.cpy (cpyWord 16 bar)) .copy s = true
        ∧ ((envAt (.cpy (cpyWord 16 bar)) s).w.windows.all (fun r => !bitAt r.toNat 97) && (envAt (.cpy (cpyWord 16 bar)) s).w.engineWrites.isEmpty) = true
        ∧ placed (envAt (.cpy (cpyWord 16 bar)) s) = true
        ∧ (envAt (.cpy (cpyWord 16 bar)) s).f = cpyWord 16 bar ∧ (envAt (.cpy (cpyWord 16 bar)) s).w.spadBytes = 8192
        ∧ (envAt (.cpy (cpyWord 16 bar)) s).scalar (cpyWord 16 true).wOp = 0 ∧ copyHasBar (cpyWord 16 bar) = bar
        ∧ (outside (envAt (.cpy (cpyWord 16 bar)) s).w 0 0 16 0 = false ∧ (envAt (.cpy (cpyWord 16 bar)) s).globalBase (.sreg 4) = 0x20000
        ∧ (envAt (.cpy (cpyWord 16 bar)) s).scalar (.sreg 5) = 0 ∧ (envAt (.cpy (cpyWord 16 bar)) s).scalar (.small 16) = 16) := by decide +kernel
    intro s hs bar hb
    obtain ⟨h1, h2, h3, h4, h5, h6, h7, h8⟩ := h s hs bar hb
    refine ⟨issuing_of_issues h1, plainSpad_of h2, placed_ok h3, ?_, h8⟩
    unfold CopyBarrier
    rw [h4, h7, h5]
    cases bar
    · rfl
    · rw [h6]; exact ⟨rfl, by decide, by decide⟩
  all_goals decide +kernel

/-- a0: 16 elements of 4 bytes at the data page, out of range masked. -/
def rowsLab : State := labWith (memWeave.writeAreg 0 (BitVec.ofNat 128 (0x20000 + 16 * 2 ^ 72 + 2 * 2 ^ 112)))

def rowsWord : Fields := word 0x105 0x210 0

/-- What GATHER and SCATTER ask of the lanes. -/
def rowsGood (e : Env) (f : Fields) (n : Nat) : Bool :=
  let a := e.areg n
  let size : Nat := 2 ^ aregEsz a
  let at_ := fun (k : Nat) => (aregBase a : Int) + (e.index f.zOp k + offset14 f) * (size : Int)
  e.lanes.all (fun k => (!e.inRange a (offset14 f) size k || (decide (0 ≤ at_ k) && decide (at_ k < (2 ^ 72 : Int))))
    && !outside e.w (e.scalar f.xOp) (k * size) size (bits f.modN 5 4)) && decide (2 ≤ aregEsz a) && aregChk a == 0
    && e.scalar f.xOp % 2 ^ originLog2 (bits f.modN 5 4) == 0 && !copyHasBar f

theorem witness_rows :
    (∀ i ∈ [Instr.gather rowsWord, .scatter rowsWord],
      Issuing i .copy rowsLab (envAt i rowsLab) ∧ (∀ t o, TagOk (envAt i rowsLab).w t o) ∧ PlainSpad (envAt i rowsLab).w ∧ rowsGood (envAt i rowsLab) rowsWord 0 = true)
    ∧ rowsWord.yOp = .areg 0 ∧ ((rowsLab.core 0).channel 0).length < 16 := by
  have h : ∀ i ∈ [Instr.gather rowsWord, .scatter rowsWord], issues i .copy rowsLab = true ∧ (envAt i rowsLab).w.tags = List.replicate 16 .untyped
      ∧ ((envAt i rowsLab).w.windows.all (fun r => !bitAt r.toNat 97) && (envAt i rowsLab).w.engineWrites.isEmpty) = true
      ∧ rowsGood (envAt i rowsLab) rowsWord 0 = true := by decide +kernel
  refine ⟨fun i hi => ⟨issuing_of_issues (h i hi).1, tagOk_of_tags (h i hi).2.1, plainSpad_of (h i hi).2.2.1, (h i hi).2.2.2⟩, ?_, ?_⟩ <;> decide +kernel

/-- A shape record in the scratchpad: FP32 or E4M3 elements, 128 by 128, lines 4 bytes apart. -/
def shapeRecord (fmt : Nat) : Nat := 4 * 2 ^ 72 + 128 * 2 ^ 112 + 128 * 2 ^ 136 + fmt * 2 ^ 272 + 2 ^ 280

/-- The weave holds slot 0, permutation slot 0 and tile 0; sh0 is of `fmt`; its scratchpad holds that record at 0 and its MATRIX_ABORT bit is `abort`. -/
def matrixLab (fmt : Nat) (abort : Bool := false) : State :=
  (labWith { (memWeave.writeShape 0 (BitVec.ofNat 512 (shapeRecord fmt))).writeScalar 6 (BitVec.ofNat 64 (2 ^ 0 + 2 ^ 32 + 2 ^ 40)) with
      spad := (Memory.writeBytes [] 0 (toBytes 64 (shapeRecord fmt))), matrixAbort := abort }).modifyCore 0 (fun k =>
    [0, 32, 40].foldl (fun k i => k.claimResource labWeave.id i) k)

def recordAt (e : Env) (n : Nat) : Bool :=
  e.f.zN == 0 && e.index e.f.yOp e.lowLane + offset14 e.f == 0 && decide (n ≤ e.w.spadBytes)
    && (e.w.windows.all (fun r => !bitAt r.toNat 97) && e.w.engineWrites.isEmpty)

theorem recordAt_of {e : Env} {n : Nat} (h : recordAt e n = true) : RecordAt e n 0 (e.w.spad.readNat 0 n) := by
  unfold recordAt at h
  rw [Bool.and_eq_true] at h
  have hp := plainSpad_of h.2
  simp only [Bool.and_eq_true, beq_iff_eq, decide_eq_true_eq] at h
  exact ⟨by simp, .inl ⟨h.1.1.1, h.1.1.2, by simpa using h.1.2, hp, rfl⟩⟩

theorem witness_shape_load : ∀ fmt ∈ [2, 15],
    let i : Instr := .tsrld (word 0x236 0x105 0)
    let e := envAt i (matrixLab fmt)
    Issuing i .copy (matrixLab fmt) e ∧ RecordAt e 64 0 (e.w.spad.readNat 0 64) ∧ (word 0x236 0x105 0).xOp = .shape 0
      ∧ shapeBad (BitVec.ofNat 512 (e.w.spad.readNat 0 64)) = (fmt == 15) := by
  have h : ∀ fmt ∈ [2, 15], issues (.tsrld (word 0x236 0x105 0)) .copy (matrixLab fmt) = true ∧ recordAt (envAt (.tsrld (word 0x236 0x105 0)) (matrixLab fmt)) 64 = true
      ∧ (word 0x236 0x105 0).xOp = .shape 0
      ∧ shapeBad (BitVec.ofNat 512 ((envAt (.tsrld (word 0x236 0x105 0)) (matrixLab fmt)).w.spad.readNat 0 64)) = (fmt == 15) := by decide +kernel
  exact fun fmt hf => ⟨issuing_of_issues (h fmt hf).1, recordAt_of (h fmt hf).2.1, (h fmt hf).2.2⟩

/-- Who holds a resource of core 0. -/
def holderOf (s : State) (i : Nat) : Option WeaveId := ((s.core 0).matrixOwner i).holder

/-- MCLAIM and MREL of slot 0 and tile 0 (s6) and of a mask beyond 48 bits, free, held, and held by another. -/
def otherHolds : State :=
  (labWith (memWeave.writeScalar 6 (BitVec.ofNat 64 (2 ^ 0 + 2 ^ 32)))).modifyCore 0 (fun k => k.claimResource { labWeave.id with inst := 9 } 0)

theorem witness_claims :
    (∀ s ∈ [labS [(6, 1 + 2 ^ 32)], labS [(6, 2 ^ 48)], otherHolds, matrixLab 2], ∀ i ∈ [Instr.mclaim (word 0x201 0x106 0), .mrel (word 0 0x106 0)],
      Issuing i .matrix s (envAt i s) ∧ (envAt i s).w.matrixAbort = false)
    ∧ maskBits (1 + 2 ^ 32) = [0, 32] ∧ holderOf (labS [(6, 1 + 2 ^ 32)]) 0 = none ∧ holderOf (labS [(6, 1 + 2 ^ 32)]) 32 = none
    ∧ holderOf otherHolds 0 = some { labWeave.id with inst := 9 } ∧ holderOf (matrixLab 2) 0 = some labWeave.id ∧ holderOf (matrixLab 2) 32 = some labWeave.id
    ∧ holderOf (matrixLab 2) 40 = some labWeave.id ∧ maskBits (1 + 2 ^ 32 + 2 ^ 40) = [0, 32, 40] ∧ ((matrixLab 2).core 0).matrix.length = 0
    ∧ (∀ n ∈ [(1 + 2 ^ 32, labS [(6, 1 + 2 ^ 32)]), (2 ^ 48, labS [(6, 2 ^ 48)]), (1 + 2 ^ 32 + 2 ^ 40, matrixLab 2)], (envAt (.mrel (word 0 0x106 0)) n.2).scalar (.sreg 6) = n.1) := by
  have h : ∀ s ∈ [labS [(6, 1 + 2 ^ 32)], labS [(6, 2 ^ 48)], otherHolds, matrixLab 2], ∀ i ∈ [Instr.mclaim (word 0x201 0x106 0), .mrel (word 0 0x106 0)],
      issues i .matrix s = true ∧ (envAt i s).w.matrixAbort = false := by decide +kernel
  refine ⟨fun s hs i hi => ⟨issuing_of_issues (h s hs i hi).1, (h s hs i hi).2⟩, ?_, ?_, ?_, ?_, ?_, ?_, ?_, ?_, ?_, ?_⟩ <;> decide +kernel

/-- A transfer through the scratchpad is ready, computed. -/
def spadReady (e : Env) (sh : BitVec 512) (spans scales : List (Nat × Nat)) : Bool :=
  shSpad sh && shBase sh % 2 ^ originLog2 (shSwz sh) == 0 && outsideWindow e.w.spadBytes sh spans scales == none
    && (e.w.windows.all (fun r => !bitAt r.toNat 97) && e.w.engineWrites.isEmpty)

theorem transferReady_of {e : Env} {sh : BitVec 512} {spans scales : List (Nat × Nat)} {need : Need} (h : spadReady e sh spans scales = true) :
    TransferReady e sh spans scales need [] := by
  unfold spadReady at h
  rw [Bool.and_eq_true] at h
  have hp := plainSpad_of h.2
  simp only [Bool.and_eq_true, beq_iff_eq] at h
  exact .inl ⟨h.1.1.1, h.1.1.2, h.1.2, hp, rfl⟩

def mayCommand (s : State) (e : Env) (mask : Nat) : Bool :=
  !e.w.matrixAbort && (maskBits mask).all (fun i => ((s.core e.a.core).matrixOwner i).holder == some e.w.id)

theorem mayCommand_of {s : State} {e : Env} {mask : Nat} (h : mayCommand s e mask = true) : MayCommand s e mask := by
  simp only [mayCommand, Bool.and_eq_true, Bool.not_eq_true', List.all_eq_true, beq_iff_eq] at h
  exact h

theorem noReleases_of {s : State} {c : Nat} (h : (s.core c).matrix.isEmpty = true) : NoReleases s c := by
  intro m hm
  rw [List.isEmpty_iff] at h
  rw [h] at hm
  cases hm

/-- MLOAD of slot 0 through a record of E4M3 lines, and of one that does not pair; ACCLD, ACCST and ACCZ of tile 0 through FP32 lines. -/
def mloadWord : Fields := word 0 0x236 0x105 (immW 0x105)

theorem witness_transfers :
    (let e := envAt (.mload mloadWord) (matrixLab 5)
     Issuing (.mload mloadWord) .matrix (matrixLab 5) e ∧ MayCommand (matrixLab 5) e (2 ^ 0) ∧ NoReleases (matrixLab 5) 0
        ∧ loadPairs false e.shapeOf 0 0 = true ∧ signed 64 (e.scalar (.sreg 5)) = 0
        ∧ TransferReady e e.shapeOf (loadSpans e.shapeOf false 0 0) (scaleSpans e.shapeOf 0 0) needRead [])
    ∧ (let e := envAt (.mload mloadWord) (matrixLab 2)
     Issuing (.mload mloadWord) .matrix (matrixLab 2) e ∧ MayCommand (matrixLab 2) e (2 ^ 0) ∧ NoReleases (matrixLab 2) 0
        ∧ loadPairs false e.shapeOf 0 0 = false)
    ∧ (∀ i ∈ [Instr.accld mloadWord, .accst mloadWord, .accz (word 0 0 0)],
      Issuing i .matrix (matrixLab 2) (envAt i (matrixLab 2)) ∧ MayCommand (matrixLab 2) (envAt i (matrixLab 2)) (2 ^ 32))
    ∧ (∀ i ∈ [Instr.accld mloadWord, .accst mloadWord],
      accPairs (envAt i (matrixLab 2)).shapeOf 0 0 = true
        ∧ TransferReady (envAt i (matrixLab 2)) (envAt i (matrixLab 2)).shapeOf (accSpans (envAt i (matrixLab 2)).shapeOf 0 0) [] needRead []
        ∧ TransferReady (envAt i (matrixLab 2)) (envAt i (matrixLab 2)).shapeOf (accSpans (envAt i (matrixLab 2)).shapeOf 0 0) [] needWrite []
        ∧ (((matrixLab 2).core 0).tile 0).tag = .untyped ∧ (envAt i (matrixLab 2)).scalar (.sreg 5) = 0) := by
  refine ⟨⟨issuing_of_issues (by decide +kernel), mayCommand_of (by decide +kernel), noReleases_of (by decide +kernel), by decide +kernel, by decide +kernel,
    transferReady_of (by decide +kernel)⟩, ⟨issuing_of_issues (by decide +kernel), mayCommand_of (by decide +kernel), noReleases_of (by decide +kernel), by decide +kernel⟩,
    ?_, ?_⟩
  · have h : ∀ i ∈ [Instr.accld mloadWord, .accst mloadWord, .accz (word 0 0 0)], issues i .matrix (matrixLab 2) = true
        ∧ mayCommand (matrixLab 2) (envAt i (matrixLab 2)) (2 ^ 32) = true := by decide +kernel
    exact fun i hi => ⟨issuing_of_issues (h i hi).1, mayCommand_of (h i hi).2⟩
  · have h : ∀ i ∈ [Instr.accld mloadWord, .accst mloadWord], accPairs (envAt i (matrixLab 2)).shapeOf 0 0 = true
        ∧ spadReady (envAt i (matrixLab 2)) (envAt i (matrixLab 2)).shapeOf (accSpans (envAt i (matrixLab 2)).shapeOf 0 0) [] = true
        ∧ (((matrixLab 2).core 0).tile 0).tag = .untyped ∧ (envAt i (matrixLab 2)).scalar (.sreg 5) = 0 := by decide +kernel
    exact fun i hi => ⟨(h i hi).1, transferReady_of (h i hi).2.1, transferReady_of (h i hi).2.1, (h i hi).2.2⟩

/-- MMA of FP16 and MMAS of E4M3 on slot 0 with itself into tile 0; slots that run past 31; MTASK of the record in the scratchpad; after a failed task. -/
def mmaWord (a n : Nat) : Fields := word 0 a 0 (n - 1)

theorem witness_tasks :
    (∀ i ∈ [Instr.mma (mmaWord 0 1), .mmas (mmaWord 0 1), .mtask (word 0 0x105 0)],
      Issuing i .matrix (matrixLab 2) (envAt i (matrixLab 2)) ∧ MayCommand (matrixLab 2) (envAt i (matrixLab 2)) (commandedTask (mmaWord 0 1) false).names
        ∧ Issuing i .matrix (matrixLab 2 true) (envAt i (matrixLab 2 true)) ∧ (envAt i (matrixLab 2 true)).w.matrixAbort = true)
    ∧ (∀ i ∈ [Instr.mma (mmaWord 31 2), .mmas (mmaWord 31 2)], Issuing i .matrix (matrixLab 2) (envAt i (matrixLab 2)) ∧ (envAt i (matrixLab 2)).w.matrixAbort = false)
    ∧ (∀ x ∈ [false, true], ∃ v, RecordAt (envAt (.mtask (word 0 0x105 0)) (matrixLab 2 x)) 32 0 v) ∧ NoReleases (matrixLab 2) 0
    ∧ (commandedTask (mmaWord 0 1) false).names = (commandedTask (mmaWord 0 1) true).names ∧ (commandedTask (mmaWord 31 2) true).aslot + 2 - 1 = 32
    ∧ ((matrixLab 2).core 0).taskCount = 0 := by
  have h : ∀ i ∈ [Instr.mma (mmaWord 0 1), .mmas (mmaWord 0 1), .mtask (word 0 0x105 0)], issues i .matrix (matrixLab 2) = true
      ∧ mayCommand (matrixLab 2) (envAt i (matrixLab 2)) (commandedTask (mmaWord 0 1) false).names = true
      ∧ issues i .matrix (matrixLab 2 true) = true ∧ (envAt i (matrixLab 2 true)).w.matrixAbort = true := by decide +kernel
  have h2 : ∀ i ∈ [Instr.mma (mmaWord 31 2), .mmas (mmaWord 31 2)], issues i .matrix (matrixLab 2) = true ∧ (envAt i (matrixLab 2)).w.matrixAbort = false := by
    decide +kernel
  have h3 : ∀ x ∈ [false, true], recordAt (envAt (.mtask (word 0 0x105 0)) (matrixLab 2 x)) 32 = true := by decide +kernel
  refine ⟨fun i hi => ⟨issuing_of_issues (h i hi).1, mayCommand_of (h i hi).2.1, issuing_of_issues (h i hi).2.2.1, (h i hi).2.2.2⟩,
    fun i hi => ⟨issuing_of_issues (h2 i hi).1, (h2 i hi).2⟩, fun x hx => ⟨_, recordAt_of (h3 x hx)⟩, noReleases_of (by decide +kernel), ?_, ?_, ?_⟩ <;> decide +kernel

/-- QPERM through permutation slot 0, held and not. -/
theorem witness_qperm :
    (∀ s ∈ [lab, matrixLab 2], Issuing (.qperm (word 2 1 0)) .none s (envAt (.qperm (word 2 1 0)) s) ∧ (envAt (.qperm (word 2 1 0)) s).w.id = labWeave.id)
    ∧ ((lab.core 0).perm 0).owner.holder = none ∧ (((matrixLab 2).core 0).perm 0).owner.holder = some labWeave.id ∧ ((matrixLab 2).core 0).matrix.isEmpty = true
    ∧ (word 2 1 0).xOp = .vreg 2 := by
  have h : ∀ s ∈ [lab, matrixLab 2], issues (.qperm (word 2 1 0)) .none s = true ∧ (envAt (.qperm (word 2 1 0)) s).w.id = labWeave.id := by decide +kernel
  refine ⟨fun s hs => ⟨issuing_of_issues (h s hs).1, (h s hs).2⟩, ?_, ?_, ?_, ?_⟩ <;> decide +kernel

/-! ### The shutter array -/

/-- No path of the weave waits at a shutter form, computed. -/
def noneWaitsShutter (w : Weave) : Bool :=
  w.paths.all (fun p => match p with
    | some q => !q.waitsShutter
    | none => true)

theorem inTurn_of {e : Env} (h : noneWaitsShutter e.w = true) : InTurn e := by
  intro i q _ hq hw
  have hm : some q ∈ e.w.paths := by
    unfold Weave.path? at hq
    cases hx : e.w.paths[i]? with
    | none => simp [hx] at hq
    | some p => simp [hx] at hq; subst hq; exact List.mem_of_getElem? hx
  have := List.all_eq_true.mp h _ hm
  simp [hw] at this

/-- The weave holds core 0's array, in a state; or another weave holds it; or last held it. -/
def shutterLab (st : ShutterState) (who : Option WeaveId := some labWeave.id) (last : Option WeaveId := none) : State :=
  memLab.setShutter 0 { Shutter.reset with state := st, owner := { holder := who, last } }

theorem witness_shutter_setup :
    (∀ s ∈ [shutterLab .free none, shutterLab .free none (some labWeave.id), shutterLab .ready, shutterLab .ready (some { labWeave.id with inst := 9 })], ∀ tw ∈ [0x105, 0x310],
      Issuing (.shwin (word 0x201 tw 0)) .shutter s (envAt (.shwin (word 0x201 tw 0)) s) ∧ InTurn (envAt (.shwin (word 0x201 tw 0)) s))
    ∧ (envAt (.shwin (word 0x201 0x105 0)) (shutterLab .free none)).scalar (.sreg 5) = 0
    ∧ (∀ i ∈ [Instr.shload (word 0 0x105 0), .shinj (word 0 0x105 0), .shinjV (word 0 2 0 0 1), .shreset (word 0 0 0), .shreset (word 0 0 0 0 1)],
      Issuing i .shutter (shutterLab .ready) (envAt i (shutterLab .ready)) ∧ InTurn (envAt i (shutterLab .ready)) ∧ HoldsArray (shutterLab .ready) (envAt i (shutterLab .ready))
        ∧ PlainSpad (envAt i (shutterLab .ready)).w ∧ (envAt i (shutterLab .ready)).w.spadStores.isEmpty = true ∧ (envAt i (shutterLab .ready)).w.spadBytes = 8192)
    ∧ (envAt (.shload (word 0 0x105 0)) (shutterLab .ready)).shutterOffset = 0 ∧ (envAt (.shinj (word 0 0x105 0)) (shutterLab .ready)).shutterOffset = 0 := by
  have h : ∀ s ∈ [shutterLab .free none, shutterLab .free none (some labWeave.id), shutterLab .ready, shutterLab .ready (some { labWeave.id with inst := 9 })], ∀ tw ∈ [0x105, 0x310],
      issues (.shwin (word 0x201 tw 0)) .shutter s = true ∧ noneWaitsShutter (envAt (.shwin (word 0x201 tw 0)) s).w = true := by decide +kernel
  have h2 : ∀ i ∈ [Instr.shload (word 0 0x105 0), .shinj (word 0 0x105 0), .shinjV (word 0 2 0 0 1), .shreset (word 0 0 0), .shreset (word 0 0 0 0 1)],
      issues i .shutter (shutterLab .ready) = true ∧ noneWaitsShutter (envAt i (shutterLab .ready)).w = true
      ∧ (((shutterLab .ready).shutter (envAt i (shutterLab .ready)).a.core).owner.holder = some (envAt i (shutterLab .ready)).w.id
        ∧ ((shutterLab .ready).shutter (envAt i (shutterLab .ready)).a.core).state ≠ .racing)
      ∧ ((envAt i (shutterLab .ready)).w.windows.all (fun r => !bitAt r.toNat 97) && (envAt i (shutterLab .ready)).w.engineWrites.isEmpty) = true
      ∧ (envAt i (shutterLab .ready)).w.spadStores.isEmpty = true ∧ (envAt i (shutterLab .ready)).w.spadBytes = 8192 := by decide +kernel
  refine ⟨fun s hs tw ht => ⟨issuing_of_issues (h s hs tw ht).1, inTurn_of (h s hs tw ht).2⟩, by decide +kernel,
    fun i hi => ⟨issuing_of_issues (h2 i hi).1, inTurn_of (h2 i hi).2.1, (h2 i hi).2.2.1, plainSpad_of (h2 i hi).2.2.2.1, (h2 i hi).2.2.2.2⟩, ?_, ?_⟩ <;> decide +kernel

/-- The forms of a weave that does not hold the array. -/
theorem witness_array_not_held :
    (∀ i ∈ [Instr.shload (word 0 0x105 0), .shinj (word 0 0x105 0), .shinjV (word 0 2 0 0 1), .shlaunch (word 0 0 0), .shcap (word 2 0x303 0x105), .shreset (word 0 0 0)],
      Issuing i .shutter (shutterLab .free none) (envAt i (shutterLab .free none)) ∧ InTurn (envAt i (shutterLab .free none)))
    ∧ ((shutterLab .free none).shutter 0).owner.holder = none := by
  have h : ∀ i ∈ [Instr.shload (word 0 0x105 0), .shinj (word 0 0x105 0), .shinjV (word 0 2 0 0 1), .shlaunch (word 0 0 0), .shcap (word 2 0x303 0x105), .shreset (word 0 0 0)],
      issues i .shutter (shutterLab .free none) = true ∧ noneWaitsShutter (envAt i (shutterLab .free none)).w = true := by decide +kernel
  exact ⟨fun i hi => ⟨issuing_of_issues (h i hi).1, inTurn_of (h i hi).2⟩, by decide +kernel⟩

/-- In the array after reset, every input disabled, no cell rises. -/
theorem witness_race_times : RaceTimes Shutter.reset (fun _ _ => 255) := by
  intro i j hi hj
  have hw : Shutter.reset.words[64 * i + j]? = none := rfl
  simp [hw, bitAt]

theorem witness_shutter_race :
    (∀ st ∈ [ShutterState.ready, .risen], Issuing (.shlaunch (word 0 0 0)) .shutter (shutterLab st) (envAt (.shlaunch (word 0 0 0)) (shutterLab st))
      ∧ InTurn (envAt (.shlaunch (word 0 0 0)) (shutterLab st)) ∧ ((shutterLab st).shutter 0).owner.holder = some (envAt (.shlaunch (word 0 0 0)) (shutterLab st)).w.id)
    ∧ ((shutterLab .racing).core 0).frozen = false ∧ ((shutterLab .racing).shutter 0).state = .racing
    ∧ (∀ m ∈ [0, 1, 2, 3], Issuing (.shcap (word 2 0x303 0x105 0 m)) .shutter (shutterLab .risen) (envAt (.shcap (word 2 0x303 0x105 0 m)) (shutterLab .risen))
      ∧ InTurn (envAt (.shcap (word 2 0x303 0x105 0 m)) (shutterLab .risen)) ∧ HoldsArray (shutterLab .risen) (envAt (.shcap (word 2 0x303 0x105 0 m)) (shutterLab .risen))
      ∧ (envAt (.shcap (word 2 0x303 0x105 0 m)) (shutterLab .risen)).scalar (.small 3) = 3
      ∧ (envAt (.shcap (word 2 0x303 0x105 0 m)) (shutterLab .risen)).scalar (.sreg 5) = 0) := by
  have h : ∀ st ∈ [ShutterState.ready, .risen], issues (.shlaunch (word 0 0 0)) .shutter (shutterLab st) = true ∧ noneWaitsShutter (envAt (.shlaunch (word 0 0 0)) (shutterLab st)).w = true
      ∧ ((shutterLab st).shutter 0).owner.holder = some (envAt (.shlaunch (word 0 0 0)) (shutterLab st)).w.id := by decide +kernel
  have h2 : ∀ m ∈ [0, 1, 2, 3], issues (.shcap (word 2 0x303 0x105 0 m)) .shutter (shutterLab .risen) = true
      ∧ noneWaitsShutter (envAt (.shcap (word 2 0x303 0x105 0 m)) (shutterLab .risen)).w = true
      ∧ (((shutterLab .risen).shutter (envAt (.shcap (word 2 0x303 0x105 0 m)) (shutterLab .risen)).a.core).owner.holder
          = some (envAt (.shcap (word 2 0x303 0x105 0 m)) (shutterLab .risen)).w.id
        ∧ ((shutterLab .risen).shutter (envAt (.shcap (word 2 0x303 0x105 0 m)) (shutterLab .risen)).a.core).state ≠ .racing)
      ∧ (envAt (.shcap (word 2 0x303 0x105 0 m)) (shutterLab .risen)).scalar (.small 3) = 3
      ∧ (envAt (.shcap (word 2 0x303 0x105 0 m)) (shutterLab .risen)).scalar (.sreg 5) = 0 := by decide +kernel
  refine ⟨fun st hs => ⟨issuing_of_issues (h st hs).1, inTurn_of (h st hs).2.1, (h st hs).2.2⟩, by decide +kernel, by decide +kernel,
    fun m hm => ⟨issuing_of_issues (h2 m hm).1, inTurn_of (h2 m hm).2.1, (h2 m hm).2.2⟩⟩

/-! ### The KV array -/

/-- A KV array of one sequence, head and page of 128 positions: descriptor at 0x20000 (s4), map at 0x20400, codebooks at 0x21000; s5 is 0x30000, a
code page in frame 10. `flaw` sets a reserved bit of the descriptor, `sealed` the page's SEALED bit. -/
def kvDesc : Nat := 0x20400 + 0 * 2 ^ 113 + 1 * 2 ^ 120 + 1 * 2 ^ 144 + 1 * 2 ^ 160 + 0x21000 * 2 ^ 176

def kvLab (s5 : Nat) (flaw sealed_ : Bool := false) : State :=
  let s := labWith (memWeave.writeScalar 5 (BitVec.ofNat 64 s5))
  let s := (s.writeHomeNat 0x80000 64 (kvDesc + (if flaw then 2 ^ 72 else 0))).writeHomeNat (0xA0000 + trailerAt) 8 (if sealed_ then 2 ^ 32 else 0)
  { s with frames := Table.set s.frames 10 { shared := false, free := false, owner := 0 } }.modifyCore 0 (fun k => { k with tlb := k.tlb ++ [held 3 10 false] })

def kvldWord : Fields := word 2 0x104 0 (immW 3 (1 * 2 ^ 10))
def vqscoreWord : Fields := word 2 0x104 0 (immW 3 (1 * 2 ^ 10))

def kvReads (e : Env) (miss : Nat) (read : Nat → State → KvLane → Nat → Got Nat) : Bool :=
  match Got.okPair (e.readRangeNat e.s false 0x20000 64) with
  | some (u, d) =>
    !kvDescBad d && kvGroups d == 1 && u.weave? e.a.core e.a.slot == some e.w &&
    match Got.okPair (e.kvLanes u (e.scalar e.f.yOp) d false) with
    | some (u1, ls, fs) =>
      fs.isEmpty && match Got.okPair (e.kvData u1 miss (read d) ls) with
        | some (u2, rs, gs) => gs.isEmpty && u2.weave? e.a.core e.a.slot == some e.w && decide (rs.map (fun r => r.lane)).Nodup && rs.all (fun r => decide (r.value < 2 ^ 32))
        | none => false
    | none => false
  | none => false

theorem reads_of_kvReads {e : Env} {miss : Nat} {read : Nat → State → KvLane → Nat → Got Nat} (h : kvReads e miss read = true) :
    ∃ d u ls u1 rs u2, e.readRangeNat e.s false 0x20000 64 = .ok u d ∧ kvDescBad d = false ∧ kvGroups d = 1 ∧ u.weave? e.a.core e.a.slot = some e.w
      ∧ e.kvLanes u (e.scalar e.f.yOp) d false = .ok u1 (ls, []) ∧ e.kvData u1 miss (read d) ls = .ok u2 (rs, [])
      ∧ u2.weave? e.a.core e.a.slot = some e.w ∧ (rs.map (fun r => r.lane)).Nodup ∧ ∀ r ∈ rs, r.value < 2 ^ 32 := by
  unfold kvReads at h
  split at h
  · next u d h1 =>
    rw [Bool.and_eq_true] at h
    obtain ⟨h, h'⟩ := h
    simp only [Bool.and_eq_true, Bool.not_eq_true', beq_iff_eq] at h
    split at h'
    · next u1 ls fs h2 =>
      rw [Bool.and_eq_true, List.isEmpty_iff] at h'
      obtain ⟨hf, h'⟩ := h'
      split at h'
      · next u2 rs gs h3 =>
        simp only [Bool.and_eq_true, List.isEmpty_iff, beq_iff_eq, decide_eq_true_eq, List.all_eq_true] at h'
        rw [hf] at h2
        rw [h'.1.1.1] at h3
        exact ⟨d, u, ls, u1, rs, u2, ok_of_okPair h1, h.1.1, h.1.2, h.2, ok_of_okPair h2, ok_of_okPair h3, h'.1.1.2, h'.1.2, h'.2⟩
      · simp at h'
    · simp at h'
  · simp at h

/-- KVLD and VQSCORE of an array whose one entry is not VALID; KVLD of a descriptor with a reserved bit set. -/
theorem witness_kv_reads :
    (Issuing (.kvld kvldWord) .kv (kvLab 0) (envAt (.kvld kvldWord) (kvLab 0))
      ∧ kvReads (envAt (.kvld kvldWord) (kvLab 0)) 0 (envAt (.kvld kvldWord) (kvLab 0)).kvCodes = true
      ∧ (envAt (.kvld kvldWord) (kvLab 0)).scalar (.sreg 4) = 0x20000 ∧ bitAt kvldWord.modN 1 = false)
    ∧ (Issuing (.vqscore vqscoreWord) .kv (kvLab 0) (envAt (.vqscore vqscoreWord) (kvLab 0))
      ∧ kvReads (envAt (.vqscore vqscoreWord) (kvLab 0)) 0xFF800000 (fun d => (envAt (.vqscore vqscoreWord) (kvLab 0)).vqRead 0 (kvGroups d)) = true
      ∧ PlainSpad (envAt (.vqscore vqscoreWord) (kvLab 0)).w ∧ aregBase ((envAt (.vqscore vqscoreWord) (kvLab 0)).areg 0) = 0
      ∧ 1024 ≤ (envAt (.vqscore vqscoreWord) (kvLab 0)).w.spadBytes)
    ∧ entryValid 0 = false
    ∧ Issuing (.kvld kvldWord) .kv (kvLab 0 true) (envAt (.kvld kvldWord) (kvLab 0 true))
      ∧ (match Got.okPair ((envAt (.kvld kvldWord) (kvLab 0 true)).readRangeNat (envAt (.kvld kvldWord) (kvLab 0 true)).s false 0x20000 64) with
        | some (_, d) => kvDescBad d
        | none => false) = true := by
  refine ⟨⟨issuing_of_issues (by decide +kernel), ?_, ?_, ?_⟩, ⟨issuing_of_issues (by decide +kernel), ?_, plainSpad_of (by decide +kernel), ?_, ?_⟩, ?_,
    issuing_of_issues (by decide +kernel), ?_⟩ <;> decide +kernel

/-- What the statement on KVAPP asks of the page, its trailer and its codebook. -/
def kvAppReads (e : Env) (isSealed : Bool) : Bool :=
  match Got.okPair (e.readRangeNat e.s false 0x20000 64) with
  | some (u, d) =>
    !kvDescBad d && !e.awaitsRemote &&
    match Got.okPair (e.reach u e.kvSecond needBoth) with
    | some (v, .phys pa) =>
      let home := v.bringHome e.a.core (pa + trailerAt) 64
      let trl := home.readHomeNat (pa + trailerAt) 64
      !pageBad trl && pageGm1 trl + 1 == kvGroups d && pageSealed trl == isSealed && decide (pageFill trl < 128) && (ue8m8 (pageScale trl)).isSome &&
      match Got.okPair (e.readRange home false (kvCbtab d + 4096 * pageBook trl) 4096) with
      | some (r, b) => r.weave? e.a.core e.a.slot == some e.w && (codebook b).any (fun row => row.all (fun x => (x.atScale 0).isSome))
          && !(e.channels e.f.zOp (8 * kvGroups d) ++ e.channels e.f.wOp (8 * kvGroups d)).any FVal.isNan
      | none => false
    | _ => false
  | none => false

def kvappWord (sealing : Nat) : Fields := word 0x201 0x104 0 (immW 1) sealing
def vqlutWord : Fields := word 0x210 0 0x106

/-- KVAPP without and with SEAL, to a page open and sealed; VQLUT of one group from the codebook at 0x21000 (s6). -/
theorem witness_kv_writes :
    (∀ m ∈ [0, 1], ∀ x ∈ [false, true],
      Issuing (.kvapp (kvappWord m)) .kv (kvLab 0x30000 false x) (envAt (.kvapp (kvappWord m)) (kvLab 0x30000 false x))
        ∧ (∀ t o, TagOk (envAt (.kvapp (kvappWord m)) (kvLab 0x30000 false x)).w t o)
        ∧ kvAppReads (envAt (.kvapp (kvappWord m)) (kvLab 0x30000 false x)) x = true
        ∧ (envAt (.kvapp (kvappWord m)) (kvLab 0x30000 false x)).kvSecond % 65536 = 0)
    ∧ (let s := labWith (memWeave.writeScalar 6 0x21000)
       let e := envAt (.vqlut vqlutWord) s
       Issuing (.vqlut vqlutWord) .kv s e ∧ (∀ t o, TagOk e.w t o) ∧ vqlutWord.xOp = .areg 0 ∧ e.scalar (.sreg 6) % 4096 = 0 ∧ aregBase (e.areg 0) = 0
        ∧ 1024 ≤ e.w.spadBytes ∧ PlainSpad e.w
        ∧ (match Got.okPair (e.readRange e.s false (e.scalar (.sreg 6)) 4096) with
          | some (u, _) => u.weave? e.a.core e.a.slot == some e.w
          | none => false) = true) := by
  have h : ∀ m ∈ [0, 1], ∀ x ∈ [false, true], issues (.kvapp (kvappWord m)) .kv (kvLab 0x30000 false x) = true
      ∧ (envAt (.kvapp (kvappWord m)) (kvLab 0x30000 false x)).w.tags = List.replicate 16 .untyped
      ∧ kvAppReads (envAt (.kvapp (kvappWord m)) (kvLab 0x30000 false x)) x = true
      ∧ (envAt (.kvapp (kvappWord m)) (kvLab 0x30000 false x)).kvSecond % 65536 = 0 := by decide +kernel
  refine ⟨fun m hm x hx => ⟨issuing_of_issues (h m hm x hx).1, tagOk_of_tags (h m hm x hx).2.1, (h m hm x hx).2.2⟩,
    issuing_of_issues (by decide +kernel), tagOk_of_tags (n := 16) (by decide +kernel), by decide +kernel, by decide +kernel, by decide +kernel,
    by decide +kernel, plainSpad_of (by decide +kernel), by decide +kernel⟩

/-! ### Hypotheses of the statements on continuations -/

/-- Queue 3 takes pushes of context 0 into a ring of 16 at 0x90000. -/
def spawnLab : State :=
  let s := kvLab 0x30000
  { s with mem := [] }.setBlock (queueBlock 3) (2 ^ 5 + 4 * 2 ^ 403 + 0x90 * 2 ^ 408 + 2 ^ 448)

def spawnWord : Fields := word 0x303 0x104 0xFF

/-- What the statement asks of SPAWN: the record at 0x30000 has JOIN at 0xA0028; the child at 0x20000 lies at 0x80000. -/
def spawnReads (e : Env) : Bool :=
  let home := ((e.s.release e.a.core scopeMd).bringHome e.a.core 0xA0028 4).touch 0xA0028
  let joined := e.stepMade (home.atomicAt e.a.core scopeMd 0xA0028 4 (fun b => toBytes 4 (ofBytes b + 1))).1 0
  let found := fun (va : Nat) (n : Need) (pa : Nat) =>
    match Got.okPair (e.reach e.s va n) with
    | some (u, p) => u == e.s && p == .phys pa
    | none => false
  mayPush e.s e.w.id.ctx 3 && decide (queueFill e.s 3 < queueCap e.s 3) && queueEntryPa e.s 3 (queueTail e.s 3) == 0x90000
    && found (e.w.id.record + 40) needBoth 0xA0028 && found 0x20000 needBoth 0x80000
    && !e.awaitsRemote && e.p.fetched.all (fun x => x.1 != stepKey 0) && home.readHomeNat 0xA0028 4 == 0
    && match Got.okPair (e.readRangeNat joined false 0x20000 64) with
      | some (u, _) => u.weave? e.a.core e.a.slot == joined.weave? e.a.core e.a.slot && u.mem == joined.mem && u.blocks == e.s.blocks
      | none => false

/-- A SPAWN whose child's parent is its own JOIN, and one that names the counter at 0x20000. -/
theorem witness_spawn :
    (∀ i ∈ [Instr.spawn spawnWord, .spawn (word 0x303 0x104 0x104)], Issuing i .none spawnLab (envAt i spawnLab)
      ∧ spawnReads (envAt i spawnLab) = true ∧ (envAt i spawnLab).scalar (.small 3) = 3 ∧ (envAt i spawnLab).scalar (.sreg 4) = 0x20000)
    ∧ (0xA0028 + 4 ≤ 0x90000 ∨ 0x90000 + 16 ≤ 0xA0028) ∧ (0xA0028 + 4 ≤ 0x80000 ∨ 0x80000 + 64 ≤ 0xA0028) ∧ (0x80000 + 64 ≤ 0x90000 ∨ 0x90000 + 16 ≤ 0x80000)
    ∧ spawnWord.zOp = .vz ∧ (word 0x303 0x104 0x104).zOp = .sreg 4 ∧ spawnWord.xOp = .small 3 := by
  have h : ∀ i ∈ [Instr.spawn spawnWord, .spawn (word 0x303 0x104 0x104)], issues i .none spawnLab = true
      ∧ spawnReads (envAt i spawnLab) = true ∧ (envAt i spawnLab).scalar (.small 3) = 3 ∧ (envAt i spawnLab).scalar (.sreg 4) = 0x20000 := by
    decide +kernel
  refine ⟨fun i hi => ⟨issuing_of_issues (h i hi).1, (h i hi).2⟩, ?_, ?_, ?_, ?_, ?_, ?_⟩ <;> decide +kernel

/-- WAKE of the word at 0x20000; ROLE 2 and ROLE 5 from a register. -/
theorem witness_wake_and_role :
    Issuing (.wake (word 0 0x104 0x305)) .none memLab (envAt (.wake (word 0 0x104 0x305)) memLab)
    ∧ (envAt (.wake (word 0 0x104 0x305)) memLab).awaitsRemote = false
    ∧ (match Got.okPair ((envAt (.wake (word 0 0x104 0x305)) memLab).reach (envAt (.wake (word 0 0x104 0x305)) memLab).s 0x20000 needWrite) with
      | some (u, p) => u == (envAt (.wake (word 0 0x104 0x305)) memLab).s && p == .phys 0x80000
      | none => false) = true
    ∧ (envAt (.wake (word 0 0x104 0x305)) memLab).scalar (.sreg 4) = 0x20000
    ∧ (∀ n ∈ [2, 5], Issuing (.role (word 0 0x105 0)) .none (labS [(5, n)]) (envAt (.role (word 0 0x105 0)) (labS [(5, n)]))
      ∧ (envAt (.role (word 0 0x105 0)) (labS [(5, n)])).scalar (.sreg 5) = n) := by
  have h : ∀ n ∈ [2, 5], issues (.role (word 0 0x105 0)) .none (labS [(5, n)]) = true ∧ (envAt (.role (word 0 0x105 0)) (labS [(5, n)])).scalar (.sreg 5) = n := by
    decide +kernel
  refine ⟨issuing_of_issues (by decide +kernel), by decide +kernel, by decide +kernel, by decide +kernel, fun n hn => ⟨issuing_of_issues (h n hn).1, (h n hn).2⟩⟩

/-- A park record at 0x20000 that waits for the word at 0x20080 to leave EXPECT, in a weave of one or two paths. -/
def parkLab (expect : Nat) (two : Bool := false) : State :=
  (labWith (if two then memWeave.putPath 1 (some (Path.start 0x20000 0xF)) else memWeave)).writeHomeNat 0x80000 64 (0x20080 + expect * 2 ^ 72)

def parkWord : Fields := word 0x201 0x104 0

def parkReads (e : Env) (expect : Nat) : Bool :=
  match Got.okPair (e.readRangeNat e.s false (e.scalar e.f.yOp) 64) with
  | some (u, r) =>
    e.scalar e.f.yOp % 64 == 0 && bits r 511 299 == 0 && decide (parkNr r ≤ 16) && decide (parkWreg r < e.w.scount) && parkRanges r % 16 == 0
    && parkWake r % 8 == 0 && parkExpect r == expect
    && match Got.okPair (e.readRange u false (parkRanges r) (16 * parkNr r)) with
      | some (v, b) =>
        let rs := (List.range (parkNr r)).map (fun i => ofBytes ((b.drop (16 * i)).take 16))
        !rs.any rangeBad && decide (parkP r ≤ rs.foldl (fun n x => n + rangeCount x) 0)
        && match Got.okPair (e.reach v (parkWake r) needRead) with
          | some (x, .phys pa) => x.weave? e.a.core e.a.slot == some e.w && x.readHomeNat pa 8 == 0
          | _ => false
      | none => false
  | none => false

theorem witness_park :
    ∀ x ∈ [(0, false), (7, false), (0, true)], Issuing (.park parkWord) .none (parkLab x.1 x.2) (envAt (.park parkWord) (parkLab x.1 x.2))
      ∧ parkReads (envAt (.park parkWord) (parkLab x.1 x.2)) x.1 = true
      ∧ (envAt (.park parkWord) (parkLab x.1 x.2)).w.livePaths = (if x.2 then [0, 1] else [0]) := by
  have h : ∀ x ∈ [(0, false), (7, false), (0, true)], issues (.park parkWord) .none (parkLab x.1 x.2) = true
      ∧ parkReads (envAt (.park parkWord) (parkLab x.1 x.2)) x.1 = true
      ∧ (envAt (.park parkWord) (parkLab x.1 x.2)).w.livePaths = (if x.2 then [0, 1] else [0]) := by decide +kernel
  exact fun x hx => ⟨issuing_of_issues (h x hx).1, (h x hx).2⟩

/-! ### Hypotheses of the statements on a hinge core -/

/-- Core 0's hinge core with s4 set; its weave in slot 0 has parked, and the hinge core serves that stop. -/
def parked (w : Weave) : Weave :=
  w.modifyPath 0 (fun q => { q with cond := .parked { cause := cause 31 0, detail := 0, token := 0, resumesNext := false, next := 0x1000C } })

def servedStop : Stop :=
  { slot := 0, path := 0, weave := labWeave.id, cause := cause 31 0, detail := 0, token := 0, lgrp := 0, lanes := 1, whole := true, pf := false, pc := 0x10000 }

def hingeLab (s4 : Nat) (stops : List Stop := []) (serving : Bool := true) : State :=
  let s := { labWith (parked labWeave) with cur := { core := 0, slot := hingeSlot, path := 0 } }
  s.modifyCore 0 (fun k => { k with
    slots := Table.set k.slots hingeSlot (Weave.hinge.writeScalar 4 (BitVec.ofNat 64 s4)), stops
    hinge := { k.hinge with serving := if serving then some servedStop else none, hstatus := 4 } })

theorem witness_csrs :
    (∀ i ∈ [Instr.csrr (word 0x105 0 0 0x001), .csrr (word 0x105 0 0 0x3FF), .csrw (word 0 0x104 0 0x001), .csrw (word 0 0x104 0 0x001 1), .csrw (word 0 0x104 0 0x001 2),
      .csrw (word 0 0x104 0 0), .csrw (word 0 0x104 0 2), .csrw (word 0 0x104 0 3), .csrw (word 0 0x104 0 7), .csrw (word 0 0x104 0 12), .csrw (word 0 0x104 0 13),
      .csrw (word 0 0x104 0 0x20), .csrw (word 0 0x104 0 0x27), .csrw (word 0 0x104 0 0x32), .csrw (word 0 0x104 0 0x3FF)],
      Issuing i .none (hingeLab 5) (envAt i (hingeLab 5)))
    ∧ ((hingeLab 5).core 0).readCsr 0x001 = some 0 ∧ ((hingeLab 5).core 0).readCsr 0x3FF = none
    ∧ (∀ n ∈ [0, 2, 3, 7, 12, 13, 0x20, 0x27, 0x32], (((hingeLab 5).core 0).readCsr n).isSome = true) ∧ (word 0x105 0 0 0x001).xOp = .sreg 5 := by
  refine ⟨issuing_all (by decide +kernel), ?_, ?_, ?_, ?_⟩ <;> decide +kernel

/-- The hinge core serves a stop of its own; and none. -/
def ownStopLab (own : Bool) : State :=
  (hingeLab 5).modifyCore 0 (fun k => { k with hinge := { k.hinge with serving := if own then some { servedStop with slot := hingeSlot } else none } })

theorem witness_own_stops :
    ∀ b ∈ [true, false], Issuing (.eretSkip (word 0 0 0 0 1)) .none (ownStopLab b) (envAt (.eretSkip (word 0 0 0 0 1)) (ownStopLab b))
      ∧ ((ownStopLab b).core 0).hinge.serving.map (fun x => x.slot) = (if b then some hingeSlot else none) := by
  have h : ∀ b ∈ [true, false], issues (.eretSkip (word 0 0 0 0 1)) .none (ownStopLab b) = true
      ∧ ((ownStopLab b).core 0).hinge.serving.map (fun x => x.slot) = (if b then some hingeSlot else none) := by decide +kernel
  exact fun b hb => ⟨issuing_of_issues (h b hb).1, (h b hb).2⟩

theorem witness_returns :
    (∀ i ∈ [Instr.eretReplay (word 0 0 0 0 0), .eretSkip (word 0 0 0 0 1), .eretKill (word 0 0 0 0 2), .eretEnd (word 0 0 0 0 3)], Issuing i .none (hingeLab 5) (envAt i (hingeLab 5)))
    ∧ ((hingeLab 5).core 0).hinge.serving = some servedStop ∧ servedStop.slot ≠ hingeSlot ∧ ((hingeLab 5).weave? 0 0).map Weave.id = some servedStop.weave
    ∧ ((((hingeLab 5).weave? 0 0).bind (fun w => w.path? 0)).map (fun (q : Path) => q.cond))
      = some (.parked { cause := cause 31 0, detail := 0, token := 0, resumesNext := false, next := 0x1000C }) := by
  refine ⟨issuing_all (by decide +kernel), ?_, ?_, ?_, ?_⟩ <;> decide +kernel

/-- The invalidations, with s4 = 0x10000 and a count of 1; and with a count of 0 (s5). -/
theorem witness_invalidations :
    (∀ i ∈ [Instr.tlbinvVa (word 0x105 0x104 0x301 0 0), .tlbinvVa (word 0x105 0x104 0x105 0 0), .tlbinvCtx (word 0x105 0 0 0 1), .tlbinvAll (word 0 0 0 0 2), .icinvVa (word 0x105 0x104 0x301 0 0), .icinvVa (word 0x105 0x104 0x105 0 0),
      .icinvCtx (word 0x105 0 0 0 1), .icinvAll (word 0 0 0 0 2)], Issuing i .none (hingeLab 0x10000) (envAt i (hingeLab 0x10000)))
    ∧ (envAt (.tlbinvVa (word 0x105 0x104 0x301 0 0)) (hingeLab 0x10000)).scalar (.sreg 4) = 0x10000
    ∧ (envAt (.tlbinvVa (word 0x105 0x104 0x301 0 0)) (hingeLab 0x10000)).scalar (.small 1) = 1
    ∧ (envAt (.tlbinvVa (word 0x105 0x104 0x105 0 0)) (hingeLab 0x10000)).scalar (.sreg 5) = 0
    ∧ (envAt (.icinvVa (word 0x105 0x104 0x105 0 0)) (hingeLab 0x10000)).scalar (.sreg 5) = 0 := by
  refine ⟨issuing_all (by decide +kernel), ?_, ?_, ?_, ?_⟩ <;> decide +kernel

/-- A selector of slot `slot`, path 0. -/
def selector (slot cls item lane : Nat) : Nat := slot + lane * 2 ^ 14 + cls * 2 ^ 24 + item * 2 ^ 32

/-- A path that runs, named by a hinge core's selector. -/
def runningLab : State := (hingeLab (selector 0 1 5 0)).setWeave 0 0 labWeave

/-- DBGRD of s5, of lane 3 of v2 and of the PC of the parked path, DBGWR of s5, DBGRD of an empty slot; HALT with and without a stop waiting. -/
theorem witness_debug_window :
    (∀ x ∈ [(selector 0 1 5 0, 1, 5, 0), (selector 0 0 2 3, 0, 2, 3), (selector 0 8 0 0, 8, 0, 0)],
      Issuing (.dbgrd (word 0x105 0x104 0)) .none (hingeLab x.1) (envAt (.dbgrd (word 0x105 0x104 0)) (hingeLab x.1))
        ∧ Issuing (.dbgwr (word 0 0x104 0x305)) .none (hingeLab x.1) (envAt (.dbgwr (word 0 0x104 0x305)) (hingeLab x.1))
        ∧ (bitAt x.1 63 = false ∧ bits x.1 62 48 = 0 ∧ bits x.1 10 6 = 0 ∧ selClass x.1 = x.2.1 ∧ selItem x.1 = x.2.2.1 ∧ selLane x.1 = x.2.2.2
          ∧ (envAt (.dbgrd (word 0x105 0x104 0)) (hingeLab x.1)).scalar (.sreg 4) = x.1
          ∧ (envAt (.dbgwr (word 0 0x104 0x305)) (hingeLab x.1)).scalar (.sreg 4) = x.1)
        ∧ ((hingeLab x.1).weave? 0 (selSlot x.1)) = some (parked labWeave) ∧ ((parked labWeave).path? (selPath x.1)).map (fun (q : Path) => q.cond.isStopped) = some true)
    ∧ (parked labWeave).ops.isEmpty = true ∧ 5 < (parked labWeave).sregs.length
    ∧ Issuing (.dbgrd (word 0x105 0x104 0)) .none (hingeLab (selector 7 1 5 0)) (envAt (.dbgrd (word 0x105 0x104 0)) (hingeLab (selector 7 1 5 0)))
    ∧ Issuing (.dbgwr (word 0 0x104 0x305)) .none (hingeLab (selector 7 1 5 0)) (envAt (.dbgwr (word 0 0x104 0x305)) (hingeLab (selector 7 1 5 0)))
    ∧ (∀ i ∈ [Instr.dbgrd (word 0x105 0x104 0), .dbgwr (word 0 0x104 0x305)], Issuing i .none runningLab (envAt i runningLab))
    ∧ runningLab.weave? 0 (selSlot (selector 0 1 5 0)) = some labWeave ∧ (labWeave.path? (selPath (selector 0 1 5 0))).map (fun (q : Path) => q.cond.isStopped) = some false
    ∧ (hingeLab (selector 7 1 5 0)).weave? 0 (selSlot (selector 7 1 5 0)) = none
    ∧ (∀ l ∈ [[], [servedStop]], Issuing (.halt (word 0 0 0)) .none (hingeLab 0 l) (envAt (.halt (word 0 0 0)) (hingeLab 0 l)) ∧ ((hingeLab 0 l).core 0).stops = l
      ∧ ((hingeLab 0 l).core 0).hinge.icause = 0) := by
  have h : ∀ x ∈ [(selector 0 1 5 0, 1, 5, 0), (selector 0 0 2 3, 0, 2, 3), (selector 0 8 0 0, 8, 0, 0)],
      issues (.dbgrd (word 0x105 0x104 0)) .none (hingeLab x.1) = true ∧ issues (.dbgwr (word 0 0x104 0x305)) .none (hingeLab x.1) = true
        ∧ (bitAt x.1 63 = false ∧ bits x.1 62 48 = 0 ∧ bits x.1 10 6 = 0 ∧ selClass x.1 = x.2.1 ∧ selItem x.1 = x.2.2.1 ∧ selLane x.1 = x.2.2.2
          ∧ (envAt (.dbgrd (word 0x105 0x104 0)) (hingeLab x.1)).scalar (.sreg 4) = x.1
          ∧ (envAt (.dbgwr (word 0 0x104 0x305)) (hingeLab x.1)).scalar (.sreg 4) = x.1)
        ∧ ((hingeLab x.1).weave? 0 (selSlot x.1)) = some (parked labWeave)
        ∧ ((parked labWeave).path? (selPath x.1)).map (fun (q : Path) => q.cond.isStopped) = some true := by decide +kernel
  have h2 : ∀ l ∈ [[], [servedStop]], issues (.halt (word 0 0 0)) .none (hingeLab 0 l) = true ∧ ((hingeLab 0 l).core 0).stops = l
      ∧ ((hingeLab 0 l).core 0).hinge.icause = 0 := by decide +kernel
  refine ⟨fun x hx => ⟨issuing_of_issues (h x hx).1, issuing_of_issues (h x hx).2.1, (h x hx).2.2⟩, by decide +kernel, by decide +kernel,
    issuing_of_issues (by decide +kernel), issuing_of_issues (by decide +kernel), issuing_all (by decide +kernel), by decide +kernel, by decide +kernel, by decide +kernel,
    fun l hl => ⟨issuing_of_issues (h2 l hl).1, (h2 l hl).2⟩⟩

/-! ### Hypotheses of the statements on events of paths -/

/-- An operation that owes s5, counted by dc0 and complete at home. -/
def owing : State :=
  labWith { labWeave.modifyPath 0 (fun q => { q with issued := [7], counters := [7] :: List.replicate 5 [] }) with
    ops := [{ id := 7, owner := 0, cls := some .L, kind := .result, writes := [.sreg 5 9] }] }

/-- Two paths that have ARRIVED at RECONV 5 for SPLIT 9. -/
def arrivedWeave : Weave :=
  (labWeave.modifyPath 0 (fun q => { q with mask := 0xF, stack := [.split 5 9], cond := .arrived 5 9 0x1000C })).putPath 1
    (some { Path.start 0x10000 0xFFFFFFF0 with stack := [.split 5 9], cond := .arrived 5 9 0x1000C })

theorem witness_completion_and_merge :
    (owing.core 0).frozen = false ∧ ((owing.weave? 0 0).bind (fun w => w.ops.find? (fun o => o.id == 7))).map (fun (o : Operation) => o.kind) = some .result
    ∧ ((owing.weave? 0 0).map (fun w => owing.requested w 7)) = some false
    ∧ (labWith arrivedWeave).weave? 0 0 = some arrivedWeave ∧ arrivedWeave.arrivals 9 = [0, 1] ∧ arrivedWeave.mayMerge 9 = true
    ∧ (arrivedWeave.path? 0).map (fun (q : Path) => q.cond) = some (.arrived 5 9 0x1000C) ∧ (arrivedWeave.path? 1).isSome = true := by
  and_intros <;> decide +kernel

/-- Path 0 of core 0, slot 0 in a condition. -/
def inCond (c : Cond) : State := labP1 (fun q => { q with cond := c })

theorem witness_timers_of_paths :
    ∀ c ∈ [Cond.ready, .blocked (.sleep 100 0x1000C), .blocked (.stall 3)], ((inCond c).path? (actorOf 0 0 0)).map (fun (q : Path) => q.cond) = some c
      ∧ ((inCond c).weave? 0 0).isSome = true := by decide +kernel

/-- The path waits for a walk of its context to page 3. -/
def walkLab : State := { inCond (.blocked (.stall 3)) with walks := [{ core := 0, ctx := 0, page := 3, since := 5 }] }

theorem witness_walk_waits :
    walkLab.walks.find? (fun x => x.core == 0 && x.ctx == labWeave.id.ctx) = some { core := 0, ctx := 0, page := 3, since := 5 }
    ∧ walkLab.walks.find? (fun x => x.isFor 0 0 0x30008) = some { core := 0, ctx := 0, page := 3, since := 5 }
    ∧ walkLab.tick < 5 + 64 * 2100 ∧ ((walkLab.weave? 0 0).bind (fun w => w.path? 0)).map (fun (q : Path) => q.cond) = some (.blocked (.stall 3)) := by
  and_intros <;> decide +kernel

/-- An engine's fault that waits for path 0; a slice spent; a path that waits to pop from port 3 of an unbound context, alone on its core. -/
def faultedWeave : Weave := { labWeave with matrixFaults := [{ path := 0, cause := cause 11 4, detail := 0 }] }
def popWeave : Weave := labWeave.modifyPath 0 (fun q => { q with cond := .blocked (.qpop 3 2) })
def aloneLab : State := { lab with cores := [(0, { Core.reset with slots := [(0, popWeave)] })] }

theorem witness_stops_by_events :
    (labWith faultedWeave).weave? 0 0 = some faultedWeave ∧ faultedWeave.faultPath { path := 0, cause := cause 11 4, detail := 0 } = some 0
    ∧ faultedWeave.matrixFaults.find? faultedWeave.faultReady = some { path := 0, cause := cause 11 4, detail := 0 }
    ∧ ({ labWeave with slicePending := true } : Weave).livePaths = [0] ∧ (labWith { labWeave with slicePending := true }).weave? 0 0 = some { labWeave with slicePending := true }
    ∧ popWeave.livePaths = [0] ∧ (popWeave.path? 0).map (fun (q : Path) => q.cond) = some (.blocked (.qpop 3 2)) ∧ aloneLab.portEntry 0 3 = 0
    ∧ (queueLab 0 0).portEntry 0 0 = 0x20080 := by
  and_intros <;> decide +kernel

/-! ### Hypotheses of the statements on events of the engines -/

/-- A task of slot 0 with itself into tile 0, alone in the queue; bad when its record names format 7; and one that runs and has no step left. -/
def someTask (af : Nat) : TileTask :=
  { tile := 0, aslot := 0, bslot := 0, n := 1, perm := none, ftz := false, af, bf := af, scaled := false, first := 0, count := 64
    record := some (BitVec.ofNat 256 (64 * 2 ^ 40 + af * 2 ^ 20 + af * 2 ^ 23)) }

def someMatrix (af : Nat) : MatrixOp := { weave := labWeave.id, slot := 0, path := 0, op := 7, pc := 0x10000, work := .task (someTask af) }

def taskLab (af : Nat) : State := (matrixLab 2).modifyCore 0 (fun k =>
  { k with matrix := [someMatrix af], operands := k.operands.map (fun x => (x.1, { x.2 with tag := .f16x2 })) })

def runLab : State := (matrixLab 2).modifyCore 0 (fun k =>
  { k with running := some { mop := someMatrix 0, task := someTask 0, step := 64, cells := [[1, 2], [3]] } })

theorem witness_tile_tasks :
    (∀ af ∈ [0, 7], ((taskLab af).core 0).frozen = false ∧ ((taskLab af).core 0).running = none
      ∧ (((taskLab af).core 0).matrix.find? (fun m => m.work.isTask)).map (fun m => m.op) = some 7 ∧ ((taskLab af).core 0).blocked (someMatrix af) = false
      ∧ ((taskLab af).weave? 0 0).isSome = true)
    ∧ (((taskLab 0).core 0).startFault (taskLab 0).present labWeave.id (someTask 0)).isNone = true ∧ (((taskLab 7).core 0).startFault (taskLab 7).present labWeave.id (someTask 7)).isSome = true
    ∧ (runLab.core 0).taskSteps (someTask 0) (0 + 64 - 64) 64 [[1, 2], [3]] = ([[1, 2], [3]], none) := by
  and_intros <;> decide +kernel

/-- A copy of 16 bytes between scratchpad 0 and the data page, alone in channel 0; a GATHER with one row of 4 bytes, its path held. -/
def copyLab (store : Bool) : State :=
  let g : Side := .global 0x20000 [(0x20, .phys 0x80000)]
  memLab.modifyCore 0 (fun k => { k with channels := [(0, [{ someCopy with slot := 0, len := 16, dst := if store then g else .spad 0, src := if store then .spad 0 else g }])] })

def gatherOp : CopyOp :=
  { someCopy with slot := 0, op := 3, isRows := true, rowSize := 4, untranslated := [{ lane := 0, va := 0x20000, masked := false, places := [] }] }

def gatherLab : State :=
  (labWith (memWeave.modifyPath 0 (fun q => { q with cond := .blocked (.batches 3 0x1000C) }))).modifyCore 0 (fun k => { k with channels := [(0, [gatherOp])] })

theorem witness_copy_events :
    (∀ st ∈ [false, true], ((copyLab st).core 0).frozen = false ∧ ((copyLab st).core 0).channel 0 ≠ [] ∧ (((copyLab st).weave? 0 0).map (fun w => (w.windows.any winValid, w.spadStores.isEmpty))) = some (false, true))
    ∧ Table.find? [(0x20, Place.phys 0x80000)] (0x20000 / 4096) = some (.phys 0x80000)
    ∧ (gatherLab.core 0).channel 0 = [gatherOp] ∧ ((gatherLab.path? (actorOf 0 0 0)).map (fun (q : Path) => q.cond)) = some (.blocked (.batches 3 0x1000C))
    ∧ (match gatherLab.placeRow 0 gatherOp { lane := 0, va := 0x20000, masked := false, places := [] } with
      | (u, some (.ok r)) => u == gatherLab && r == { lane := 0, va := 0x20000, masked := false, places := [(0x20, .phys 0x80000)] }
      | _ => false) = true := by
  and_intros <;> decide +kernel

theorem witness_write_backs :
    ((stashLab 1).core 0).frozen = false ∧ ((stashLab 1).weave? 0 0).bind (fun w => w.sector? 0 0) = some { window := 0, index := 0, written := 1 }
    ∧ ((stashLab 1).weave? 0 0).bind (fun w => w.windows[0]?) = some (BitVec.ofNat 128 (0x20000 + 2 ^ 72 + 2 ^ 97))
    ∧ (stashLab 1).translate 0 0 (winGlobal (BitVec.ofNat 128 (0x20000 + 2 ^ 72 + 2 ^ 97)) + 32 * 0) needWrite = (stashLab 1, .phys 0x80000)
    ∧ (dirtyLab.core 0).frozen = false ∧ (getLine (dirtyLab.core 0).l1 (0x80000 / 128)).dirty = 1 ∧ (getLine (dirtyLab.die (dieOf 0)).l2 (0x80000 / 128)).dirty = 0 := by
  and_intros <;> decide +kernel

/-! ### Hypotheses of the statements on the dispatcher -/

/-- `lab` with tables in memory: context 0 is enabled, its pages 1, 2 and 3 lie in frames 6, 8 and 10. -/
def tableLab (w : Weave) : State :=
  let s := (lab.withFetchWord 96 0).setWeave 0 0 w
  let s := (s.writeHomeNat 0x50010 8 (leafOf 8 false)).writeHomeNat 0x50018 8 (leafOf 10 false)
  { s with frames := (List.map (fun n => (n, { shared := false, free := false, owner := 0 })) [6, 8, 10]) }

/-- A record of 4 instances with CODE 0x10000, 8 vector, 8 scalar and 2 array registers, 32 lanes, and a PARENT. -/
def aRecord (parent done : Nat) : Nat :=
  0x10000 + 0x20040 * 2 ^ 72 + parent * 2 ^ 144 + 3 * 2 ^ 288 + 8 * 2 ^ 364 + 2 * 2 ^ 387 + done * 2 ^ 433

/-- Queue 3 holds that record, at 0x30000. -/
def dispatchLab : State :=
  let s := (tableLab labWeave).setBlock (queueBlock 3) (2 ^ 5 + 4 * 2 ^ 403 + 0x90 * 2 ^ 408 + 2 ^ 448)
  let s := (s.writeHomeNat 0xA0000 64 (aRecord 0 0)).writeHomeNat 0x90000 16 0x30000
  s.setField (queueBlock 3) 351 320 1

def dispatchable (s : State) : Bool :=
  let u := (s.candidates s.enabledQueues).1
  match (s.candidates s.enabledQueues).2.filter Candidate.fits with
  | [x] =>
    match x.head with
    | .record ctx va pa r _ _ =>
      x.queue == 3 && x.place.any (fun y => decide (y.2 < 64)) && ctx == 0 && va == 0x30000 && decide (2 ≤ recSregs r) && u.readHomeNat pa 64 == r && decide (recNext r + 1 < 2 ^ 25)
        && u.field (debugBlock ctx) 1 1 == 0 && x.inst.ctx == 0
    | _ => false
  | _ => false

/-- The three witnesses of the dispatcher: a candidate; a spill and a starving level; an ending weave and a retiring record. -/
theorem witness_dispatch :
    dispatchable dispatchLab = true ∧ dispatchLab.dispatchStopped = false
    ∧ ({ dispatchLab with dispatchStopped := true } : State).dispatchStopped = true
    ∧ (({ lab with spills := [{ ctx := 0, record := 0x30000, inst := 0, die := 1, since := 5 }] } : State).spills.find? (fun x => x.die == 1)).isSome = true
    ∧ Table.find? ({ lab with levelSince := [(2, 9)] } : State).levelSince 2 = some 9
    ∧ queueHostFed dispatchLab 3 = false ∧ queueHostFed (dispatchLab.setField (queueBlock 3) 6 6 1) 3 = true
    ∧ queueFill (dispatchLab.setField (queueBlock 3) 6 6 1) 3 = 1 ∧ queueCap (dispatchLab.setField (queueBlock 3) 6 6 1) 3 = 16 := by
  and_intros <;> decide +kernel

def endingWeave : Weave := { labWeave with ending := true }
def endLab (parent : Nat) : State :=
  let s := ((tableLab endingWeave).writeHomeNat 0xA0000 64 (aRecord parent 0)).writeHomeNat 0x80080 4 5
  { s with live := [{ ctx := 0, record := 0x30000, queue := 3, irq := false, retiring := true, token := 0, core := 0, sent := false }] }

/-- A read by the dispatcher that changes nothing: the leaf is good and its frame is the context's own. -/
theorem agentRead_same {s : State} {die ctx va : Nat} {n : Need} {e pa size : Nat} {sub : Bool}
    (hw : s.walk ctx va = .leaf e pa size sub) (hn : s.walks = [])
    (h : (!(Leaf.of e sub).frameBad sub size && !((Leaf.of e sub).w && (Leaf.of e sub).x) && (Leaf.of e sub).denies n == none && !sub && (Leaf.of e sub).tier == 0
      && !(s.frame (frameKey 0 ((Leaf.of e sub).pa sub size va / 65536))).free && (s.frame (frameKey 0 ((Leaf.of e sub).pa sub size va / 65536))).owner == ctx
      && !(Leaf.of e sub).poison && !(Leaf.of e sub).migr) = true) :
    s.agentRead die ctx va n = (s, .phys ((Leaf.of e sub).pa sub size va)) := by
  simp only [Bool.and_eq_true, Bool.not_eq_true', beq_iff_eq, Bool.and_eq_false_iff] at h
  obtain ⟨⟨⟨⟨⟨⟨⟨⟨h1, h2⟩, h3⟩, h4⟩, h5⟩, h6⟩, h7⟩, h8⟩, h9⟩ := h
  have h2' : ((Leaf.of e sub).w && (Leaf.of e sub).x) = false := by rcases h2 with h | h <;> simp [h]
  subst h4
  have ho : s.walkOver (agentOf die) ctx va = s := by simp [State.walkOver, hn]
  simp [State.agentRead, hw, ho, State.accept, State.claimFrame, h1, h2', h3, h5, h6, h7, h8, h9]

theorem witness_end_and_retirement :
    (∀ p ∈ [0, 0x20080], ((endLab p).weave? 0 0) = some endingWeave ∧ ((endLab p).core 0).frozen = false ∧ endingWeave.ops.isEmpty = true ∧ endingWeave.hoops = []
      ∧ endingWeave.sectors = [] ∧ endingWeave.matrixFaults = [] ∧ endingWeave.writeBackToken = none ∧ ((endLab p).core 0).channels.length = 0 ∧ (endLab p).requests.length = 0
      ∧ ((endLab p).core 0).l1 = [] ∧ ((endLab p).die (dieOf 0)).l2 = [] ∧ (endLab p).recordPa 0 0x30000 = some 0xA0000
      ∧ recDone ((endLab p).readHomeNat 0xA0000 64) = 0 ∧ (endLab p).field (debugBlock 0) 1 1 = 0
      ∧ ((endLab p).live.find? (fun l => l.ctx == 0 && l.record == 0x30000)).map (fun l => (l.retiring, l.token, l.sent)) = some (true, 0, false)
      ∧ recParent ((endLab p).readHomeNat 0xA0000 64) = p)
    ∧ (endLab 0x20080).agentRead 0 0 0x20080 needBoth = (endLab 0x20080, .phys 0x80080) ∧ (endLab 0x20080).readHomeNat 0x80080 4 = 5 := by
  refine ⟨?_, ?_, ?_⟩
  · decide +kernel
  · have hw : (endLab 0x20080).walk 0 0x20080 = .leaf (leafOf 8 false) 0x50010 65536 false := by decide +kernel
    rw [agentRead_same hw rfl (by decide +kernel)]
    have : (Leaf.of (leafOf 8 false) false).pa false 65536 0x20080 = 0x80080 := by decide +kernel
    rw [this]
  · decide +kernel

/-! ### Hypotheses of the statements on the Transom -/

/-- Page 2 with an aging class and a tier; aging is on, its timers are 5 and 7. -/
def cxlFrame : Nat := cxlBase / 65536

def agingLab (tier : Nat) : State :=
  let s := tableLab labWeave
  let s := s.writeHomeNat 0x50010 8 (leafOf (if tier = 0 then 8 else cxlFrame) false + 2 ^ 59 + tier * 2 ^ 7)
  ((s.setField (transomBlock 0) 0 0 1).setField (transomBlock 0) 95 64 5).setField (transomBlock 0) 127 96 7

def somePark (aged : Nat) : ParkEntry :=
  { saved := 4, ctx := 0, wakePa := 0x80000, entries := [], p := 0, t1 := 10, t2 := 20, since := 3, wreg := 5, pd := 1, armed := true, woken := none
    promoting := false, aged }

def someSaved : Saved :=
  { weave := labWeave, engines := { operands := [], perms := [], tiles := [], matrix := [], cut := none, shutter := none }, gen := 0, tick := 0, pool := 0, size := 1
    held := [], returned := false }

def parkedLab (aged : Nat) : State := { lab with parks := [somePark aged], saved := [(4, someSaved)] }

theorem witness_aging :
    (0 < Config.dies ∧ (lab.setField (transomBlock 0) 1 1 0).field (transomBlock 0) 1 1 = 0)
    ∧ (∀ n ∈ [0, 1], (match (agingLab n).movable 0 0x20000 with
        | some (_, _, l) => l.age == 1 && !l.pin && !l.migr && l.tier == n && (agingLab n).aging (leafDie l) && (agingLab n).classTimer (leafDie l) l.age (n + 1) != never
        | none => false) = true ∧ (agingLab n).moving 0 0x20000 = false)
    ∧ (∀ n m, (agingLab n).entryPins 0 0x20000 = false ∧ ((agingLab n).reachTick m).entryPins 0 0x20000 = false)
    ∧ (∀ n ∈ [0, 1], ((parkedLab n).parks.find? (fun k => k.saved == 4)) = some (somePark n) ∧ ((parkedLab n).saved.any (fun x => x.1 == 4)) = true ∧ ∀ y ∈ (parkedLab n).parks, y.due = []) := by
  refine ⟨⟨by decide, by decide +kernel⟩, by decide +kernel, fun n m => ⟨?_, ?_⟩, by decide +kernel⟩ <;>
  · have h : (agingLab n).maps = [] := rfl
    simp [State.entryPins, State.reachTick, h]

/-- Page 2 is to move to the CXL tier; it is moving there. -/
def plannedLab : State := { tableLab labWeave with planned := [{ ctx := 0, va := 0x20000, toTier := 1, die := 0, through := false, stack := none }] }

def aMove : PageMove :=
  { ctx := 0, va := 0x20000, leafPa := 0x50010, oldLeaf := BitVec.ofNat 64 (leafOf 8 false), toTier := 1, toFrame := cxlFrame, die := 0, through := false }

def movingLab : State := { tableLab labWeave with moves := [aMove] }

theorem witness_page_moves :
    (plannedLab.planned.find? (fun p => p.ctx == 0 && p.va == 0x20000)).isSome = true
    ∧ plannedLab.nextPlanned 0 = some { ctx := 0, va := 0x20000, toTier := 1, die := 0, through := false, stack := none }
    ∧ plannedLab.field (transomBlock 0) 2 2 = 0 ∧ plannedLab.moves = []
    ∧ plannedLab.movable 0 0x20000 = some (leafOf 8 false, 0x50010, Leaf.of (leafOf 8 false) false) ∧ (Leaf.of (leafOf 8 false) false).migr = false
    ∧ (Leaf.of (leafOf 8 false) false).tier = 0 ∧ (Leaf.of (leafOf 8 false) false).pin = false ∧ (Leaf.of (leafOf 8 false) false).frame = 8
    ∧ plannedLab.fitDestination { ctx := 0, va := 0x20000, toTier := 1, die := 0, through := false, stack := none } cxlFrame = true ∧ plannedLab.frameInUse 8 = false
    ∧ (let f := plannedLab.frame (frameKey 0 8); f.free || f.shared || f.owner == 0) = true
    ∧ (movingLab.moves.find? (fun m => m.ctx == 0 && m.va == 0x20000) = some aMove ∧ movingLab.maps = [] ∧ movingLab.mem.wf = true
      ∧ movingLab.moves.filter (fun m => m.ctx == 0 && m.va == 0x20000 && m.toTier != 0 && !m.through) = [aMove])
    ∧ cxlFrame < 2 ^ 36 ∧ 0x50010 + 8 ≤ cxlFrame * 65536 := by
  and_intros <;> decide +kernel

/-! ### Hypotheses of the statements on fault service -/

def lateRecord : FaultRecord :=
  { va := 0x20000, lmask := 1, lgrp := 0, path := 0, wslot := 0, core := 0, kind := 0, cause := cause 1 0, gen := 0, ctx := 0, token := 3, last := true, whole := false
    tick := 7 }

theorem witness_deferred_fault_record :
    ({ lab with lateFaults := [lateRecord] } : State).lateFaults.find? (fun r => r.ctx == 0) = some lateRecord
    ∧ ({ lab with lateFaults := [lateRecord] } : State).faultRoom 0 = true := by decide +kernel

def tokenPark : Parked := { cause := cause 1 0, detail := 5, token := 9, resumesNext := false, next := 0x1000C }

/-- The weave with its path parked on token 9. -/
def tokenWeave : Weave := labWeave.modifyPath 0 (fun q => { q with cond := .parked tokenPark })

/-- Context 0's reply ring holds one reply, for token 9, in generation `gen`. -/
def replyLab (disp gen : Nat) : State :=
  let s := (labWith tokenWeave).setBlock (translationBlock 0) (0x90 * 2 ^ 160 + 4 * 2 ^ 200 + 1 * 2 ^ 208)
  s.writeHomeNat 0x90000 16 (disp + 9 * 2 ^ 8 + gen * 2 ^ 24)

theorem witness_replies :
    (∀ d ∈ [0, 1, 2, 3, 4], (replyLab d 0).repliesWaiting 0 ≠ 0 ∧ replyDisp ((replyLab d 0).replyAt 0 ((replyLab d 0).replyHead 0)) = d
      ∧ bits ((replyLab d 0).replyAt 0 ((replyLab d 0).replyHead 0)) 39 24 = (replyLab d 0).ctxGen 0
      ∧ bits ((replyLab d 0).replyAt 0 ((replyLab d 0).replyHead 0)) 23 8 = 9 ∧ (replyLab d 0).live = []
      ∧ (replyLab d 0).tokenWeave 0 9 = some (0, 0) ∧ (replyLab d 0).weave? 0 0 = some tokenWeave ∧ ((replyLab d 0).core 0).stops.length < 64
      ∧ ((replyLab d 0).core 0).lateStops = [])
    ∧ tokenWeave.tokenPath 9 = some 0 ∧ tokenWeave.writeBackToken = none
    ∧ (match tokenWeave.path? 0 with
      | some q => q.cond == .parked tokenPark && q.stack.isEmpty && q.replayMask.isNone
      | none => false) = true
    ∧ ((replyLab 5 0).repliesWaiting 0 ≠ 0 ∧ 5 ≤ replyDisp ((replyLab 5 0).replyAt 0 ((replyLab 5 0).replyHead 0)))
    ∧ ((replyLab 0 1).repliesWaiting 0 ≠ 0 ∧ replyDisp ((replyLab 0 1).replyAt 0 ((replyLab 0 1).replyHead 0)) = 0
      ∧ bits ((replyLab 0 1).replyAt 0 ((replyLab 0 1).replyHead 0)) 39 24 ≠ (replyLab 0 1).ctxGen 0) := by
  and_intros <;> decide +kernel

/-- A hinge core with stops and interrupts enabled, at 0x400. -/
def takingLab (stops late : List Stop) (icause : Nat) : State :=
  (labWith (parked labWeave)).modifyCore 0 (fun k => { k with
    stops, lateStops := late, hinge := { k.hinge with hstatus := 3, tvec := 0x4000, ivec := 0x5000, icause := BitVec.ofNat 64 icause } })

/-- A stop on the sparse feature 10, bound to a routine at 0x7000. -/
def sparseStop : Stop := { servedStop with cause := cause 7 2, detail := 10 }

def boundLab : State := { takingLab [sparseStop] [] 0 with binding := [(10, BitVec.ofNat 128 (2 ^ 72 + 0x7000))] }

theorem witness_taking_stops :
    (((takingLab [] [servedStop] 0).core 0).frozen = false ∧ ((takingLab [] [servedStop] 0).core 0).lateStops = [servedStop]
      ∧ ((takingLab [] [servedStop] 0).core 0).stops.length < 64)
    ∧ (((takingLab [servedStop] [] 0).core 0).takesStop = true ∧ ((takingLab [servedStop] [] 0).core 0).stops = [servedStop] ∧ servedStop.cause ≠ cause 7 2)
    ∧ ((boundLab.core 0).takesStop = true ∧ (boundLab.core 0).stops = [sparseStop] ∧ sparseStop.cause = cause 7 2 ∧ bits sparseStop.detail.toNat 8 0 = 10
      ∧ (Table.find? boundLab.binding 10).isSome = true)
    ∧ ((takingLab [] [] 1).core 0).takesInterrupt = true
    ∧ (∀ s ∈ [takingLab [servedStop] [] 0, takingLab [] [] 1], ((s.weave? 0 hingeSlot).bind (fun w => w.path? 0)).isSome = true) := by
  and_intros <;> decide +kernel

theorem witness_forwarding :
    lab.outstandingTokens.length < 65535 ∧
    ((hingeLab 0).core 0).hinge.serving = some servedStop ∧ (hingeLab 0).weave? 0 servedStop.slot = some (parked labWeave) ∧ (parked labWeave).id = servedStop.weave
    ∧ (match (parked labWeave).path? servedStop.path with
      | some q => (match q.cond with
        | .parked _ => true
        | _ => false)
      | none => false) = true
    ∧ ((hingeLab 0).setField (translationBlock 0) 143 128 16).faultRoom servedStop.weave.ctx = false
    ∧ ((hingeLab 0).faultRoom servedStop.weave.ctx = true ∧ (hingeLab 0).lateFaults = []) := by
  and_intros <;> decide +kernel

/-! ### Hypotheses of the statements on eviction and the Latch -/

/-- A weave whose one path waits at BAR. -/
def barWeave : Weave := labWeave.modifyPath 0 (fun q => { q with cond := .blocked (.bar 0) })

/-- The same, in a context with a save pool of `size` units at 0x100000. -/
def poolLab (w : Weave) (size : Nat) : State :=
  ((labWith w).setBlock (serviceBlock 0) (size * 2 ^ 32 + 0x100 * 2 ^ 64)).modifyHinge 0 (fun h => { h with evictFor := some w.id })

theorem witness_evictions :
    ((lab.modifyCore 0 (fun k => { k with frozen := true })).core 0).frozen = true
    ∧ ((lab.core 0).frozen = false ∧ lab.weave? 0 7 = none)
    ∧ (((hingeLab 0).core 0).frozen = false ∧ (hingeLab 0).weave? 0 0 = some (parked labWeave) ∧ ((hingeLab 0).core 0).inService 0 (parked labWeave).id = true)
    ∧ (((labWith endingWeave).core 0).inService 0 endingWeave.id = false ∧ (labWith endingWeave).weave? 0 0 = some endingWeave ∧ endingWeave.ending = true)
    ∧ (∀ n ∈ [0, 1000], ((poolLab barWeave n).core 0).inService 0 barWeave.id = false ∧ (poolLab barWeave n).weave? 0 0 = some barWeave)
    ∧ barWeave.ending = false ∧ barWeave.writeBackToken = none ∧ barWeave.parking = none ∧ barWeave.livePaths = [0]
    ∧ (match barWeave.path? 0 with
      | some q => q.cond == .blocked (.bar 0)
      | none => false) = true
    ∧ (poolLab barWeave 0).poolPlace 0 (saveSize ((poolLab barWeave 0).core 0) barWeave) = none
    ∧ (poolLab barWeave 1000).poolPlace 0 (saveSize ((poolLab barWeave 1000).core 0) barWeave) = some 0x100 := by
  and_intros <;> decide +kernel

def leavingWeave : Weave := { barWeave with evicting := true }

theorem witness_eviction_completes :
    ((poolLab leavingWeave 1000).core 0).hinge.evictFor = some leavingWeave.id ∧
    (poolLab leavingWeave 1000).weave? 0 0 = some leavingWeave ∧ leavingWeave.evicting = true ∧ ((poolLab leavingWeave 1000).core 0).frozen = false
    ∧ leavingWeave.writeBackToken = none ∧ leavingWeave.parking = none ∧ leavingWeave.ops = [] ∧ leavingWeave.sectors = [] ∧ (poolLab leavingWeave 1000).requests = []
    ∧ ((poolLab leavingWeave 1000).core 0).channels = [] ∧ ((poolLab leavingWeave 1000).core 0).shutter.owner.holder ≠ some leavingWeave.id
    ∧ ((poolLab leavingWeave 1000).core 0).running = none ∧ (poolLab leavingWeave 1000).pathsAllow leavingWeave = true ∧ (poolLab leavingWeave 1000).anyMet leavingWeave 0 [] = false
    ∧ ((poolLab leavingWeave 1000).core 0).l1 = [] ∧ ((poolLab leavingWeave 1000).die (dieOf 0)).l2 = []
    ∧ (poolLab leavingWeave 1000).poolPlace 0 (saveSize ((poolLab leavingWeave 1000).core 0) leavingWeave) = some 0x100 := by
  and_intros <;> decide +kernel

/-- A saved weave under key 4, with the replies held for it. -/
def savedOf (w : Weave) (held : List HeldReply) : Saved := { someSaved with weave := w, held, pool := 0x100 }

/-- No weave is resident; that one is away, put back at the head of queue 3 or not. -/
def awayLab (w : Weave) (held : List HeldReply) (back : Bool) : State :=
  let s := { tableLab labWeave with
    cores := []
    saved := [(4, savedOf w held)]
    live := [{ ctx := 0, record := 0x30000, queue := 3, irq := false, retiring := false, token := 0, core := 0, sent := false }]
    returned := if back then [{ queue := 3, position := 0, item := .saved 4 }] else [] }
  s.setBlock (queueBlock 3) (2 ^ 5 + 4 * 2 ^ 403 + 0x90 * 2 ^ 408 + 2 ^ 448)

def findsSaved (s : State) (x : Saved) : Bool := List.find? (fun (x : Nat × Saved) => x.1 == 4) s.saved == some (4, x)

theorem witness_weave_returns :
    (∀ h ∈ [[HeldReply.fault 9 0], []], findsSaved (awayLab tokenWeave h false) (savedOf tokenWeave h) = true
      ∧ (awayLab tokenWeave h false).repliesDue tokenWeave.id = false ∧ (savedOf tokenWeave h).returned = false)
    ∧ tokenWeave.livePaths = [0] ∧ tokenPark.token ≠ 0
    ∧ (let s := (awayLab barWeave [] false).modifyHinge 0 (fun h => { h with tsave := 0x100000 })
       s.savedAt (s.core 0).hinge.tsave.toNat = some (4, savedOf barWeave []) ∧ findsSaved s (savedOf barWeave []) = true)
    ∧ ((awayLab barWeave [] false).saved = [(4, savedOf barWeave [])] ∧ (savedOf barWeave []).weave.id.ctx ≠ 1 ∧ (savedOf barWeave []).weave.id.ctx = 0
      ∧ ((barWeave.path? 0).map Path.waitsInside) = some true)
    ∧ (let x := savedOf barWeave []
       x.held = [] ∧ (match (awayLab barWeave [] true).choose with
         | (u, some (_, p)) => p.head == .saved 4 x && p.place == some (0, 0) && u.parks.isEmpty
         | _ => false) = true) := by
  and_intros <;> decide +kernel

/-- A request of the weave of `lab`, sent by port 2. -/
def aRequest (what : RemoteOp) (dest : RemoteDest) (whole : Bool) (sregs : List Word64) : RemoteRequest :=
  { id := 6, weave := labWeave.id, core := 0, slot := 0, path := 0, lane := 0, op := 77, port := 2, module := 5, sent := 100, ctx := 0, va := 0x20000, what, dest
    pc := 0x10000, next := 0x1000C, captured := { sregs, aregs := [], rng := 0 }, whole, waiting := false }

theorem witness_reply_held :
    (let s := { awayLab barWeave [] false with requests := [aRequest (.load 8) (.path 0) true []] }
     s.requests.find? (fun y => y.id == 6) = some (aRequest (.load 8) (.path 0) true []) ∧ s.saved = [(4, savedOf barWeave [])]
     ∧ barWeave.id = (aRequest (.load 8) (.path 0) true []).weave ∧ (s.core 0).frozen = false ∧ s.weave? 0 0 = none) := by decide +kernel

/-- `lab` with channel 0 idle. -/
def idleLab : State := lab.setBlock (latchBlock 0) 0

/-- Channel 0 in a state, at work on core 0. -/
def channelLab (st : Nat) (requests : List RemoteRequest) : State :=
  let s := { idleLab with requests }
  let s := s.modifyCore 0 (fun k => { k.emptied with frozen := true })
  let s := s.modifyDie 0 (fun d => { d with latch := some {
    content := lab.core 0, source := 0, base := 0x100000, started := 5, scanned := 0, replies := [], held := [], slowReported := false } })
  s.setLatch 0 st

def channelWork (s : State) : Bool :=
  match (s.die 0).latch with
  | some l => l.source == 0 && !l.slowReported && dieOf l.source == 0 && (s.core l.source).frozen
  | none => false

theorem witness_freeze_and_seal :
    (latchAccepts idleLab 0 = true ∧ (idleLab.core (latchCore idleLab 0)).frozen = false ∧ (idleLab.core (latchCore idleLab 0)).hinge.serving = none
      ∧ (idleLab.core (latchCore idleLab 0)).exclusive = [] ∧ ∀ x ∈ (idleLab.core (latchCore idleLab 0)).weaves, x.2.id.ctx < 64)
    ∧ (0 < Config.dies ∧ channelWork (channelLab 2 []) = true ∧ latchState (channelLab 2 []) 0 = 2)
    ∧ (let s := channelLab 3 [aRequest (.load 8) (.path 0) true []]
       channelWork s = true ∧ latchState s 0 = 3 ∧ s.requests.find? (fun y => y.id == 6) = some (aRequest (.load 8) (.path 0) true []) ∧ s.outstanding 0 ≠ 0)
    ∧ (channelWork (channelLab 3 []) = true ∧ latchState (channelLab 3 []) 0 = 3 ∧ (channelLab 3 []).outstanding 0 = 0) := by
  and_intros <;> decide +kernel

/-! A restore needs the bytes of an image in memory, 4,816,896 of them, which Config leaves open. -/

/-- No weave is resident, and a sealed image lies at address 0. -/
def imageLab (i : Image) (m : Memory) : State := { State.reset with mem := m, images := [i], blocks := [(latchBlock 0, 0)] }

def anImage : Image :=
  { content := { Core.reset with slots := [(0, labWeave)] }, source := 0, serial := 3, epoch := State.reset.bootEpoch, trev := Config.tileRevision 0, tick := 0
    replies := [], held := [], unsent := [], base := 0 }

theorem length_toBytes (n v : Nat) : (toBytes n v).length = n := by
  induction n generalizing v with
  | zero => rfl
  | succ n ih => simp [toBytes, ih]

theorem length_imageBytes (i : Image) : i.bytes.length = imageBytes := by
  simp only [Image.bytes, imageContent, List.length_append, length_toBytes, List.length_map, List.length_range, List.length_replicate, imageBytes]

theorem ofBytes_take_toBytes (m n v : Nat) : ofBytes ((toBytes (m + n) v).take m) = v % 256 ^ m := by
  induction m generalizing v with
  | zero => simp [ofBytes, Nat.mod_one]
  | succ m ih =>
    rw [show m + 1 + n = (m + n) + 1 by omega, toBytes, List.take_succ_cons, ofBytes, ih, BitVec.toNat_ofNat, show 2 ^ 8 = 256 from rfl, Nat.pow_succ, Nat.mul_comm (256 ^ m) 256, Nat.mod_mul]

theorem witness_restore_busy : latchAccepts idleLab 0 = true ∧ (idleLab.core (latchCore idleLab 0)).weaves ≠ [] := by decide +kernel

theorem image_head (i : Image) : ofBytes (i.bytes.take 64) = imageHeader i.source i.trev.toNat i.replies.length i.serial i.tick % 256 ^ 64 := by
  rw [Image.bytes, imageContent, List.append_assoc, List.append_assoc, List.take_append_of_le_length (by rw [length_toBytes]; omega),
    show toBytes 4096 = toBytes (64 + 4032) from rfl, ofBytes_take_toBytes]

theorem readBytes_take {m : Memory} {a k n : Nat} (h : k ≤ n) : m.readBytes a k = (m.readBytes a n).take k := by
  apply List.ext_getElem?
  intro i
  by_cases hi : i < k
  · rw [Laws.getElem?_readBytes _ _ _ _ hi, List.getElem?_take_of_lt hi, Laws.getElem?_readBytes _ _ _ _ (Nat.lt_of_lt_of_le hi h)]
  · rw [List.getElem?_eq_none (by rw [Laws.length_readBytes]; omega), List.getElem?_eq_none (by rw [List.length_take, Laws.length_readBytes]; omega)]

theorem image_found (i : Image) (m : Memory) (he : i.epoch = State.reset.bootEpoch) (hm : m.readBytes 0 imageBytes = i.bytes) :
    (imageLab i m).imageAt 0 = some i := by
  have h : (i.epoch == State.reset.bootEpoch && m.readBytes 0 4812864 == i.bytes.take 4812864) = true := by
    rw [readBytes_take (k := 4812864) (n := imageBytes) (by decide), hm, he]; simp
  simp only [State.imageAt, imageLab, List.find?_cons, h]

theorem image_revision (i : Image) (m : Memory) (hm : m.readBytes 0 imageBytes = i.bytes) :
    bits ((imageLab i m).readHomeNat 0 64) 95 64 = i.trev.toNat := by
  have h : (imageLab i m).readHomeNat 0 64 = ofBytes (i.bytes.take 64) := by
    rw [← hm, ← readBytes_take (by simp [imageBytes])]; rfl
  rw [h, image_head]
  have ht : i.trev.toNat < 2 ^ 32 := i.trev.isLt
  generalize i.trev.toNat = x at ht
  simp only [imageHeader, imageMagic, bits]
  omega

theorem image_restores (i : Image) (m : Memory) (he : i.epoch = State.reset.bootEpoch) (ht : i.trev = Config.tileRevision 0)
    (hm : m.readBytes 0 imageBytes = i.bytes) : (imageLab i m).restoreFails 0 0 0 = none := by
  have h1 : (!((imageLab i m).core 0).weaves.isEmpty || !((imageLab i m).core 0).stops.isEmpty || !((imageLab i m).core 0).lateStops.isEmpty
      || ((imageLab i m).core 0).hinge.serving.isSome || ((imageLab i m).core 0).frozen || ((imageLab i m).core 0).outOfService) = false := by
    show (!(State.reset.core 0).weaves.isEmpty || !(State.reset.core 0).stops.isEmpty || !(State.reset.core 0).lateStops.isEmpty
      || (State.reset.core 0).hinge.serving.isSome || (State.reset.core 0).frozen || (State.reset.core 0).outOfService) = false
    decide +kernel
  have h2 : (imageLab i m).restored = [] := rfl
  have h3 := image_revision i m hm
  simp only [State.restoreFails, h1, h3, image_found i m he hm, h2, ht]
  simp

theorem imageLab_field (i : Image) (m : Memory) (hi lo : Nat) : (imageLab i m).field (latchBlock 0) hi lo = bits 0 hi lo := by
  simp [State.field, State.block, imageLab, Table.find?]

theorem imageLab_channel (i : Image) (m : Memory) : latchAccepts (imageLab i m) 0 = true ∧ latchCore (imageLab i m) 0 = 0 ∧ latchImage (imageLab i m) 0 = 0 := by
  simp only [latchAccepts, latchState, latchCore, latchImage, imageLab_field]
  decide +kernel

theorem restorable (l : List Byte) (h : l.length = imageBytes) : (Memory.writeBytes [] 0 l).readBytes 0 imageBytes = l := by
  rw [← h]; exact Laws.readBytes_writeBytes _ _ _

theorem restore_of_image (i : Image) (he : i.epoch = State.reset.bootEpoch) (ht : i.trev = Config.tileRevision 0) :
    ∃ m, latchAccepts (imageLab i m) 0 = true ∧ (imageLab i m).restoreFails 0 (latchCore (imageLab i m) 0) (latchImage (imageLab i m) 0) = none
    ∧ (imageLab i m).imageAt (latchImage (imageLab i m) 0) = some i := by
  obtain ⟨m, hm⟩ : ∃ m : Memory, m.readBytes 0 imageBytes = i.bytes := ⟨_, restorable _ (length_imageBytes i)⟩
  obtain ⟨h1, h2, h3⟩ := imageLab_channel i m
  refine ⟨m, h1, ?_, ?_⟩
  · rw [h2, h3]; exact image_restores i m he ht hm
  · rw [h3]; exact image_found i m he hm

theorem witness_restore :
    (∃ m, latchAccepts (imageLab anImage m) 0 = true ∧ (imageLab anImage m).restoreFails 0 (latchCore (imageLab anImage m) 0) (latchImage (imageLab anImage m) 0) = none
      ∧ (imageLab anImage m).imageAt (latchImage (imageLab anImage m) 0) = some anImage)
    ∧ anImage.replies = [] ∧ anImage.held = [] ∧ Table.find? anImage.content.slots 0 = some labWeave :=
  ⟨restore_of_image anImage rfl rfl, rfl, rfl, by decide +kernel⟩

/-! ### Hypotheses of the statements on host and fabric -/

/-- The module is READY, with port 2 UP. -/
def readyLab : State :=
  let s := ((lab.setBlock bootBlock 1).setBlock (portBlock 2) (5 + 4 * 2 ^ 32 + 64 * 2 ^ 64 + 128 * 2 ^ 80 + 64 * 2 ^ 96 + 32 * 2 ^ 112)).setBlock fabricBlock (5 + 200 * 2 ^ 32)
  { s with routes := [(9, 0x82)], hostCxl := true }

theorem witness_host_memory :
    readyLab.isReady = true ∧ readyLab.hostCxl = true ∧ 0x80000 < hbmTop
    ∧ wholeRange physExists (readyLab.aperture.toNat + 0x80000) 8 = true ∧ wholeRange hostWritable (readyLab.aperture.toNat + 0x80000) 8 = true
    ∧ readyLab.aperture.toNat + 0x80000 = 0x80000 ∧ isFirmware firmwareBase = true ∧ firmwareBase < hbmTop
    ∧ (lab.setBlock bootBlock 0).isReady = false ∧ frameExists 8 = true ∧ frameExists (cxlBase / 65536) = true
    ∧ (let s : State := { readyLab with aperture := BitVec.ofNat 64 (2 * 2 ^ 36) }
       s.isReady = true ∧ isFirmware (s.aperture.toNat + 0xFFF000000) = true ∧ 0xFFF000000 < 64 * 2 ^ 30) := by
  and_intros <;> decide +kernel

/-- Offsets that are reserved, and one of a block. -/
theorem witness_host_registers :
    readyLab.bootStage ≠ 15 ∧ (match regionOf 0x90000 with
      | .reserved => true
      | _ => false) = true ∧ (readyLab.modidLocked = false ∧ ({ readyLab with modidLocked := true } : State).modidLocked = true) := by
  and_intros <;> decide +kernel

/-- A flit of zeros with its CRC, or with another. -/
def aFlit (good : Bool) : List Byte :=
  let body : List Byte := List.replicate 248 0
  body ++ toBytes 8 ((crc64 body).toNat + (if good then 0 else 1))

/-- Port 2 expects the sequence number of a flit, or the next one. -/
def flitLab (flit : List Byte) (ahead : Nat) : State :=
  readyLab.setPort 2 { expectSeq := (Config.flitSequence flit).toNat + ahead, replayRequested := false, queued := [] }

theorem flit_of_words : (aFlit true).length = 256 ∧ (aFlit false).length = 256 ∧ (crc64 ((aFlit true).take 248)).toNat = ofBytes ((aFlit true).drop 248)
    ∧ (crc64 ((aFlit false).take 248)).toNat ≠ ofBytes ((aFlit false).drop 248) := by
  and_intros <;> decide +kernel

theorem witness_links :
    (readyLab.field (portBlock 1) 0 0 = 1 ∧ readyLab.portUp 1 = false)
    ∧ (readyLab.portUp 2 = true ∧ readyLab.live = [] ∧ readyLab.requests = [])
    ∧ ((Config.flitSequence (aFlit true)).toNat ≠ ((flitLab (aFlit true) 1).port 2).expectSeq)
    ∧ ((Config.flitSequence (aFlit true)).toNat = ((flitLab (aFlit true) 0).port 2).expectSeq ∧ ((flitLab (aFlit true) 0).port 2).queued = [])
    ∧ ∀ n, (flitLab (aFlit true) n).portUp 2 = true := by
  have h : ∀ n, (flitLab (aFlit true) n).port 2 = { expectSeq := (Config.flitSequence (aFlit true)).toNat + n, replayRequested := false, queued := [] } := by
    intro n; simp [flitLab, State.setPort, State.port]
  refine ⟨by decide +kernel, by decide +kernel, ?_, ?_, ?_⟩
  · rw [h]; simp
  · rw [h]; simp
  · intro n; show readyLab.portUp 2 = true; decide +kernel

/-- A store of 8 bytes for context 0, of a domain. -/
def aStore (domain : Nat) : FabricRequest :=
  { id := 4, source := 9, dest := 5, hops := 15, ctx := 0, domain, va := 0x20000, op := .store (toBytes 8 77) }

/-- READY, with tables in memory and context 0 served in domain 0. -/
def servingLab : State :=
  let s := ((tableLab labWeave).setBlock (portBlock 2) (5 + 4 * 2 ^ 32 + 64 * 2 ^ 64 + 128 * 2 ^ 80 + 64 * 2 ^ 96 + 32 * 2 ^ 112)).setBlock fabricBlock (5 + 200 * 2 ^ 32)
  { (s.setBlock (serviceBlock 0) (2 ^ 111)).setBlock gangBlock 0 with routes := [(9, 0x82)] }

theorem witness_fabric_requests :
    servingLab.portUp 2 = true ∧ servingLab.incoming = [] ∧ (aStore 0).dest = servingLab.moduleNumber ∧ servingLab.field (serviceBlock 0) 111 111 = 1
    ∧ servingLab.field (portBlock 2) 1 1 = 0
    ∧ gangState servingLab = 0 ∧ servingLab.routeTo 9 = some 2 ∧ servingLab.credit 2 1 ≠ 0 ∧ (servingLab.port 2).queued = [] ∧ servingLab.ctxDomain 0 = (aStore 0).domain
    ∧ servingLab.ctxDomain 0 ≠ (aStore 1).domain ∧ servingLab.agentRead 0 0 0x20000 needWrite = (servingLab, .phys 0x80000) := by
  refine ⟨?_, ?_, ?_, ?_, ?_, ?_, ?_, ?_, ?_, ?_, ?_, ?_⟩
  iterate 11 decide +kernel
  have hw : servingLab.walk 0 0x20000 = .leaf (leafOf 8 false) 0x50010 65536 false := by decide +kernel
  rw [agentRead_same hw rfl (by decide +kernel)]
  have : (Leaf.of (leafOf 8 false) false).pa false 65536 0x20000 = 0x80000 := by decide +kernel
  rw [this]

theorem witness_fabric_responses :
    (∀ r ∈ [aRequest (.store []) .none true [], aRequest (.load 8) (.path 0) true [], aRequest (.load 8) .none true [0, 0]],
      let s := { readyLab with requests := [r] }
      s.portUp 2 = true ∧ s.requests.find? (fun x => x.id == r.id && !x.waiting) = some r ∧ (s.requests.map (fun x => x.id)).Nodup
        ∧ s.isSaved r.weave = false ∧ r.slot < hingeSlot ∧ (s.core r.core).frozen = false ∧ s.weave? r.core r.slot = some labWeave
        ∧ labWeave.id = r.weave)
    ∧ (match labWeave.path? 0 with
      | some q => decide (q.mask ≠ 0)
      | none => false) = true
    ∧ (aRequest (.store []) .none true []).isAsyncStore = true
    ∧ labWeave.ops = [] ∧ (readyLab.port 2).queued = [] ∧ readyLab.credit 2 3 ≠ 0 ∧ readyLab.field (portBlock 2) 1 1 = 0 ∧ readyLab.ports = []
    ∧ (readyLab.port 2).timeAt + 10 * cyclesPerMicro ≤ ({ readyLab with tick := 30000 } : State).tick
    ∧ readyLab.tick < (readyLab.port 2).timeAt + 10 * cyclesPerMicro := by
  and_intros <;> decide +kernel

/-- The gang controller in a state: member 5 of the slice of `leader`, which lists `members` at 0x60000. -/
def gangLab (st leader : Nat) (members : List Nat) (started : Bool) : State :=
  let s := readyLab.setBlock gangBlock (st * 2 ^ 10 + leader * 2 ^ 352 + members.length * 2 ^ 364 + 0x60 * 2 ^ 376 + 100 * 2 ^ 416)
  { s.writeHome 0x60000 (members.flatMap (toBytes 2)) with gangStarted := started, cores := [] }

theorem witness_gangs :
    gangState (gangLab 1 9 [5, 9] false) = 1
    ∧ (let s := gangLab 1 9 [5, 9] true
       gangState s = 1 ∧ s.preempting = false ∧ s.isLeader = false ∧ s.routeTo (gangLeader s) = some 2 ∧ s.portUp 2 = true ∧ (s.port 2).queued = []
       ∧ s.credit 2 3 ≠ 0 ∧ s.field (portBlock 2) 1 1 = 0)
    ∧ (let s := gangLab 1 5 [5] true
       s.preempting = false ∧ s.isLeader = true ∧ gangMembers s = [s.moduleNumber] ∧ s.gangReady = [])
    ∧ (let s := { gangLab 2 5 [5, 9] true with gangReady := [5] }
       s.isLeader = true ∧ gangState s = 2 ∧ 9 ∈ gangMembers s ∧ ∀ x ∈ gangMembers s, x ≠ 9 → x ∈ s.gangReady)
    ∧ (gangState (gangLab 2 5 [5, 9] true) = 2 ∧ (gangLab 2 5 [5, 9] true).gangCores = [] ∧ (gangLab 2 5 [5, 9] true).isLeader = true
      ∧ (gangLab 2 9 [5, 9] true).isLeader = false ∧ (gangLab 2 9 [5, 9] true).gangCores = []) := by
  and_intros <;> decide +kernel

/-! ### Hypotheses of the statements on security and fleet operation -/

/-- A mailbox command is busy, with an argument, a target and its buffer at 0x100000. -/
def mailLab (arg target : Nat) : State := readyLab.setBlock mailboxBlock (target * 2 ^ 16 + arg * 2 ^ 32 + 1 * 2 ^ 80 + 0x100 * 2 ^ 88)

/-- The same with an image of a component staged, whose signature checks or not, and whose SVN is above the floor or not. -/
def stagedLab (component svn : Nat) (signed : Bool := true) : State :=
  { mailLab component 0 with
    staged := [(component, { component, svn, hash := 0, verified := signed && 2 ≤ svn, signed, bytes := [] })], svnFloor := [2, 2, 2, 2, 2, 2] }

theorem witness_mailbox_updates :
    ((mailLab 0 0).field mailboxBlock 87 80 = 1 ∧ isHbm (mailboxBuffer (mailLab 0 0)) = true)
    ∧ (∀ x ∈ [(3, 7, true), (5, 1, true), (5, 7, true), (5, 7, false)], let s := stagedLab x.1 x.2.1 x.2.2
      s.field mailboxBlock 87 80 = 1 ∧ mailboxArg s = x.1 ∧ s.svnFloor[x.1]? = some 2 ∧ s.floorOf 5 = 2 ∧ s.applying = none
        ∧ (Table.find? s.staged x.1).map (fun y => (y.verified, y.signed, y.svn)) = some (x.2.2 && 2 ≤ x.2.1, x.2.2, x.2.1))
    ∧ (mailboxArg (mailLab 5 0) = 5 ∧ (mailLab 5 0).applying = none ∧ Table.find? (mailLab 5 0).staged 5 = none ∧ 5 < (stagedLab 5 7).hashes.length) := by
  and_intros <;> decide +kernel

/-- Core 3, empty, draining or not. -/
def drainLab (draining : Bool) (drains : List Drain) : State :=
  { (mailLab 0 3).modifyCore 3 (fun k => { k with draining }) with drains }

theorem witness_core_service :
    ∀ x ∈ [(false, []), (true, []), (true, [({ core := 3, mailbox := true } : Drain)])],
      let s := drainLab x.1 x.2
      3 < Config.dies * Config.coresPerDie ∧ s.drainImages = [] ∧ s.images = [] ∧ (s.core 3).weaves = [] ∧ (s.core 3).frozen = false ∧ (s.core 3).outOfService = false
        ∧ s.field mailboxBlock 87 80 = 1 ∧ mailboxTarget s = 3 ∧ (s.core 3).draining = x.1 ∧ s.drains = x.2 := by decide +kernel

theorem witness_resets : lab.fatal = none := rfl

/-- Four bytes of page 1 of context 0, under a key. -/
def aTranslation (key : BitVec 512) : Translation := { ctx := 0, base := 0x10000, size := 4, errata := [], present := 1, key, begun := 7 }

def sectionKey (l : List Byte) : BitVec 512 := BitVec.ofNat 512 (ofBytes (sha512 l))

def purgedLab : State := { tableLab labWeave with purges := [{ ctx := none, base := 0, size := 0, tick := 9 }] }

theorem section_of {s : State} (hw : s.walk 0 0x10000 = .leaf (leafOf 6 true) 0x50008 65536 false) (hn : s.walks = [])
    (h : (!(Leaf.of (leafOf 6 true) false).frameBad false 65536 && !((Leaf.of (leafOf 6 true) false).w && (Leaf.of (leafOf 6 true) false).x)
      && (Leaf.of (leafOf 6 true) false).denies needFetch == none && !false && (Leaf.of (leafOf 6 true) false).tier == 0
      && !(s.frame (frameKey 0 ((Leaf.of (leafOf 6 true) false).pa false 65536 0x10000 / 65536))).free
      && (s.frame (frameKey 0 ((Leaf.of (leafOf 6 true) false).pa false 65536 0x10000 / 65536))).owner == 0
      && !(Leaf.of (leafOf 6 true) false).poison && !(Leaf.of (leafOf 6 true) false).migr) = true) :
    s.sectionBytes 0 0x10000 4 = (s.touch 0x60000, some (s.mem.readBytes 0x60000 4)) := by
  have hr := agentRead_same (die := 0) (n := needFetch) hw hn h
  have hq : (Leaf.of (leafOf 6 true) false).pa false 65536 0x10000 = 0x60000 := by decide +kernel
  have hp : pieces 4096 0x10000 4 = [(0x10000, 4)] := by decide +kernel
  rw [hq] at hr
  simp only [State.sectionBytes, hp, List.foldl_cons, List.foldl_nil, hr, List.nil_append]

theorem stands_touch (s : State) (pa : Nat) (x : Translation) : (s.touch pa).buildStands x = s.buildStands x := rfl

theorem witness_translations :
    ∃ u l, (tableLab labWeave).sectionBytes 0 0x10000 4 = (u, some l) ∧ (aTranslation (sectionKey l)).key = sectionKey l
      ∧ (aTranslation (sectionKey l + 1)).key ≠ sectionKey l ∧ u.buildStands (aTranslation (sectionKey l)) = true
      ∧ ∃ v, purgedLab.sectionBytes 0 0x10000 4 = (v, some l) ∧ v.buildStands (aTranslation (sectionKey l)) = false := by
  have h1 : (tableLab labWeave).sectionBytes 0 0x10000 4 = _ := section_of (by decide +kernel) rfl (by decide +kernel)
  have h2 : purgedLab.sectionBytes 0 0x10000 4 = _ := section_of (by decide +kernel) rfl (by decide +kernel)
  rw [show purgedLab.mem = (tableLab labWeave).mem by simp only [purgedLab]] at h2
  have h3 : ∀ k, (tableLab labWeave).buildStands (aTranslation k) = true := fun _ => rfl
  have h4 : ∀ k, purgedLab.buildStands (aTranslation k) = false := fun _ => rfl
  refine ⟨_, _, h1, rfl, ?_, (stands_touch _ _ _).trans (h3 _), _, h2, (stands_touch _ _ _).trans (h4 _)⟩
  · show sectionKey _ + 1 ≠ sectionKey _
    intro h
    have h1 := congrArg BitVec.toNat h
    rw [BitVec.toNat_add] at h1
    have h2 := (sectionKey ((tableLab labWeave).mem.readBytes 0x60000 4)).isLt
    have h3 : BitVec.toNat (1 : BitVec 512) = 1 := by decide +kernel
    have h4 : 1 < 2 ^ 512 := Nat.one_lt_two_pow (by decide)
    rw [h3] at h1
    generalize (sectionKey ((tableLab labWeave).mem.readBytes 0x60000 4)).toNat = x at h1 h2
    generalize 2 ^ 512 = m at h1 h2 h4
    rcases Nat.lt_or_ge (x + 1) m with h | h
    · rw [Nat.mod_eq_of_lt h] at h1; omega
    · rw [show x + 1 = m by omega, Nat.mod_self] at h1
      subst h1
      omega

/-- Contexts that sample, with the ring suspended. -/
def sampleLab : State := lab.setBlock (debugBlock 0) (2 ^ 2 + 2 ^ 3)

theorem witness_sampling :
    (sampleLab.core 0).frozen = false ∧ sampleLab.samplePaths 0 0 = [8 * 0 + 0] ∧ sampleLab.weave? 0 0 = some labWeave ∧ (labWeave.path? 0).isSome = true
    ∧ sampleLab.field (debugBlock labWeave.id.ctx) 3 3 = 1 ∧ 0 < Config.dies ∧ isFatal 6 0 = true ∧ isFatal 1 0 = false := by
  and_intros <;> decide +kernel

/-! ### Hypotheses of the statements on decoding, steps and issue -/

/-- ISETP's MOD, with nothing outside its fields. -/
theorem witness_well_formed :
    (∀ i ∈ [Instr.iadd (word 4 5 0x30C), .ld (word 4 0x210 2 0x83FFFE 0x120), .exit (word 0 0 0), .mma (word 0 0 0)],
      i = .mma (word 0 0 0) ∨ (WellFormed i = true ∧ isFarno i = false))
    ∧ WellFormed (.iadd { word 4 5 0x30C with enc := .farno 8 false false }) = true ∧ isFarno (.iadd { word 4 5 0x30C with enc := .farno 8 false false }) = true := by
  and_intros <;> decide +kernel

/-- `lab` with the IADD of R193's example at the PC. -/
def fetchLab : State :=
  { lab with mem := lab.mem.writeBytes 0x60000 ([0x08, 0x24, 0x00, 0x00, 0x00, 0x00, 0x60, 0xB8, 0x00, 0x02, 0x06, 0x00].map (BitVec.ofNat 8)) }

def decodesIadd (bs : List Byte) : Bool :=
  match decodeBytes false bs with
  | .ok (.iadd _, []) => true
  | _ => false

theorem witness_fetch :
    fetchLab.weave? 0 0 = some labWeave
    ∧ (match labWeave.path? 0 with
      | some q => q.cond == .ready && !q.pastEnd && q.pc == 0x10000
      | none => false) = true
    ∧ (0x60000 % fetchLab.pageSize 0 0x10000 = 0x10000 % fetchLab.pageSize 0 0x10000 ∧ labWeave.id.ctx ≠ hingeCtx)
    ∧ (fetchLab.core 0).fetch = [] ∧ fetchLab.inFarnoRange 0 0x10000 = false
    ∧ fetchLab.translateFor { core := 0, slot := 0, path := 0 } 0 0x10000 needFetch = (fetchLab, .phys 0x60000)
    ∧ (∀ j, j < 12 → homeDie (0x60000 + j) = dieOf 0) ∧ decodesIadd (fetchLab.mem.readBytes 0x60000 12) = true
    ∧ nativeHasLiteral (word96 (fetchLab.mem.readBytes 0x60000 12)) = false := by
  and_intros <;> decide +kernel

/-- A step of that state runs it; a step with an event on the agenda runs the event. -/
def agendaLab (m : Move) : State := { fetchLab with agenda := [m] }

def fetchesIadd (s : State) (a : Actor) : Bool :=
  match ({ s with cur := a } : State).nextInstr a with
  | .instr _ (.iadd _) => !s.issuesNothing a
  | _ => false

/-- A path that waits with the IADD that it has issued; a weave that is being evicted. -/
def heldLab : State := labWith (labWeave.modifyPath 0 (fun q => { q with cond := .blocked (.stall 6), held := some (.iadd (word 0 0x100 0xFF)) }))

def evictedLab : State := { labWith { labWeave with evicting := true } with agenda := [.issue { core := 0, slot := 0, path := 0 }] }

theorem witness_step :
    (let s := agendaLab (.issue { core := 0, slot := 0, path := 0 })
     s.nextMove.1 = some (.issue { core := 0, slot := 0, path := 0 }) ∧ fetchesIadd s.nextMove.2 { core := 0, slot := 0, path := 0 } = true)
    ∧ (heldLab.path? { core := 0, slot := 0, path := 0 }).map (fun (q : Path) => (q.cond != .ready, q.held)) = some (true, some (.iadd (word 0 0x100 0xFF)))
    ∧ evictedLab.nextMove.1 = some (.issue { core := 0, slot := 0, path := 0 }) ∧ evictedLab.nextMove.2.issuesNothing { core := 0, slot := 0, path := 0 } = true
    ∧ (agendaLab (.event (.retall 3))).nextMove.1 = some (.event (.retall 3)) := by
  and_intros <;> decide +kernel

/-- What R210 and the wait mask find in an instruction that `lab` issues. -/
def atIssueLab (i : Instr) (s : State) : Option (Option Nat × Bool × Bool) :=
  match sigOf i, s.weave? 0 0 with
  | some (g, f), some w =>
    (w.path? 0).map (fun q => ((issueDefect s s.cur w q i g f).map (fun d => d.index), waitsOnCounter w q f, g.privileged))
  | _, _ => none

/-- A weave whose path has an operation on counter 0. -/
def countingLab : State := labWith (labWeave.modifyPath 0 (fun q => { q with counters := [[9], [], [], [], [], []] }))

theorem witness_issue_refusals :
    (atIssueLab (.iadd (word 200 0x100 0xFF)) lab).map (fun x => x.1.isSome) = some true
    ∧ atIssueLab (.iadd (word 0 0x100 0xFF (hint := 2 ^ 3))) countingLab = some (none, true, false)
    ∧ atIssueLab (.csrr (word 0x105 0 0 1)) lab = some (none, false, true) ∧ lab.cur.isHinge = false
    ∧ ((lab.path? lab.cur).map (fun (q : Path) => q.stepping)) = some 0 := by
  and_intros <;> decide +kernel

/-- An instruction whose guard leaves no lane. -/
def idleIadd : Instr := .iadd { word 0 0x100 0xFF with g := 3 }

theorem witness_no_active_lane :
    (match issueGate idleIadd lab with
      | .ok e => e.acting == 0 && !e.p.haltRequest && e.p.stepping == 0
      | .error _ => false) = true := by decide +kernel

/-- An instruction passes its checks in a state, for its weave in a role, with a lane to act in. -/
def passesIn (s : State) (role : Nat) (i : Instr) : Bool :=
  match issueGate i (s.modifyWeave 0 0 (fun w => { w with role })) with
  | .ok e => decide (e.acting ≠ 0) && e.w.role == role && !e.p.haltRequest && e.p.stepping == 0
  | .error _ => false

/-- `lab` with v1 tagged E4M3x4. -/
def taggedLab : State := labWith { labWeave with tags := (List.range 16).map (fun n => if n = 1 then .e4m3x4 else .untyped) }

theorem witness_role_and_tag_traps :
    (∀ i ∈ [Instr.cpy (cpyWord 16), .gather rowsWord, .scatter rowsWord, .tsrld (word 0x236 0x105 0)], passesIn rowsLab 3 i = true)
    ∧ (∀ i ∈ [Instr.kvapp (kvappWord 0), .kvld kvldWord, .vqlut vqlutWord, .vqscore vqscoreWord], passesIn (kvLab 0) 2 i = true)
    ∧ (∀ i ∈ [Instr.mclaim (word 0x201 0x106 0), .mrel (word 0 0x106 0), .mload mloadWord, .mma (mmaWord 0 1), .mmas (mmaWord 0 1), .accld mloadWord, .accst mloadWord,
        .accz (word 0 0 0), .mtask (word 0 0x105 0)], passesIn (matrixLab 2) 1 i = true)
    ∧ (∀ i ∈ [Instr.shwin (word 0x201 0x105 0), .shload (word 0 0x105 0), .shinj (word 0 0x105 0), .shinjV (word 0 2 0 0 1), .shlaunch (word 0 0 0), .shcap (word 2 0x303 0x105),
        .shreset (word 0 0 0)], passesIn (shutterLab .free) 2 i = true)
    ∧ (∀ i ∈ [Instr.iadd (word 0 1 0xFF), .isub (word 0 1 0xFF), .fadd (word 0 1 0xFF), .fmul (word 0 1 0xFF)], Issuing i .none taggedLab (envAt i taggedLab)
        ∧ (envAt i taggedLab).w.tag 1 = .e4m3x4) := by
  have h : ∀ i ∈ [Instr.iadd (word 0 1 0xFF), .isub (word 0 1 0xFF), .fadd (word 0 1 0xFF), .fmul (word 0 1 0xFF)], issues i .none taggedLab = true
      ∧ (envAt i taggedLab).w.tag 1 = .e4m3x4 := by decide +kernel
  refine ⟨?_, ?_, ?_, ?_, fun i hi => ⟨issuing_of_issues (h i hi).1, (h i hi).2⟩⟩ <;> decide +kernel

/-- Each kind of defect of R210 is refused by well-formedness: SET of 7 (3), an operand of a wrong class (4), a register past the last (5), a MOD with stray bits (6), a
field with stray bits (7), a guard on RECONV (8) and a literal of more than 64 bits (9). -/
theorem ill_formed_defects :
    (∀ x ∈ [(Instr.iadd (word 0 1 0xFF (hint := 7 * 2 ^ 9)), 3), (.iadd (word 0x210 1 0xFF), 4), (.ld (word 0xFE 0x104 0xFF (immW 0x20F) 0x30), 5),
        (.iadd (word 0 1 0xFF (mod := 0x7FF)), 6), (.iadd (word 0 1 0xFF (imm := 1)), 7), (.bar (word 1 0 0), 7), (.bar { word 0 0 0 with g := 3 }, 8),
        (.iadd { word 0 1 0x300 (hint := 1) with lit := some (2 ^ 64) }, 9)],
      (staticDefect x.1).map Defect.index = some x.2 ∧ WellFormed x.1 = false) := by decide +kernel

/-- And so are a literal that LIT does not announce, LIT without a literal, Farno words of a wrong size or that hold what none can, and an event, which has no encoding. -/
theorem ill_formed_encodings :
    (∀ i ∈ [Instr.iadd (word 0 1 0xFF (hint := 1)), .iadd { word 0 1 0xFF with lit := some 5 },
        .iadd { word 0 1 0x300 (imm := 1) with enc := .farno 8 false false }, .iadd { word 0 1 0xFF with enc := .farno 8 true false },
        .iadd { word 0 1 0xFF with enc := .farno 16 false true }, .iadd { word 0 1 0xFF with enc := .farno 12 false false }, .retall 3],
      WellFormed i = false)
    ∧ WellFormed (.iadd (word 0 1 0xFF)) = true ∧ WellFormed (.bar (word 0 0 0)) = true := by
  and_intros <;> decide +kernel

/-! ### Words decoded -/

/-- Twelve bytes decode to an instruction, with none left over. -/
def reads (bytes : List Nat) (i : Instr) (farno : Bool := false) : Bool :=
  match decodeBytes farno (bytes.map (BitVec.ofNat 8)) with
  | .ok (j, rest) => decide (j = i) && rest.isEmpty
  | .error _ => false

/-- R216, R239, R257, R289, R325: the worked encodings of the reference chapters. -/
theorem test_decode_worked_examples :
    reads [0x08, 0x24, 0x00, 0x00, 0x00, 0x00, 0x60, 0xB8, 0x00, 0x02, 0x06, 0x00] (.iadd { word 4 5 0x30C (hint := 0x2408) with g := 3 }) = true
    ∧ reads [0x00, 0x00, 0x08, 0x48, 0x00, 0x00, 0x08, 0x00, 0xE5, 0x00, 0xDE, 0xA0] (.bcmp (word 1 0x328 1 9 8)) = true
    ∧ reads [0x00, 0x00, 0x00, 0x01, 0x00, 0x00, 0x10, 0x20, 0x80, 0x01, 0xDE, 0x20] (.ffma (word 3 1 2 0 0x100)) = true
    ∧ reads [0x00, 0x00, 0x26, 0x04, 0x00, 0x03, 0xFE, 0xA7, 0xA0, 0x7F, 0x9E, 0x61] (.atom (word 0xFF 0x105 0xFF 0xC06000 0x426)) = true
    ∧ reads [0x00, 0x08, 0x58, 0x18, 0x00, 0x00, 0x20, 0x00, 0x00, 0x01, 0x1E, 0xC5] (.mmas (word 2 0 4 3 0x58 0x800)) = true := by decide +kernel

/-- The words of the example programs' tables. -/
theorem test_decode_programs :
    reads [0x00, 0x00, 0x00, 0x00, 0x00, 0x00, 0x08, 0x1B, 0x60, 0x01, 0x1E, 0x08] (.widen (word 2 0x300 0x361)) = true
    ∧ reads [0x00, 0x00, 0x20, 0xF1, 0xFF, 0x1F, 0x14, 0x00, 0x42, 0x02, 0x1E, 0x60] (.ld (word 4 0x210 2 0x83FFFE 0x120)) = true
    ∧ reads [0x00, 0x00, 0xE0, 0x00, 0x00, 0x0E, 0x12, 0x00, 0x42, 0x80, 0x9F, 0xC0] (.gather (word 0x300 0x210 2 0x41C000 0x0E0)) = true
    ∧ reads [0x00, 0x00, 0x40, 0x00, 0x00, 0x36, 0x02, 0xBA, 0x22, 0x8D, 0x5E, 0xC0] (.cpy (word 0x11A 0x115 0x340 0x46C000 0x040)) = true
    ∧ reads [0x00, 0x00, 0x00, 0x00, 0x06, 0x1E, 0x14, 0x70, 0x40, 0x02, 0xDF, 0x07] (.plop (word 0x204 0x203 0x202 0x83C0C0)) = true
    ∧ reads [0x00, 0x00, 0x01, 0x00, 0x00, 0x00, 0x00, 0xE0, 0x00, 0x00, 0x9E, 0xC8] (.shinjV (word 0 7 0 0 1)) = true
    ∧ reads [0x00, 0x00, 0x00, 0x00, 0x00, 0x00, 0x00, 0xD8, 0x20, 0x02, 0x1E, 0xC9] (.shcap (word 4 0x106 0x300)) = true
    ∧ reads [0x00, 0x00, 0x01, 0x00, 0x00, 0x0A, 0x10, 0x40, 0xA0, 0x00, 0x1F, 0xCC] (.kvapp (word 0x201 0x102 2 0x014000 1)) = true
    ∧ reads [0x00, 0x00, 0x00, 0x00, 0x00, 0x00, 0x00, 0xE0, 0x20, 0x01, 0x5F, 0xD0] (.park (word 0x202 0x107 0)) = true
    ∧ reads [0x00, 0x00, 0x00, 0x00, 0x00, 0x00, 0x06, 0xD8, 0x46, 0x00, 0x9E, 0xC4] (.mload (word 0 0x236 0x300 0xC00000)) = true := by decide +kernel

/-- Words put together by hand from the fields of R193 and the rows of R208: FTANH v1, v2; MOV v1, s4; SPILL; ABINIT spad[s4], 2; QPUSH q0, v2; EXIT; CSRR s5, 1. -/
theorem test_decode_by_hand :
    reads [0x00, 0x00, 0x00, 0x00, 0x00, 0x00, 0x00, 0x40, 0x80, 0x00, 0xDE, 0x25] (.ftanh (word 1 2 0)) = true
    ∧ reads [0x00, 0x00, 0x00, 0x00, 0x00, 0x00, 0x00, 0x80, 0xA0, 0x00, 0x1E, 0x44] (.mov (word 1 0x104 0)) = true
    ∧ reads [0x00, 0x00, 0x00, 0x00, 0x00, 0x00, 0xF8, 0x87, 0x20, 0x01, 0x5E, 0x62] (.spill (word 2 0x104 0xFF)) = true
    ∧ reads [0x00, 0x00, 0x00, 0x00, 0x00, 0x00, 0x00, 0x80, 0x20, 0x81, 0x1F, 0x81] (.abinit (word 0x302 0x104 0)) = true
    ∧ reads [0x00, 0x00, 0x00, 0x00, 0x00, 0x1E, 0x04, 0x40, 0x00, 0x10, 0x9F, 0x83] (.qpush (word 0x220 2 0 0x83C000)) = true
    ∧ reads [0x00, 0x00, 0x00, 0x00, 0x00, 0x00, 0x00, 0x00, 0x00, 0x00, 0xDE, 0xA1] (.exit (word 0 0 0)) = true
    ∧ reads [0x00, 0x00, 0x00, 0x08, 0x00, 0x00, 0x00, 0x00, 0x80, 0x82, 0x1E, 0xE0] (.csrr (word 0x105 0 0 1)) = true := by decide +kernel

/-- R348, R349: the Farno example, 22 00 60 B8 00 02 06 00: the same IADD with LA 0 and the wait of WT, which lowers to HINT 0x0408. -/
theorem test_decode_farno :
    reads [0x22, 0x00, 0x60, 0xB8, 0x00, 0x02, 0x06, 0x00] (.iadd { word 4 5 0x30C (hint := 0x408) with g := 3, enc := .farno 8 false false }) true = true := by
  decide +kernel

/-- R208, R211: an opcode that no row has, and the sill word. -/
theorem test_decode_refused :
    (match decodeBytes false (List.replicate 12 0xFF), decodeBytes false ((List.replicate 11 0 ++ [0x7F]).map (BitVec.ofNat 8)) with
      | .error .fellOff, .error (.opcUnassigned c) => c == 0x1FC
      | _, _ => false) = true := by decide +kernel

/-! ### Single steps -/

/-- The weave of `lab` after an instruction. -/
def ran (i : Instr) (s : State) : Weave := ((after i s).weave? 0 0).getD labWeave

/-- v1 has a value in each lane, under a tag. -/
def withV1 (v : Nat → Nat) (t : Tag) : Weave :=
  (labWeave.writeLanes 1 (BitVec.ofNat 1024 (2 ^ 32 - 1)) (fun k => BitVec.ofNat 32 (v k))).writeTag 1 t

/-- The first eight registers' lane count of a weave's register, as numbers. -/
def lanesOf (w : Weave) (n : Nat) : List Nat := (List.range 32).map (fun k => (w.vlane n k).toNat)

/-- R222: the sum of 2^31 - 1 and 1 wraps in 32 bits; the tag is I32, and the PC moves on by 12 (R194). -/
theorem test_iadd_wraps :
    lanesOf (ran (.iadd (word 2 1 0x301)) (labWith (withV1 (fun _ => 0x7FFFFFFF) .i32))) 2 = List.replicate 32 0x80000000
    ∧ (ran (.iadd (word 2 1 0x301)) (labWith (withV1 (fun _ => 0x7FFFFFFF) .i32))).tag 2 = .i32
    ∧ stands (after (.iadd (word 2 1 0x301)) lab) = some (0x1000C, .ready, BitVec.ofNat 1024 (2 ^ 32 - 1)) := by
  and_intros <;> decide +kernel

/-- The example of R19: BCMP.LT v1, 40 on v1 = 16 * lane takes lanes 0 to 2 to the target, 9 words of 4 bytes on, in path 1. -/
theorem test_bcmp_splits :
    let t := after (.bcmp (word 1 0x328 1 9 8)) (labWith (withV1 (fun k => 16 * k) .i32))
    stands t 0 = some (0x1000C, .ready, BitVec.ofNat 1024 (2 ^ 32 - 8)) ∧ stands t 1 = some (0x10024, .ready, 7) := by
  and_intros <;> decide +kernel

/-- A path whose mask holds lanes 0 to 12 (the example of R272). -/
def shflLab : State := labWith ((withV1 (fun k => 10 * k) .i32).modifyPath 0 (fun q => { q with mask := BitVec.ofNat 1024 (2 ^ 13 - 1) }))

/-- R272: SHFL.IDX.W8 v2, v1, 14, p2: lanes 0 to 7 read lane 6; lanes 8 to 12 name lane 14, which is inactive, and keep their own. -/
theorem test_shfl_idx :
    (lanesOf (ran (.shfl (word 2 1 0x30E (immW 0x202) (3 * 4))) shflLab) 2).take 13 = [60, 60, 60, 60, 60, 60, 60, 60, 80, 90, 100, 110, 120]
    ∧ ((ran (.shfl (word 2 1 0x30E (immW 0x202) (3 * 4))) shflLab).pred 2).toNat % 2 ^ 13 = 0xFF := by
  and_intros <;> decide +kernel

/-- R272: SHFL.XOR.W2 v2, v1, 1, p2: pairs swap, and lane 12 keeps its own. -/
theorem test_shfl_xor :
    (lanesOf (ran (.shfl (word 2 1 0x301 (immW 0x202) (1 * 4 + 3))) shflLab) 2).take 13 = [10, 0, 30, 20, 50, 40, 70, 60, 90, 80, 110, 100, 120]
    ∧ ((ran (.shfl (word 2 1 0x301 (immW 0x202) (1 * 4 + 3))) shflLab).pred 2).toNat % 2 ^ 13 = 0xFFF := by
  and_intros <;> decide +kernel

/-- The block of R264's example: 0.5 in every lane, and 4.0 in lane 9. -/
def quantLab : State := labWith (withV1 (fun k => if k = 9 then 0x40800000 else 0x3F000000) .f32)

/-- R263: QUANT.Q4X v2, v1, v3, 1 gives 7 in the lanes but 8 and 9, which hold 6 and 8, and the scale word 0x0006_7B25. -/
theorem test_quant_q4x :
    lanesOf (ran (.quant (word 2 1 3 1 12)) quantLab) 2 = (List.range 32).map (fun k => if k = 8 then 6 else if k = 9 then 8 else 7)
    ∧ lanesOf (ran (.quant (word 2 1 3 1 12)) quantLab) 3 = List.replicate 32 0x67B25 := by
  and_intros <;> decide +kernel

/-- R265: PACK.Q4X of those codes. -/
theorem test_pack_q4x :
    lanesOf (ran (.pack (word 2 1 0 0 12)) (labWith (withV1 (fun k => if k = 8 then 6 else if k = 9 then 8 else 7) .q4x))) 2
      = [0x77777777, 0x77777786, 0x77777777, 0x77777777] ++ List.replicate 28 0 := by decide +kernel

/-- The codes and the scale that QUANT gave. -/
def codedLab : State :=
  let w := withV1 (fun k => if k = 8 then 6 else if k = 9 then 8 else 7) .q4x
  labWith ((w.writeLanes 3 (BitVec.ofNat 1024 (2 ^ 32 - 1)) (fun _ => 0x67B25)).writeTag 3 .q4x)

/-- R264: DEQUANT.Q4X gives 0.500732421875, 0.0 in lane 8 and 4.005859375 in lane 9. -/
theorem test_dequant_q4x :
    lanesOf (ran (.dequant (word 2 1 3 0 12)) codedLab) 2 = (List.range 32).map (fun k => if k = 8 then 0 else if k = 9 then 0x40803000 else 0x3F003000) := by
  decide +kernel

/-- R240: [p1] CALL v9, +36, 2 with p1 in lanes 0 to 7: they go to the target in path 1 and hold the return address; the others stay. -/
theorem test_call :
    let t := after (.call { word 9 0 2 9 with g := 1 }) (labWith (labWeave.writePred 1 (BitVec.allOnes 1024) 0xFF))
    stands t 0 = some (0x1000C, .ready, BitVec.ofNat 1024 (2 ^ 32 - 256)) ∧ stands t 1 = some (0x10024, .ready, 0xFF)
    ∧ (lanesOf ((t.weave? 0 0).getD labWeave) 9).take 9 = [0x1000C, 0x1000C, 0x1000C, 0x1000C, 0x1000C, 0x1000C, 0x1000C, 0x1000C, 0] := by
  and_intros <;> decide +kernel

/-- R93, R284: ST.B32 stores a lane's word at its address, in little-endian order, where its own core sees it; another core does not see it yet. -/
theorem test_store :
    let i : Instr := .st (byP1 (word 2 0x104 0xFF 0 0x20))
    let s := labWith (memWeave.writeLanes 2 1 (fun _ => 0x11223344))
    bytesSeen (after i s) 0 0x80000 5 = [0x44, 0x33, 0x22, 0x11, 0] ∧ bytesSeen (after i s) 1 0x80000 5 = [0, 0, 0, 0, 0] := by
  and_intros <;> decide +kernel

/-- R13, R210: the sill word fetched at the PC traps with FELL_OFF (7, 0); its path is parked on it. -/
theorem test_sill_word :
    let s := labWith labWeave
    (match ({ s with mem := s.mem.writeBytes 0x60000 (List.replicate 12 0xFF) } : State).fetch { core := 0, slot := 0, path := 0 } with
      | .moved t => match stands t with
        | some (pc, .parked k, _) => pc == 0x10000 && k.cause == cause 7 0
        | _ => false
      | _ => false) = true := by decide +kernel

/-- NOP's word, placed after reset: the next step runs it, and the path goes on 12 bytes later. -/
theorem test_with_fetch_word :
    (match step (State.reset.withFetchWord 96 (0x280 * 2 ^ 86 + 15 * 2 ^ 81)) with
      | .next t => match stands t with
        | some (pc, .ready, _) => pc == 0x1000C
        | _ => false
      | _ => false) = true := by decide +kernel

/-- The word of the example IADD, placed after reset, is the instruction that the decoder gives. -/
theorem test_decode_table_word :
    (decodeTableWord 96 0x00060200B860000000002408).map (fun i => decide (i = .iadd { word 4 5 0x30C (hint := 0x2408) with g := 3 })) = some true := by
  decide +kernel

/-! ### Witnesses of further clauses -/

/-- Class 1 special functions, loads and atomics to vz, FMTGET of vz. -/
theorem witness_to_vz :
    (∀ i ∈ [Instr.frcp (word 0xFF 0 0), .ftanh (word 0xFF 0 0), .fmtget (word 0x105 0xFF 0), .ld (word 0xFF 0x104 0xFF (immW 0x201) 0x20), .lds (word 0xFF 0x105 0 (immW 0x201) 0x20)],
      Issuing i .none memLab (envAt i memLab) ∧ ∀ t o, TagOk (envAt i memLab).w t o) ∧ (word 0xFF 0 0).xOp = .vz ∧ (word 0x105 0xFF 0).yOp = .vz :=
  ⟨ready_all 16 (by decide +kernel), by decide +kernel, by decide +kernel⟩

/-- A full channel and rows with a barrier and status words; rows that their array register traps out of range, all of them in range. -/
def rowsAll (chk : Nat) : State :=
  fullChannel.modifyCore 0 (fun k => { k with
    slots := Table.set k.slots 0 (memWeave.writeAreg 0 (BitVec.ofNat 128 (0x20000 + 32 * 2 ^ 72 + 2 * 2 ^ 112 + chk * 2 ^ 116))) })

def rowsBarrier : Fields := word 0x105 0x210 0 (immW 0x310) (0x40 + 0x80)

theorem witness_rows_barrier :
    ∀ i ∈ [Instr.gather rowsBarrier, .scatter rowsBarrier], ∀ chk ∈ [0, 1],
      Issuing i .copy (rowsAll chk) (envAt i (rowsAll chk)) ∧ PlainSpad (envAt i (rowsAll chk)).w ∧ CopyBarrier (envAt i (rowsAll chk)) (some 16)
        ∧ bitAt rowsBarrier.modN 7 = true ∧ (∀ k ∈ (envAt i (rowsAll chk)).lanes, 32 + 4 * (k / 32) + 4 ≤ (envAt i (rowsAll chk)).w.spadBytes)
        ∧ (let e := envAt i (rowsAll chk)
           aregChk (e.areg 0) = chk ∧ (∀ k ∈ e.lanes, e.inRange (e.areg 0) (offset14 rowsBarrier) 4 k = true)
           ∧ ∀ k ∈ e.lanes, outside e.w (e.scalar rowsBarrier.xOp) (k * 4) 4 0 = false)
        ∧ 16 ≤ (((rowsAll chk).core 0).channel 0).length := by
  have h : ∀ i ∈ [Instr.gather rowsBarrier, .scatter rowsBarrier], ∀ chk ∈ [0, 1],
      issues i .copy (rowsAll chk) = true
        ∧ ((envAt i (rowsAll chk)).w.windows.all (fun r => !bitAt r.toNat 97) && (envAt i (rowsAll chk)).w.engineWrites.isEmpty) = true
        ∧ ((envAt i (rowsAll chk)).f = rowsBarrier ∧ copyHasBar rowsBarrier = true ∧ (envAt i (rowsAll chk)).scalar rowsBarrier.wOp = 16
          ∧ (envAt i (rowsAll chk)).w.spadBytes = 8192)
        ∧ bitAt rowsBarrier.modN 7 = true ∧ (∀ k ∈ (envAt i (rowsAll chk)).lanes, 32 + 4 * (k / 32) + 4 ≤ (envAt i (rowsAll chk)).w.spadBytes)
        ∧ (let e := envAt i (rowsAll chk)
           aregChk (e.areg 0) = chk ∧ (∀ k ∈ e.lanes, e.inRange (e.areg 0) (offset14 rowsBarrier) 4 k = true)
           ∧ ∀ k ∈ e.lanes, outside e.w (e.scalar rowsBarrier.xOp) (k * 4) 4 0 = false)
        ∧ 16 ≤ (((rowsAll chk).core 0).channel 0).length := by decide +kernel
  intro i hi chk hc
  obtain ⟨h1, h2, ⟨h3, h4, h5, h6⟩, h7, h8, h9, h10⟩ := h i hi chk hc
  refine ⟨issuing_of_issues h1, plainSpad_of h2, ?_, h7, h8, h9, h10⟩
  unfold CopyBarrier
  rw [h3, h4, h5, h6]
  exact ⟨rfl, by decide, by decide⟩

/-- A load of permutation slot 0 by the weave is on the core. -/
theorem witness_qperm_waits :
    let s := (matrixLab 2).modifyCore 0 (fun k => { k with
      matrix := [{ weave := labWeave.id, slot := 0, path := 0, op := 7, pc := 0, work := .load 0 true 0 0 0 [] [] }] })
    Issuing (.qperm (word 2 1 0)) .none s (envAt (.qperm (word 2 1 0)) s) ∧ (envAt (.qperm (word 2 1 0)) s).w.id = labWeave.id
      ∧ ((s.core 0).perm 0).owner.holder = some labWeave.id ∧ (s.core 0).matrix.any (fun m => m.weave == labWeave.id && bitAt m.work.names 40) = true
      ∧ (word 0xFF 1 0).xOp = .vz := by
  refine ⟨issuing_of_issues (by decide +kernel), ?_, ?_, ?_, ?_⟩ <;> decide +kernel

/-- A tile task's record in the scratchpad (64 columns of tile 0 from slots 0 and 0), or the shape's words there, which make none. -/
def recordLab (good : Bool) : State :=
  (matrixLab 2).modifyWeave 0 0 (fun w =>
    if good then { w with spad := Memory.writeBytes [] 0 (toBytes 32 (64 * 2 ^ 40)) } else w)

theorem witness_task_records : ∀ good ∈ [false, true],
    let e := envAt (.mtask (word 0 0x105 0)) (recordLab good)
    let t := TileTask.ofRecord (BitVec.ofNat 256 (e.w.spad.readNat 0 32))
    Issuing (.mtask (word 0 0x105 0)) .matrix (recordLab good) e ∧ RecordAt e 32 0 (e.w.spad.readNat 0 32) ∧ e.w.matrixAbort = false
      ∧ NoReleases (recordLab good) 0 ∧ ((recordLab good).core 0).taskCount < 16
      ∧ (decide (t.recordBad = false) && decide ((((recordLab good).core 0).tile t.tile).owner.holder = some e.w.id)) = good := by
  have h : ∀ good ∈ [false, true],
    let e := envAt (.mtask (word 0 0x105 0)) (recordLab good)
    let t := TileTask.ofRecord (BitVec.ofNat 256 (e.w.spad.readNat 0 32))
    issues (.mtask (word 0 0x105 0)) .matrix (recordLab good) = true ∧ recordAt e 32 = true ∧ e.w.matrixAbort = false
      ∧ ((recordLab good).core 0).matrix = [] ∧ ((recordLab good).core 0).taskCount < 16
      ∧ (decide (t.recordBad = false) && decide ((((recordLab good).core 0).tile t.tile).owner.holder = some e.w.id)) = good := by decide +kernel
  intro good hg
  obtain ⟨h1, h2, h3, h4, h5, h6⟩ := h good hg
  exact ⟨issuing_of_issues h1, recordAt_of h2, h3, by intro m hm; rw [h4] at hm; simp at hm, h5, h6⟩

/-- DBGWR.J of s5 of the parked path from s4 and with the jamb in s6 and s7. -/
theorem witness_debug_jamb :
    let s := hingeLab (selector 0 1 5 0)
    let f := word 0 0x104 0x305 (immW 0x106) 1
    Issuing (.dbgwr f) .none s (envAt (.dbgwr f) s) ∧ f.modN = 1 ∧ (envAt (.dbgwr f) s).debugJamb.1 ≤ (envAt (.dbgwr f) s).debugJamb.2 := by
  refine ⟨issuing_of_issues (by decide +kernel), ?_, ?_⟩ <;> decide +kernel

/-- KVLD with WAIT of an entry that is VALID and NOT_RESIDENT. -/
def kvWaitLab : State := (kvLab 0).writeHomeNat 0x80400 8 (2 ^ 63 + 2 ^ 60 + 3)

def kvWaits (e : Env) : Bool :=
  match Got.okPair (e.readRangeNat e.s false 0x20000 64) with
  | some (u, d) =>
    !kvDescBad d &&
    match Got.okPair (e.kvLanes u (e.scalar e.f.yOp) d true) with
    | some (u1, ls, fs) => fs.isEmpty && u1.weave? e.a.core e.a.slot == some e.w && ls.any (fun l => entryState l.entry == 1)
    | none => false
  | none => false

theorem witness_kv_wait :
    let f := word 2 0x104 0 (immW 3 (1 * 2 ^ 10)) 2
    Issuing (.kvld f) .kv kvWaitLab (envAt (.kvld f) kvWaitLab) ∧ kvWaits (envAt (.kvld f) kvWaitLab) = true
      ∧ (envAt (.kvld f) kvWaitLab).scalar (.sreg 4) = 0x20000 ∧ bitAt f.modN 1 = true := by
  refine ⟨issuing_of_issues (by decide +kernel), ?_, ?_, ?_⟩ <;> decide +kernel

/-- QPUSH.NB to a full queue and QPOP.NB from an empty one. -/
theorem witness_queue_nb :
    ∀ x ∈ [(Instr.qpush (word 0x220 0x105 0 (immW 0x201) 1), 16), (.qpop (word 0x105 0x220 0 (immW 0x201) 1), 0)],
      Issuing x.1 .none (queueLab 0 x.2) (envAt x.1 (queueLab 0 x.2)) ∧ QueueAt (envAt x.1 (queueLab 0 x.2)) 0 0x80080 queueDesc
        ∧ (envAt x.1 (queueLab 0 x.2)).awaitsRemote = false ∧ (envAt x.1 (queueLab 0 x.2)).reserved = none
        ∧ (envAt x.1 (queueLab 0 x.2)).f.modN = 1 ∧ (envAt x.1 (queueLab 0 x.2)).s.entriesWritten 0x80080 0 0 = true := by
  have h : ∀ x ∈ [(Instr.qpush (word 0x220 0x105 0 (immW 0x201) 1), 16), (.qpop (word 0x105 0x220 0 (immW 0x201) 1), 0)],
      issues x.1 .none (queueLab 0 x.2) = true ∧ queueAt (envAt x.1 (queueLab 0 x.2)) = true
        ∧ (envAt x.1 (queueLab 0 x.2)).awaitsRemote = false ∧ (envAt x.1 (queueLab 0 x.2)).reserved = none
        ∧ (envAt x.1 (queueLab 0 x.2)).f.modN = 1 ∧ (envAt x.1 (queueLab 0 x.2)).s.entriesWritten 0x80080 0 0 = true := by decide +kernel
  exact fun x hx => ⟨issuing_of_issues (h x hx).1, queueAt_of (h x hx).2.1, (h x hx).2.2⟩

end Sys2Proof.Tests
end

section
/-! RECONV (R16, R242): the effect that each row of R16's table gives, and the run of an instruction whose effect sets the
place of its own path. -/

namespace Sys2Proof.Proofs

open Machine Laws

/-! ### An instruction that moves its own path -/

/-- `q'` stands where `q` does: its lanes, PC, condition and stack. -/
structure SamePlace (q q' : Path) : Prop where
  mask : q'.mask = q.mask
  pc : q'.pc = q.pc
  cond : q'.cond = q.cond
  stack : q'.stack = q.stack

/-- What follows an instruction that has moved its path leaves every path where it stands. -/
theorem finish_moved_samePlace {s t : State} {e : Env} {w : Weave} (pf : Bool) (hin : InHand s e)
    (hw : t.weave? e.a.core e.a.slot = some w) :
    ∃ f, (∀ q, SamePlace q (f q)) ∧ e.finish t true pf = t.setWeave e.a.core e.a.slot (w.modifyPath e.a.path f) := by
  refine ⟨_, ?_, finish_moved pf hin.stepping hin.halt hw⟩
  exact fun _ => ⟨rfl, rfl, rfl, rfl⟩

theorem ownPath_imp {s t : State} {e : Env} {P Q : Path → Prop} (h : OwnPath s e t P) (k : ∀ q, P q → Q q) :
    OwnPath s e t Q := by
  obtain ⟨w', q', hw, only, regs, jambs, rest, hq, hp, others⟩ := h
  exact ⟨w', q', hw, only, regs, jambs, rest, hq, k q' hp, others⟩

/-- From `w` to `w'` only the entry of path `p` in the path table may change. -/
structure OnlyPath (w w' : Weave) (p : Nat) : Prop where
  rest : { w' with paths := w.paths } = w
  others : ∀ i, i ≠ p → w'.path? i = w.path? i

theorem onlyPath_putPath {w : Weave} {p : Nat} (q : Option Path) (h : p < w.paths.length) :
    OnlyPath w (w.putPath p q) p :=
  ⟨rfl, fun i hi => (path_putPath w p i q h).trans (if_neg (Ne.symm hi))⟩

theorem onlyPath_modifyPath (w : Weave) (p : Nat) (f : Path → Path) : OnlyPath w (w.modifyPath p f) p :=
  ⟨rfl, fun i hi => (path_modifyPath w p i f).trans (if_neg (Ne.symm hi))⟩

theorem OnlyPath.trans {w v u : Weave} {p : Nat} (h : OnlyPath w v p) (k : OnlyPath v u p) : OnlyPath w u p where
  rest := by rw [← h.rest, ← k.rest]
  others i hi := (k.others i hi).trans (h.others i hi)

theorem OnlyPath.regsKept {w w' : Weave} {p : Nat} (h : OnlyPath w w' p) : RegsKept w w' [] := by
  rw [← h.rest]
  exact ⟨fun _ _ => ⟨rfl, rfl⟩, fun _ _ => rfl, fun _ _ => rfl, fun _ _ => rfl, fun _ _ => rfl⟩

theorem OnlyPath.jambsKept {w w' : Weave} {p : Nat} (h : OnlyPath w w' p) : JambsKept w w' [] := by
  rw [← h.rest]
  exact ⟨fun _ _ => rfl, fun _ _ => rfl⟩

theorem OnlyPath.restKept {w w' : Weave} {p : Nat} (h : OnlyPath w w' p) : RestKept w w' := by
  rw [← h.rest]; rfl

theorem setWeave_with_serial (s : State) (c n k : Nat) (w : Weave) :
    ({ s with serial := k } : State).setWeave c n w = { s.setWeave c n w with serial := k } := rfl

/-- Whatever weave the effect puts first, the state after it is the one before with the weave and the issue count set. -/
theorem put_setWeave {s : State} {e : Env} (h : InHand s e) (w w' : Weave) :
    (e.put e.s w).setWeave e.a.core e.a.slot w' = { s.setWeave e.a.core e.a.slot w' with serial := s.serial + 1 } := by
  rw [Env.put, setWeave_setWeave, h.state, h.actor, setWeave_with_serial, setWeave_setWeave]

/-- The state at issue holds the issuing weave already. -/
theorem put_self {s : State} {e : Env} (h : InHand s e) : e.put e.s e.w = e.s := by
  rw [Env.put, h.state, h.actor, setWeave_with_serial, setWeave_setWeave]

/-- An instruction whose effect puts `q` in the place of its path changes that path alone. -/
theorem ownPath_of_moved {i : Instr} {form : Form} {s : State} {e : Env} {w : Weave} {q : Path}
    (h : Issuing i form.engine s e) (hb : form.body e = .moved (e.put e.s w)) (only : OnlyPath e.w w e.a.path)
    (here : w.path? e.a.path = some q) : ∃ t, issue i form s = .next t ∧ OwnPath s e t (SamePlace q) := by
  have hin := issuing_inHand h
  obtain ⟨f, same, finished⟩ := finish_moved_samePlace ((e.put e.s w).parkedSince s e.a) hin
    (weave_setWeave e.s e.a.core e.a.slot w)
  have after := only.trans (onlyPath_modifyPath w e.a.path f)
  refine ⟨_, (issue_moved h hb).trans (congrArg _ (finished.trans (put_setWeave hin w _))), _, f q,
    weave_setWeave s _ _ _, onlyWeave_setWeave s e.a _ _, after.regsKept, after.jambsKept, after.restKept, ?_, same q,
    after.others⟩
  rw [path_modifyPath, if_pos rfl, here]; rfl

theorem ownPath_of_putPath {i : Instr} {form : Form} {s : State} {e : Env} {q : Path}
    (h : Issuing i form.engine s e) (hb : form.body e = .moved (e.put e.s (e.w.putPath e.a.path (some q)))) :
    ∃ t, issue i form s = .next t ∧ OwnPath s e t (SamePlace q) := by
  have hlt := path_lt (issuing_inHand h).path
  exact ownPath_of_moved h hb (onlyPath_putPath _ hlt) ((path_putPath _ _ _ _ hlt).trans (if_pos rfl))

/-- A safe point right after the effect changes its weave in the path's entry alone, if at all. -/
theorem enterCode_put (e : Env) (s : State) (w : Weave) :
    (e.put s w).enterCode e.a = e.put s w
    ∨ ∃ id, (e.put s w).enterCode e.a = e.put s (w.modifyPath e.a.path (fun q => { q with code := some id })) := by
  refine (enterCode_cases (e.put s w) e.a).imp_right fun ⟨id, entered⟩ => ⟨id, ?_⟩
  rw [entered, State.modifyPath, Env.put, modifyWeave_some _ (weave_setWeave _ _ _ _), setWeave_setWeave, Env.put]

/-- An effect that ends in a safe point (R355), where the path may enter a translation of its code, still changes its own
path alone. -/
theorem ownPath_of_putPath_enterCode {i : Instr} {form : Form} {s : State} {e : Env} {q : Path}
    (h : Issuing i form.engine s e)
    (hb : form.body e = .moved ((e.put e.s (e.w.putPath e.a.path (some q))).enterCode e.a)) :
    ∃ t, issue i form s = .next t ∧ OwnPath s e t (SamePlace q) := by
  rcases enterCode_put e e.s (e.w.putPath e.a.path (some q)) with stays | ⟨id, enters⟩
  · exact ownPath_of_putPath h (hb.trans (congrArg _ stays))
  · have hlt := path_lt (issuing_inHand h).path
    obtain ⟨t, ht, own⟩ := ownPath_of_moved (q := { q with code := some id }) h (hb.trans (congrArg _ enters))
      ((onlyPath_putPath _ hlt).trans (onlyPath_modifyPath _ _ _))
      (by rw [path_modifyPath, if_pos rfl, path_putPath _ _ _ _ hlt, if_pos rfl]; rfl)
    exact ⟨t, ht, ownPath_imp own fun _ k => ⟨k.mask, k.pc, k.cond, k.stack⟩⟩

/-! ### The rows of R16's table -/

theorem reconvEffect_absent {e : Env} {rid : Nat} (h : ∀ x ∈ e.p.stack, x.rid ≠ rid) : reconvEffect e rid = .done e.s := by
  have absent : e.p.stack.any (fun x => x.rid == rid) = false := by
    rw [List.any_eq_false]
    exact fun x hx => by simpa using h x hx
  unfold reconvEffect
  cases hs : e.p.stack with
  | nil => rfl
  | cons top rest =>
    have htop : top.rid ≠ rid := h top (by simp [hs])
    rw [hs] at absent
    simp [htop, absent]

theorem reconvEffect_below {e : Env} {rid : Nat} {top : StackEntry} {rest : List StackEntry}
    (hs : e.p.stack = top :: rest) (htop : top.rid ≠ rid) (hrest : ∃ x ∈ rest, x.rid = rid) :
    reconvEffect e rid = .trap (cause 9 1) (syncDetail e.p.pc.toNat rid) := by
  have below : (top :: rest).any (fun x => x.rid == rid) = true := by
    obtain ⟨x, hx, hr⟩ := hrest
    exact List.any_eq_true.2 ⟨x, List.mem_cons_of_mem _ hx, beq_iff_eq.2 hr⟩
  simp [reconvEffect, hs, htop, below, pathTrap]

theorem reconvEffect_firstArrival {e : Env} {rid : Nat} {deferred merged : LaneMask} {resume reconv after : VAddr} {age : Nat}
    {rest : List StackEntry} (hs : e.p.stack = .defer rid deferred resume merged false reconv after age :: rest) :
    reconvEffect e rid = .moved (e.put e.s (e.w.putPath e.a.path (some { (e.p.dropSince age).goOn resume with
      mask := deferred, stack := .defer rid 0 resume e.p.mask true e.p.pc e.next age :: rest }))) := by
  simp [reconvEffect, hs, StackEntry.rid]

theorem reconvEffect_secondArrival {e : Env} {rid : Nat} {deferred merged : LaneMask} {resume reconv after : VAddr} {age : Nat}
    {rest : List StackEntry} (hs : e.p.stack = .defer rid deferred resume merged true reconv after age :: rest) :
    reconvEffect e rid = .moved ((e.put e.s (e.w.putPath e.a.path (some { (e.p.dropSince age).goOn e.next with
      mask := merged ||| e.p.mask, stack := rest }))).enterCode e.a) := by
  simp [reconvEffect, hs, StackEntry.rid]

/-- R17's check of the other arrivals passes when every one of them is at this RECONV. -/
theorem reconvEffect_split {e : Env} {rid n : Nat} {rest : List StackEntry} (hs : e.p.stack = .split rid n :: rest)
    (together : ∀ i q r nx, e.w.path? i = some q → q.cond = .arrived r n nx → q.pc = e.p.pc) :
    reconvEffect e rid = .moved (e.put e.s (e.w.putPath e.a.path
      (some { e.p with cond := .arrived rid n e.next, captured := none, replayMask := none }))) := by
  simp only [reconvEffect, hs, StackEntry.rid, bne_self_eq_false, Bool.false_eq_true, if_false]
  refine if_neg ?_
  rw [Bool.not_eq_true, List.any_eq_false]
  intro i _
  split
  · next q hq =>
    split
    · next r m nx arrived =>
      intro elsewhere
      obtain ⟨serial, apart⟩ := Bool.and_eq_true_iff.1 elsewhere
      obtain rfl := beq_iff_eq.1 serial
      exact bne_iff_ne.1 apart (together i q r nx hq arrived)
    · exact Bool.false_ne_true
  · exact Bool.false_ne_true

/-! ### The obligation -/

/-- Settles O5: each row of R16's table is one equation of `reconvEffect`, and its run follows from the issue's laws. -/
theorem reconvergence : Obligations.Reconvergence := by
  unfold Obligations.Reconvergence
  intro f s e h rid
  have body : reconvForm.body e = reconvEffect e rid := by
    obtain ⟨rfl, -⟩ := issuing_fields h rfl
    rfl
  refine ⟨fun absent => ?_, fun top rest hs htop hrest => ?_, fun deferred resume merged reconv after age rest hs => ?_,
    fun deferred resume merged reconv after age rest hs => ?_, fun n rest hs together => ?_⟩
  · have unchanged : reconvForm.body e = .done (e.put e.s e.w) := by
      rw [body, reconvEffect_absent absent, put_self (issuing_inHand h)]
    obtain ⟨t, w', ht, run, -⟩ := registerRun (form := reconvForm) h unchanged (RegsOnly.refl e.w [])
      (fun _ hx => absurd hx List.not_mem_nil)
    exact ⟨t, w', ht, run⟩
  · exact issue_trap (form := reconvForm) h (body.trans (reconvEffect_below hs htop hrest))
  · obtain ⟨t, ht, own⟩ := ownPath_of_putPath (form := reconvForm) h (body.trans (reconvEffect_firstArrival hs))
    exact ⟨t, ht, ownPath_imp own fun q k => ⟨k.mask, k.pc, k.cond, resume, k.stack⟩⟩
  · obtain ⟨t, ht, own⟩ := ownPath_of_putPath_enterCode (form := reconvForm) h (body.trans (reconvEffect_secondArrival hs))
    exact ⟨t, ht, ownPath_imp own fun q k => ⟨k.mask, k.pc, k.cond, k.stack⟩⟩
  · obtain ⟨t, ht, own⟩ := ownPath_of_putPath (form := reconvForm) h (body.trans (reconvEffect_split hs together))
    exact ⟨t, ht, ownPath_imp own fun q k => ⟨k.mask, k.pc, k.cond, k.stack⟩⟩

end Sys2Proof.Proofs
end

section
/-! The integer arithmetic forms (R222, R223): the fitted pattern is the exact result narrowed, and the run of a form whose
value narrows an exact integer function of its sources. -/

namespace Sys2Proof.Proofs

open Machine Laws

/-! ### Fitting an exact result to w bits (R223) -/

theorem cast_two_pow (w : Nat) : ((2 ^ w : Nat) : Int) = 2 ^ w := Int.natCast_pow 2 w

theorem two_pow_pos (w : Nat) : (0 : Int) < 2 ^ w := Int.pow_pos (by decide)

theorem two_mul_two_pow_pred {w : Nat} (hw : 0 < w) : (2 : Int) * 2 ^ (w - 1) = 2 ^ w := by
  have nat : 2 ^ (w - 1) + 2 ^ (w - 1) = 2 ^ w := Nat.two_pow_pred_add_two_pow_pred hw
  rw [← cast_two_pow, ← cast_two_pow, ← nat, Int.natCast_add, Int.two_mul]

theorem cast_uwrap (w : Nat) (i : Int) : (uwrap w i : Int) = i % 2 ^ w := by
  rw [uwrap, cast_two_pow, Int.toNat_of_nonneg (Int.emod_nonneg _ (Int.ne_of_gt (two_pow_pos w)))]

theorem uwrap_lt (w : Nat) (i : Int) : uwrap w i < 2 ^ w := by
  rw [← Int.ofNat_lt, cast_uwrap, cast_two_pow]
  exact Int.emod_lt_of_pos _ (two_pow_pos w)

theorem cast_uwrap_of_unsigned {w : Nat} {i : Int} (lo : 0 ≤ i) (hi : i < 2 ^ w) : (uwrap w i : Int) = i := by
  rw [cast_uwrap, Int.emod_eq_of_lt lo hi]

theorem cast_uwrap_of_negative {w : Nat} {i : Int} (lo : -2 ^ w ≤ i) (hi : i < 0) : (uwrap w i : Int) = i + 2 ^ w := by
  rw [cast_uwrap, ← Int.add_emod_right, Int.emod_eq_of_lt (by omega) (by omega)]

/-- A pattern read as two's complement, by its value as an integer. -/
theorem signed_of_lt {w v : Nat} (h : v < 2 ^ w) :
    signed w v = if (2 : Int) * v < 2 ^ w then (v : Int) else (v : Int) - 2 ^ w := by
  simp only [signed, Nat.mod_eq_of_lt h, ← cast_two_pow]
  split <;> split <;> omega

theorem signed_uwrap_of_signed {w : Nat} {i : Int} (hw : 0 < w) (lo : -2 ^ (w - 1) ≤ i) (hi : i < 2 ^ (w - 1)) :
    signed w (uwrap w i) = i := by
  have double := two_mul_two_pow_pred hw
  rw [signed_of_lt (uwrap_lt w i)]
  by_cases negative : i < 0
  · rw [cast_uwrap_of_negative (by omega) negative, if_neg (by omega), Int.add_sub_cancel]
  · rw [cast_uwrap_of_unsigned (by omega) (by omega), if_pos (by omega)]

theorem clampInt_eq {lo hi : Int} (h : lo ≤ hi) (r : Int) : clampInt r lo hi = max lo (min r hi) := by
  unfold clampInt
  (repeat' split) <;> omega

theorem narrowed_uwrap (w : Nat) (isSigned : Bool) (r : Int) : Narrowed w isSigned false r (uwrap w r) := by
  refine ⟨uwrap_lt w r, ?_⟩
  rw [if_neg Bool.false_ne_true, cast_uwrap]
  exact Int.emod_eq_zero_of_dvd Int.dvd_self_sub_emod

theorem narrowed_clamped_signed {w : Nat} (hw : 0 < w) (r : Int) :
    Narrowed w true true r (uwrap w (clampInt r (minInt w) (maxInt w))) := by
  have pos := two_pow_pos (w - 1)
  refine ⟨uwrap_lt w _, ?_⟩
  rw [if_pos rfl, if_pos rfl, minInt, maxInt, cast_two_pow, clampInt_eq (by omega)]
  exact signed_uwrap_of_signed hw (by omega) (by omega)

theorem narrowed_clamped_unsigned (w : Nat) (r : Int) :
    Narrowed w false true r (uwrap w (clampInt r 0 ((2 ^ w : Nat) - 1))) := by
  have pos := two_pow_pos w
  refine ⟨uwrap_lt w _, ?_⟩
  rw [if_pos rfl, if_neg Bool.false_ne_true, cast_two_pow, clampInt_eq (by omega)]
  exact cast_uwrap_of_unsigned (by omega) (by omega)

theorem narrowed_fit {w : Nat} (hw : 0 < w) (isSigned sat : Bool) (r : Int) :
    Narrowed w isSigned sat r (fit r w isSigned sat) := by
  match sat, isSigned with
  | false, isSigned => exact narrowed_uwrap w isSigned r
  | true, true => exact narrowed_clamped_signed hw r
  | true, false => exact narrowed_clamped_unsigned w r

/-! ### The run of an arithmetic form -/

theorem width_pos (o : Operand) : 0 < o.width := by
  cases o <;> simp [Operand.width]

/-- A source as the number its type reads (R222). -/
theorem asNumber_read (e : Env) (f : Fields) (w k : Nat) (o : Operand) :
    asNumber (Fields.signedIt f) w (e.read w o k) = if f.it % 2 = 0 then e.readInt w o k else (e.read w o k : Int) := by
  simp [asNumber, Fields.signedIt, Env.readInt]

/-- Reading a missing source as 0 commutes with reading a source as a number. -/
theorem arg_map_asNumber (isSigned : Bool) (w : Nat) (vs : List Nat) (i : Nat) :
    arg (vs.map (asNumber isSigned w)) i = asNumber isSigned w (argN vs i) := by
  have zero : asNumber isSigned w 0 = 0 := by simp [asNumber, signed]
  rw [arg, argN, List.getElem?_map, ← Option.getD_map (asNumber isSigned w) 0, zero]

/-- A checked form with tag I32 runs as an arithmetic form when its value narrows the exact result of its sources. -/
theorem arithmeticRuns_of_intForm {mk : Fields → Instr} {sig : Sig} {srcs : List (Fields → Operand)} {mayClamp : Bool}
    {exact : Nat → List Int → Int} {value : Fields → Nat → List Nat → Nat} {jamb : Fields → Nat → List Jamb → Jamb}
    (hs : ∀ f, sigOf (mk f) = some (sig, f))
    (hx : ∀ f s, exec (mk f) s = issue (mk f) (intForm srcs true .i32 value jamb) s)
    (hv : ∀ f w vs, 0 < w → Narrowed w (Fields.signedIt f) (mayClamp && f.sat)
      (exact w (vs.map (asNumber (Fields.signedIt f) w))) (value f w vs)) :
    ArithmeticRuns mk srcs mayClamp exact := by
  intro f s e h tags
  obtain ⟨t, w', run, only, tagged, took⟩ := intForm_run (value := value) (jamb := jamb) (hs f) h (fun _ => tags)
  refine ⟨t, w', (hx f s).trans run, only, tagged, _, took, fun k => ?_⟩
  have narrowed := hv f f.xOp.width (srcs.map (fun o => e.read f.xOp.width (o f) k)) (width_pos _)
  simp only [List.map_map, Function.comp_def, asNumber_read] at narrowed
  exact narrowed

/-- The forms of R222 that allow .SAT. -/
theorem arithmeticRuns_of_arithForm {mk : Fields → Instr} {sig : Sig} {srcs : List (Fields → Operand)}
    {exact : List Int → Int} {hull : Nat → List Jamb → Int × Int} (hs : ∀ f, sigOf (mk f) = some (sig, f))
    (hx : ∀ f s, exec (mk f) s = issue (mk f) (arithForm srcs exact hull) s) :
    ArithmeticRuns mk srcs true (fun _ => exact) :=
  arithmeticRuns_of_intForm hs hx (fun _ _ _ hw => narrowed_fit hw _ _ _)

/-- The forms of R222 with two sources for which .SAT is reserved: IMULH, IMIN and IMAX. -/
theorem arithmeticRuns_of_wrapForm {mk : Fields → Instr} {sig : Sig} {exact : Nat → Int → Int → Int}
    {jamb : Fields → Nat → List Jamb → Jamb} (hs : ∀ f, sigOf (mk f) = some (sig, f))
    (hx : ∀ f s, exec (mk f) s = issue (mk f) (intForm srcYZ true .i32 (fun f w vs =>
      uwrap w (exact w (asNumber (Fields.signedIt f) w (argN vs 0)) (asNumber (Fields.signedIt f) w (argN vs 1)))) jamb) s) :
    ArithmeticRuns mk srcYZ false (fun w l => exact w (first l) (second l)) := by
  refine arithmeticRuns_of_intForm hs hx (fun f w vs _ => ?_)
  rw [← arg_map_asNumber, ← arg_map_asNumber]
  exact narrowed_uwrap w _ _

theorem natAbs_eq_ite (x : Int) : (x.natAbs : Int) = if x < 0 then -x else x := by
  split <;> omega

/-- IMULH: the exact result is ⌊x · y ÷ 2^w⌋. -/
theorem arithmeticRuns_imulh :
    ArithmeticRuns .imulh srcYZ false (fun w l => first l * second l / (2 ^ w : Int)) := by
  have runs : ArithmeticRuns .imulh srcYZ false (fun w l => floorShift (first l * second l) w) :=
    arithmeticRuns_of_wrapForm (exact := fun w x y => floorShift (x * y) w) (fun _ => rfl) (fun _ _ => rfl)
  simpa only [floorShift, cast_two_pow] using runs

/-- IABS: the exact result is |x|. -/
theorem arithmeticRuns_iabs :
    ArithmeticRuns .iabs srcY true (fun _ l => if first l < 0 then -first l else first l) := by
  have runs : ArithmeticRuns .iabs srcY true (fun _ l => (first l).natAbs) :=
    arithmeticRuns_of_arithForm (fun _ => rfl) (fun _ _ => rfl)
  simpa only [natAbs_eq_ite] using runs

/-! ### The obligation -/

/-- Settles O1: each form is one of two shapes, whose value narrows the exact result (`narrowed_fit`, `narrowed_uwrap`). -/
theorem integerArithmetic : Obligations.IntegerArithmetic := by
  unfold Obligations.IntegerArithmetic
  refine ⟨?iadd, ?isub, ?imul, arithmeticRuns_imulh, ?imad, ?imin, ?imax, arithmeticRuns_iabs, ?ineg⟩
  case iadd | isub | imul | imad | ineg => exact arithmeticRuns_of_arithForm (fun _ => rfl) (fun _ _ => rfl)
  case imin => exact arithmeticRuns_of_wrapForm (exact := fun _ => min) (fun _ => rfl) (fun _ _ => rfl)
  case imax => exact arithmeticRuns_of_wrapForm (exact := fun _ => max) (fun _ => rfl) (fun _ _ => rfl)

end Sys2Proof.Proofs
end
